-- ==== Sys2Proof/Word.lean ====
section
/-! DEFINITION. The word types of the SX9: 64-bit instruction words and registers, 8-bit bytes (spec 11 R286, 12 R306). -/

namespace Sys2Proof

/-- One 64-bit word: a scalar register, an instruction word, a literal (R286, R306). -/
abbrev Word := BitVec 64

/-- One byte of memory. -/
abbrev Byte := BitVec 8

end Sys2Proof
end

