-- ==== Sys2Proof/Machine/Bits.lean ====
section
/-! DEFINITION. Bit fields, sign extension and byte order (spec 00 R4: little-endian; spec 00 R6 to R8). -/

namespace Sys2Proof.Machine

/-- The low `n` bits of `v` read as a signed number. -/
def toSigned (n v : Nat) : Int :=
  if n = 0 then 0
  else if v % 2 ^ n < 2 ^ (n - 1) then (v % 2 ^ n : Nat) else (v % 2 ^ n : Nat) - (2 ^ n : Nat)

/-- `z` modulo 2^n as a natural number. -/
def wrap (n : Nat) (z : Int) : Nat := (z % (2 ^ n : Nat)).toNat

/-- The low `n` bits of `v`, sign-extended to a word. -/
def sextWord (n v : Nat) : Word := BitVec.ofInt 64 (toSigned n v)

/-- The low `n` bits of `v` as a word. -/
def zextWord (n v : Nat) : Word := BitVec.ofNat 64 (v % 2 ^ n)

/-- Bits `lo + n − 1 .. lo` of a number. -/
def field (v lo n : Nat) : Nat := (v >>> lo) % 2 ^ n

/-- `v` with bits `lo + n − 1 .. lo` replaced by `x`. -/
def setField (v lo n x : Nat) : Nat := v - (field v lo n <<< lo) + ((x % 2 ^ n) <<< lo)

/-- The `n` bytes of `v`, least significant first (R4). -/
def leBytes : Nat → Nat → List Byte
  | 0, _ => []
  | n + 1, v => BitVec.ofNat 8 v :: leBytes n (v / 256)

/-- The number that bytes in little-endian order stand for (R4). -/
def ofLe : List Byte → Nat
  | [] => 0
  | b :: t => b.toNat + 256 * ofLe t

/-- ⌈a ÷ b⌉. -/
def cdiv (a b : Nat) : Nat := (a + b - 1) / b

/-- The bits that hold the number: 0 for 0. -/
def bitLen (v : Nat) : Nat := if v = 0 then 0 else Nat.log2 v + 1

/-- The count of one bits among the low `n`. -/
def popCount : Nat → Nat → Nat
  | 0, _ => 0
  | n + 1, v => (v % 2) + popCount n (v / 2)

/-- Leading zero bits of the low `n`. -/
def clzN (n v : Nat) : Nat := n - bitLen (v % 2 ^ n)

/-- Trailing zero bits of the low `n`; `n` for 0. -/
def ctzN : Nat → Nat → Nat
  | 0, _ => 0
  | n + 1, v => if v % 2 = 1 then 0 else 1 + ctzN n (v / 2)

/-- The low `n` bits in reverse order. -/
def revBits : Nat → Nat → Nat
  | 0, _ => 0
  | n + 1, v => (v % 2) <<< n ||| revBits n (v / 2)

end Sys2Proof.Machine
end

