-- ==== Sys2Proof/Syntax.lean ====
section
/-! DEFINITION. The operations and events of the SX9 as syntax: one constructor of `Instr` for each row of
spec/opcode_table.json. A program instruction carries the fields of its format (spec 12 R308), with the literal
in place of bit L and the next word (R296). An event carries the unit it happens at and whatever comes from
outside the device (spec 95). -/

namespace Sys2Proof

/-- Format A (R308). `lit` is the literal of an instruction with L = 1 (R296). -/
structure FmtA where
  gm : BitVec 4
  lit : Option Word
  d : BitVec 6
  a : BitVec 6
  b : BitVec 6
  imm : BitVec 32
  deriving DecidableEq, Repr

/-- Format A.f: format A with a function field (R308). -/
structure FmtF where
  gm : BitVec 4
  lit : Option Word
  d : BitVec 6
  a : BitVec 6
  b : BitVec 6
  fn : BitVec 4
  imm : BitVec 28
  deriving DecidableEq, Repr

/-- Format B, which has no literal (R308, R296). -/
structure FmtB where
  gm : BitVec 4
  a : BitVec 6
  k : BitVec 12
  off : BitVec 32
  deriving DecidableEq, Repr

/-- Format M (R308). -/
structure FmtM where
  gm : BitVec 4
  lit : Option Word
  d : BitVec 6
  base : BitVec 6
  index : BitVec 6
  scope : BitVec 2
  shift : BitVec 3
  off : BitVec 27
  deriving DecidableEq, Repr

/-- Format V; `gm` selects the mask (R308, R293). -/
structure FmtV where
  gm : BitVec 4
  lit : Option Word
  vd : BitVec 5
  va : BitVec 5
  vb : BitVec 5
  vc : BitVec 5
  vl : BitVec 6
  fmt : BitVec 6
  rnd : BitVec 3
  sat : BitVec 1
  s : BitVec 1
  xs : BitVec 6
  fn : BitVec 7
  deriving DecidableEq, Repr

/-- Format W; `gm` selects the mask (R308, R293). -/
structure FmtW where
  gm : BitVec 4
  lit : Option Word
  vd : BitVec 5
  vi : BitVec 5
  base : BitVec 6
  stride : BitVec 6
  vl : BitVec 6
  fmt : BitVec 6
  scope : BitVec 2
  off : BitVec 14
  deriving DecidableEq, Repr

/-- Format T (R308). -/
structure FmtT where
  gm : BitVec 4
  lit : Option Word
  td : BitVec 6
  ta : BitVec 6
  tb : BitVec 6
  tc : BitVec 6
  xs : BitVec 6
  aux : BitVec 6
  mode : BitVec 4
  imm : BitVec 10
  deriving DecidableEq, Repr

/-- Format C (R308). -/
structure FmtC where
  gm : BitVec 4
  lit : Option Word
  t : BitVec 6
  base : BitVec 6
  layout : BitVec 5
  token : BitVec 6
  scope : BitVec 2
  xo : BitVec 6
  off : BitVec 19
  deriving DecidableEq, Repr

/-- Format Q (R308). -/
structure FmtQ where
  gm : BitVec 4
  lit : Option Word
  d : BitVec 6
  a : BitVec 6
  b : BitVec 6
  n : BitVec 11
  imm : BitVec 21
  deriving DecidableEq, Repr

/-- Format Y (R308). -/
structure FmtY where
  gm : BitVec 4
  lit : Option Word
  d : BitVec 6
  a : BitVec 6
  c : BitVec 12
  imm : BitVec 26
  deriving DecidableEq, Repr

/-- The five engine queues of a core (spec 06). -/
inductive EngineQ where
  | copyIn | copyOut | matrix | lane | scan
  deriving DecidableEq, Repr

/-- An egress of a mesh router (R169); `here` is the local egress, `bridge` the die bridge. -/
inductive Port where
  | here | north | east | south | west | bridge
  deriving DecidableEq, Repr

/-- The atomic operations of group 4 (R414), carried to a home or a peer (R39). -/
inductive AmoOp where
  | add | and | or | xor | min | max | minn | maxn | swp | cas | faddF32
  deriving DecidableEq, Repr

/-- The content of an SXL message (R39, R44, R46): masks have one bit per byte; RESP has its status and, for OK, the bytes it carries;
STAGGER its 24 bytes of data; TIMESYNC the request's t1, or t1, t2 and t3. -/
inductive SxlBody where
  | write (addr : Nat) (bytes : List Byte) (mask : List Bool)
  | read (addr n : Nat)
  | atomic (addr n : Nat) (op : AmoOp) (operand compare : Nat)
  | signal (addr : Nat) (value : Word) (add : Bool)
  | clove
  | resp (status n value : Nat)
  | ack (status : Nat)
  | stagger (data : List Byte)
  | timeAsk (t1 : Nat)
  | timeTell (t1 t2 t3 : Nat)
  deriving DecidableEq, Repr

/-- The channels of SXL (R39). -/
inductive Channel where
  | req | rsp | ctl
  deriving DecidableEq, Repr

/-- An SXL message on its way from one device to another (R38 to R41). -/
structure SxlMsg where
  src : Nat
  dst : Nat
  tag : Nat
  hops : Nat
  body : SxlBody
  deriving DecidableEq, Repr

/-- A STAGGER message (R44). -/
structure StaggerMsg where
  t0 : Nat
  width : Nat
  slots : Nat
  origin : Nat
  seq : Nat
  deriving DecidableEq, Repr

/-- A flit (R38): its header's sequence number, acknowledged sequence number and channel, whether its CRC holds, its messages. -/
structure Flit where
  seq : Nat
  ack : Nat
  channel : Channel
  crcOk : Bool
  msgs : List SxlMsg
  deriving DecidableEq, Repr

/-- What a scrub read finds in a line (R57, R60, R61). -/
inductive LineError where
  | none | oneSymbol | multiBit | uncorrectable
  deriving DecidableEq, Repr

/-- A window of the host on the device: of the PF (0) or a VF, BAR0 or BAR4 (R31). -/
structure HostWindow where
  vf : Nat
  bar4 : Bool
  deriving DecidableEq, Repr

/-- A die's fuses: its two clusters of eight sites, the second counted on from the first; the site fused off in each other cluster (R16,
R28). -/
structure SiteMap where
  eight : Nat
  next : Nat
  sites : List Nat
  deriving DecidableEq, Repr

/-- What a cold reset finds outside the rules: the rate each stack reaches (0 to 2, 3 = fails), the self-test and the fuses' integrity; the
firmware image with its version, signature and public key; what its firmware measures; the values that are set per package (R20, R22, R28,
R62). -/
structure BootInput where
  rates : List Nat
  selfTestOk : Bool
  fusesOk : Bool
  image : List Byte
  imageVersion : Word
  imageKey : List Byte
  imageSig : List Byte
  measurements : List (List Byte)
  step : BitVec 8
  clkbin : BitVec 8
  serial : Word
  fuseN : SiteMap
  fuseS : SiteMap
  hours : Nat
  deriving DecidableEq, Repr

/-- The operations and events of spec/opcode_table.json, one constructor a row. -/
inductive Instr where
  /-- ADD (R328). -/
  | add (w : Bool) (f : FmtA)
  /-- SUB (R328). -/
  | sub (w : Bool) (f : FmtA)
  /-- MUL (R328). -/
  | mul (w : Bool) (f : FmtA)
  /-- MULH (R328). -/
  | mulh (f : FmtA)
  /-- MULHN (R328). -/
  | mulhn (f : FmtA)
  /-- DIV (R328). -/
  | div (f : FmtA)
  /-- DIVN (R328). -/
  | divn (f : FmtA)
  /-- REM (R328). -/
  | rem (f : FmtA)
  /-- REMN (R328). -/
  | remn (f : FmtA)
  /-- AND (R328). -/
  | and (f : FmtA)
  /-- OR (R328). -/
  | or (f : FmtA)
  /-- XOR (R328). -/
  | xor (f : FmtA)
  /-- ANDN (R328). -/
  | andn (f : FmtA)
  /-- ORN (R328). -/
  | orn (f : FmtA)
  /-- SHL (R328). -/
  | shl (w : Bool) (f : FmtA)
  /-- SHR (R328). -/
  | shr (w : Bool) (f : FmtA)
  /-- SAR (R328). -/
  | sar (w : Bool) (f : FmtA)
  /-- ROL (R328). -/
  | rol (f : FmtA)
  /-- ROR (R328). -/
  | ror (f : FmtA)
  /-- MIN (R328). -/
  | min (f : FmtA)
  /-- MAX (R328). -/
  | max (f : FmtA)
  /-- MINN (R328). -/
  | minn (f : FmtA)
  /-- MAXN (R328). -/
  | maxn (f : FmtA)
  /-- CLZ (R328). -/
  | clz (f : FmtA)
  /-- CTZ (R328). -/
  | ctz (f : FmtA)
  /-- POPC (R328). -/
  | popc (f : FmtA)
  /-- BREV (R328). -/
  | brev (f : FmtA)
  /-- BSWAP (R328). -/
  | bswap (f : FmtA)
  /-- SEXT (R328). -/
  | sext (f : FmtA)
  /-- ZEXT (R328). -/
  | zext (f : FmtA)
  /-- MOV (R328). -/
  | mov (f : FmtA)
  /-- ABS (R328). -/
  | abs (f : FmtA)
  /-- BFX (R329). -/
  | bfx (f : FmtA)
  /-- BFXN (R329). -/
  | bfxn (f : FmtA)
  /-- BFI (R329). -/
  | bfi (f : FmtA)
  /-- LEA (R330). -/
  | lea (f : FmtF)
  /-- SEL (R330). -/
  | sel (f : FmtF)
  /-- SETP (R331). -/
  | setp (f : FmtF)
  /-- SETX (R331). -/
  | setx (f : FmtF)
  /-- PLOG (R332). -/
  | plog (f : FmtF)
  /-- FADD (R334). -/
  | fadd (dbl : Bool) (f : FmtF)
  /-- FSUB (R334). -/
  | fsub (dbl : Bool) (f : FmtF)
  /-- FMUL (R334). -/
  | fmul (dbl : Bool) (f : FmtF)
  /-- FMAC (R334). -/
  | fmac (dbl : Bool) (f : FmtF)
  /-- FDIV (R334). -/
  | fdiv (dbl : Bool) (f : FmtF)
  /-- FSQRT (R334). -/
  | fsqrt (dbl : Bool) (f : FmtF)
  /-- FMIN (R335). -/
  | fmin (dbl : Bool) (f : FmtF)
  /-- FMAX (R335). -/
  | fmax (dbl : Bool) (f : FmtF)
  /-- FSGN (R335). -/
  | fsgn (dbl : Bool) (f : FmtF)
  /-- FSETP (R336). -/
  | fsetp (dbl : Bool) (f : FmtF)
  /-- FRND (R337). -/
  | frnd (dbl : Bool) (f : FmtF)
  /-- FCVT (R338). -/
  | fcvt (f : FmtF)
  /-- FCLASS (R339). -/
  | fclass (f : FmtF)
  /-- BR (R341). -/
  | br (f : FmtB)
  /-- CALL (R341). -/
  | call (f : FmtB)
  /-- LOOP (R341). -/
  | loop (f : FmtB)
  /-- JMP (R342). -/
  | jmp (f : FmtA)
  /-- CALLR (R342). -/
  | callr (f : FmtA)
  /-- RET (R342). -/
  | ret (f : FmtA)
  /-- CALLT (R343). -/
  | callt (f : FmtA)
  /-- BRX (R344). -/
  | brx (f : FmtA)
  /-- REP (R298). -/
  | rep (f : FmtA)
  /-- REP_REPETITION (R298). -/
  | repRepetition
  /-- YIELD (R346). -/
  | yield (f : FmtA)
  /-- NOP (R346). -/
  | nop (f : FmtA)
  /-- EXIT (R347). -/
  | exit (f : FmtA)
  /-- TRAP (R348). -/
  | trap (f : FmtA)
  /-- BRK (R348). -/
  | brk (f : FmtA)
  /-- WFE (R349). -/
  | wfe (f : FmtA)
  /-- WFE_WAKE (R349). -/
  | wfeWake (h : Nat)
  /-- LEND (R350). -/
  | lend (f : FmtA)
  /-- LDS8 (R412). -/
  | lds8 (f : FmtM)
  /-- LDS16 (R412). -/
  | lds16 (f : FmtM)
  /-- LDS32 (R412). -/
  | lds32 (f : FmtM)
  /-- LDZ8 (R412). -/
  | ldz8 (f : FmtM)
  /-- LDZ16 (R412). -/
  | ldz16 (f : FmtM)
  /-- LDZ32 (R412). -/
  | ldz32 (f : FmtM)
  /-- LD64 (R412). -/
  | ld64 (f : FmtM)
  /-- ST8 (R412). -/
  | st8 (f : FmtM)
  /-- ST16 (R412). -/
  | st16 (f : FmtM)
  /-- ST32 (R412). -/
  | st32 (f : FmtM)
  /-- ST64 (R412). -/
  | st64 (f : FmtM)
  /-- LDA (R413). -/
  | lda (dbl : Bool) (f : FmtM)
  /-- STL (R413). -/
  | stl (dbl : Bool) (f : FmtM)
  /-- AMOADD (R414). -/
  | amoadd (dbl : Bool) (f : FmtM)
  /-- AMOAND (R414). -/
  | amoand (dbl : Bool) (f : FmtM)
  /-- AMOOR (R414). -/
  | amoor (dbl : Bool) (f : FmtM)
  /-- AMOXOR (R414). -/
  | amoxor (dbl : Bool) (f : FmtM)
  /-- AMOMIN (R414). -/
  | amomin (dbl : Bool) (f : FmtM)
  /-- AMOMAX (R414). -/
  | amomax (dbl : Bool) (f : FmtM)
  /-- AMOMINN (R414). -/
  | amominn (dbl : Bool) (f : FmtM)
  /-- AMOMAXN (R414). -/
  | amomaxn (dbl : Bool) (f : FmtM)
  /-- AMOSWP (R414). -/
  | amoswp (dbl : Bool) (f : FmtM)
  /-- AMOCAS (R414). -/
  | amocas (dbl : Bool) (f : FmtM)
  /-- AMOFADD (R414). -/
  | amofadd (f : FmtM)
  /-- FENCE_ACQ (R415). -/
  | fenceAcq (f : FmtM)
  /-- FENCE_REL (R415). -/
  | fenceRel (f : FmtM)
  /-- FENCE_AR (R415). -/
  | fenceAr (f : FmtM)
  /-- QFENCE (R416). -/
  | qfence (f : FmtM)
  /-- CWB (R417). -/
  | cwb (f : FmtM)
  /-- CINV (R417). -/
  | cinv (f : FmtM)
  /-- CFLUSH (R417). -/
  | cflush (f : FmtM)
  /-- PREF (R418). -/
  | pref (f : FmtM)
  /-- STPATCH (R419). -/
  | stpatch (f : FmtM)
  /-- IFENCE (R218). -/
  | ifence (f : FmtM)
  /-- LCLAIM (R352). -/
  | lclaim (f : FmtA)
  /-- LCLAIM_GRANT (R352). -/
  | lclaimGrant (core : Nat)
  /-- LRELEASE (R353). -/
  | lrelease (f : FmtA)
  /-- VADD (R354). -/
  | vadd (f : FmtV)
  /-- VSUB (R354). -/
  | vsub (f : FmtV)
  /-- VADDS (R354). -/
  | vadds (f : FmtV)
  /-- VSUBS (R354). -/
  | vsubs (f : FmtV)
  /-- VMUL (R354). -/
  | vmul (f : FmtV)
  /-- VMULH (R354). -/
  | vmulh (f : FmtV)
  /-- VMULHN (R354). -/
  | vmulhn (f : FmtV)
  /-- VMAC (R354). -/
  | vmac (f : FmtV)
  /-- VMIN (R354). -/
  | vmin (f : FmtV)
  /-- VMAX (R354). -/
  | vmax (f : FmtV)
  /-- VMINN (R354). -/
  | vminn (f : FmtV)
  /-- VMAXN (R354). -/
  | vmaxn (f : FmtV)
  /-- VABS (R354). -/
  | vabs (f : FmtV)
  /-- VAND (R354). -/
  | vand (f : FmtV)
  /-- VOR (R354). -/
  | vor (f : FmtV)
  /-- VXOR (R354). -/
  | vxor (f : FmtV)
  /-- VANDN (R354). -/
  | vandn (f : FmtV)
  /-- VSHL (R354). -/
  | vshl (f : FmtV)
  /-- VSHR (R354). -/
  | vshr (f : FmtV)
  /-- VSAR (R354). -/
  | vsar (f : FmtV)
  /-- VPOPC (R354). -/
  | vpopc (f : FmtV)
  /-- VCLZ (R354). -/
  | vclz (f : FmtV)
  /-- VCMP (R355). -/
  | vcmp (f : FmtV)
  /-- VFADD (R356). -/
  | vfadd (f : FmtV)
  /-- VFSUB (R356). -/
  | vfsub (f : FmtV)
  /-- VFMUL (R356). -/
  | vfmul (f : FmtV)
  /-- VFMA (R356). -/
  | vfma (f : FmtV)
  /-- VFDIV (R356). -/
  | vfdiv (f : FmtV)
  /-- VFSQRT (R356). -/
  | vfsqrt (f : FmtV)
  /-- VFMIN (R356). -/
  | vfmin (f : FmtV)
  /-- VFMAX (R356). -/
  | vfmax (f : FmtV)
  /-- VFCMP (R356). -/
  | vfcmp (f : FmtV)
  /-- VCLASS (R356). -/
  | vclass (f : FmtV)
  /-- VSFU (R357). -/
  | vsfu (f : FmtV)
  /-- VCVT (R358). -/
  | vcvt (f : FmtV)
  /-- VCVTSR (R359). -/
  | vcvtsr (f : FmtV)
  /-- VSEL (R360). -/
  | vsel (f : FmtV)
  /-- VMOV (R360). -/
  | vmov (f : FmtV)
  /-- VIOTA (R360). -/
  | viota (f : FmtV)
  /-- VEXT (R361). -/
  | vext (f : FmtV)
  /-- VINS (R361). -/
  | vins (f : FmtV)
  /-- VPERM (R362). -/
  | vperm (f : FmtV)
  /-- VSLUP (R362). -/
  | vslup (f : FmtV)
  /-- VSLDN (R362). -/
  | vsldn (f : FmtV)
  /-- VCOMP (R362). -/
  | vcomp (f : FmtV)
  /-- VEXPD (R362). -/
  | vexpd (f : FmtV)
  /-- VRSUM (R363). -/
  | vrsum (f : FmtV)
  /-- VRMAX (R363). -/
  | vrmax (f : FmtV)
  /-- VRMIN (R363). -/
  | vrmin (f : FmtV)
  /-- VRFSUM (R363). -/
  | vrfsum (f : FmtV)
  /-- VRFMAX (R363). -/
  | vrfmax (f : FmtV)
  /-- VRFMIN (R363). -/
  | vrfmin (f : FmtV)
  /-- MLOG (R364). -/
  | mlog (f : FmtV)
  /-- MPOP (R364). -/
  | mpop (f : FmtV)
  /-- MFIRST (R364). -/
  | mfirst (f : FmtV)
  /-- MSBF (R364). -/
  | msbf (f : FmtV)
  /-- MSIF (R364). -/
  | msif (f : FmtV)
  /-- MSOF (R364). -/
  | msof (f : FmtV)
  /-- MSET (R364). -/
  | mset (f : FmtV)
  /-- VDOT (R365). -/
  | vdot (f : FmtV)
  /-- VWMAC (R365). -/
  | vwmac (f : FmtV)
  /-- VRNG (R365). -/
  | vrng (f : FmtV)
  /-- VLD (R366). -/
  | vld (f : FmtW)
  /-- VLDS (R366). -/
  | vlds (f : FmtW)
  /-- VLDX (R366). -/
  | vldx (f : FmtW)
  /-- VLDFF (R368). -/
  | vldff (f : FmtW)
  /-- VST (R366). -/
  | vst (f : FmtW)
  /-- VSTS (R366). -/
  | vsts (f : FmtW)
  /-- VSTX (R366). -/
  | vstx (f : FmtW)
  /-- VAMOADD (R369). -/
  | vamoadd (f : FmtW)
  /-- VTLD (R370). -/
  | vtld (f : FmtW)
  /-- VTST (R370). -/
  | vtst (f : FmtW)
  /-- TSHAPE_LO (R380). -/
  | tshapeLo (f : FmtT)
  /-- TSHAPE_HI (R380). -/
  | tshapeHi (f : FmtT)
  /-- TDECL (R381). -/
  | tdecl (f : FmtT)
  /-- TFREE (R382). -/
  | tfree (f : FmtT)
  /-- TVIEW (R383). -/
  | tview (f : FmtT)
  /-- TWAIT (R384). -/
  | twait (f : FmtT)
  /-- TWAIT_ALL (R384). -/
  | twaitAll (f : FmtT)
  /-- TWAIT_COMPLETE (R384). -/
  | twaitComplete (h : Nat)
  /-- TSTAT (R385). -/
  | tstat (f : FmtT)
  /-- TSYNC (R386). -/
  | tsync (f : FmtT)
  /-- TSYNC_COMPLETE (R386). -/
  | tsyncComplete (h : Nat)
  /-- TMMA (R388). -/
  | tmma (f : FmtT)
  /-- TMMAS (R389). -/
  | tmmas (f : FmtT)
  /-- TMMAQ (R390). -/
  | tmmaq (f : FmtT)
  /-- TOPA (R391). -/
  | topa (f : FmtT)
  /-- TZERO (R392). -/
  | tzero (f : FmtT)
  /-- TACCL (R393). -/
  | taccl (f : FmtT)
  /-- TEXT (R394). -/
  | text (f : FmtT)
  /-- TEXTV (R395). -/
  | textv (f : FmtT)
  /-- TMAP (R398). -/
  | tmap (f : FmtT)
  /-- TEW (R399). -/
  | tew (f : FmtT)
  /-- TRED (R400). -/
  | tred (f : FmtT)
  /-- TFILL (R401). -/
  | tfill (f : FmtT)
  /-- TTRN (R402). -/
  | ttrn (f : FmtT)
  /-- TCVT (R403). -/
  | tcvt (f : FmtT)
  /-- TSCALE (R404). -/
  | tscale (f : FmtT)
  /-- TRAND (R405). -/
  | trand (f : FmtT)
  /-- TPLANE (R406). -/
  | tplane (f : FmtT)
  /-- TPLANE_RW (R406). -/
  | tplaneRw (f : FmtT)
  /-- TPACKS_META (R407). -/
  | tpacksMeta (f : FmtT)
  /-- TPACKS_SEL (R407). -/
  | tpacksSel (f : FmtT)
  /-- TROWV (R408). -/
  | trowv (f : FmtT)
  /-- TVROW (R408). -/
  | tvrow (f : FmtT)
  /-- TLD (R425). -/
  | tld (f : FmtC)
  /-- TST (R425). -/
  | tst (f : FmtC)
  /-- TPROBE (R428). -/
  | tprobe (f : FmtC)
  /-- TUNPIN (R429). -/
  | tunpin (f : FmtC)
  /-- TLDA (R430). -/
  | tlda (f : FmtC)
  /-- TSTA (R430). -/
  | tsta (f : FmtC)
  /-- TGATH (R431). -/
  | tgath (f : FmtC)
  /-- TSCAT (R431). -/
  | tscat (f : FmtC)
  /-- TSEND (R433). -/
  | tsend (f : FmtT)
  /-- TRECV (R434). -/
  | trecv (f : FmtT)
  /-- TCHAIN (R435). -/
  | tchain (f : FmtT)
  /-- TMCAST (R435). -/
  | tmcast (f : FmtT)
  /-- TSCAN (R437). -/
  | tscan (f : FmtT)
  /-- TSCANC (R437). -/
  | tscanc (f : FmtT)
  /-- CPASS (R439). -/
  | cpass (f : FmtT)
  /-- CBAR (R440). -/
  | cbar (f : FmtT)
  /-- CINIT (R438). -/
  | cinit (f : FmtT)
  /-- CINIT_ANSWER (R438). -/
  | cinitAnswer (h : Nat)
  /-- BARINIT (R443). -/
  | barinit (f : FmtQ)
  /-- BARARR (R443). -/
  | bararr (f : FmtQ)
  /-- BARWAIT (R443). -/
  | barwait (f : FmtQ)
  /-- BARSYNC (R443). -/
  | barsync (f : FmtQ)
  /-- BARTEST (R443). -/
  | bartest (f : FmtQ)
  /-- ELECT (R443). -/
  | elect (f : FmtQ)
  /-- GSYNC (R119). -/
  | gsync (f : FmtQ)
  /-- BARRIER_ARRIVAL (R442). -/
  | barrierArrival (n : Nat)
  /-- BARRIER_WAITER_RESUME (R443). -/
  | barrierWaiterResume (h : Nat)
  /-- QBIND (R445). -/
  | qbind (f : FmtQ)
  /-- QBIND_UNBIND (R445). -/
  | qbindUnbind (f : FmtQ)
  /-- QPUSH (R446). -/
  | qpush (f : FmtQ)
  /-- QPOP (R446). -/
  | qpop (f : FmtQ)
  /-- QTRY (R446). -/
  | qtry (f : FmtQ)
  /-- QTAKE (R446). -/
  | qtake (f : FmtQ)
  /-- QCNT (R446). -/
  | qcnt (f : FmtQ)
  /-- SPAWN (R447). -/
  | spawn (f : FmtQ)
  /-- QUEUE_PUSH_ACCEPT (R105). -/
  | queuePushAccept (n : Nat)
  /-- QUEUE_WAIT_PUSH_SERVED (R107). -/
  | queueWaitPushServed (cluster q : Nat)
  /-- QUEUE_WAIT_POP_SERVED (R446). -/
  | queueWaitPopServed (cluster q : Nat)
  /-- REFILL_BATCH_START (R106). -/
  | refillBatchStart (cluster q : Nat)
  /-- REFILL_BATCH_LAND (R106). -/
  | refillBatchLand (cluster q : Nat)
  /-- STRIP (R448). -/
  | strip (f : FmtQ)
  /-- FORK (R449). -/
  | fork (f : FmtY)
  /-- FORK_CHILD_PLACE (R111). -/
  | forkChildPlace (n : Nat)
  /-- SYNC (R450). -/
  | sync (f : FmtQ)
  /-- TASKEND (R451). -/
  | taskend (f : FmtQ)
  /-- PARENT_RESUME (R112). -/
  | parentResume (n : Nat)
  /-- STGPUT (R452). -/
  | stgput (f : FmtQ)
  /-- STGGET (R452). -/
  | stgget (f : FmtQ)
  /-- STAGE_QUEUE_CLOSE (R101). -/
  | stageQueueClose (cluster q : Nat)
  /-- EVSIG (R454). -/
  | evsig (f : FmtQ)
  /-- EVWAIT (R454). -/
  | evwait (f : FmtQ)
  /-- EVWAIT_SATISFIED (R454). -/
  | evwaitSatisfied (h : Nat)
  /-- SIGNAL (R455). -/
  | signal (f : FmtQ)
  /-- SIGNAL_ADD (R455). -/
  | signalAdd (f : FmtQ)
  /-- TIME (R456). -/
  | time (f : FmtQ)
  /-- GETC (R458). -/
  | getc (f : FmtY)
  /-- SETC (R458). -/
  | setc (f : FmtY)
  /-- ERET (R268). -/
  | eret (f : FmtY)
  /-- BANKCFG (R154). -/
  | bankcfg (f : FmtY)
  /-- BANK_SWITCH_FINISH (R154). -/
  | bankSwitchFinish (core bank : Nat)
  /-- L2CFG (R163). -/
  | l2cfg (f : FmtY)
  /-- L2CFG_COMPLETE (R163). -/
  | l2cfgComplete (stack : Nat)
  /-- TLBINV_RANGE (R461). -/
  | tlbinvRange (f : FmtY)
  /-- TLBINV_ALL (R461). -/
  | tlbinvAll (f : FmtY)
  /-- INVALIDATION_COMPLETE (R183). -/
  | invalidationComplete (n : Nat)
  /-- CTXSAVE (R462). -/
  | ctxsave (f : FmtY)
  /-- CTXLOAD (R462). -/
  | ctxload (f : FmtY)
  /-- HALT (R463). -/
  | halt (f : FmtY)
  /-- SUSPEND (R463). -/
  | suspend (f : FmtY)
  /-- RESUMEB (R463). -/
  | resumeb (f : FmtY)
  /-- TRACE (R464). -/
  | trace (f : FmtY)
  /-- PROBEV (R464). -/
  | probev (f : FmtY)
  /-- NBRD (R464). -/
  | nbrd (f : FmtY)
  /-- SCRUB (R465). -/
  | scrub (f : FmtY)
  /-- MEASURE (R465). -/
  | measure (f : FmtY)
  /-- MEASUREMENT_EXTEND (R66). -/
  | measurementExtend (n : Nat)
  /-- TILE_ACCEPT (R127). -/
  | tileAccept (h : Nat)
  /-- MICRO_OP_START (R127). -/
  | microOpStart (core : Nat) (q : EngineQ) (n : Nat)
  /-- MICRO_OP_FINISH (R130). -/
  | microOpFinish (core : Nat) (q : EngineQ)
  /-- COPY_TRANSLATE_PAGE (R132). -/
  | copyTranslatePage (h : Nat)
  /-- TILE_RETIRE (R127). -/
  | tileRetire (h : Nat)
  /-- TILE_TRAP_TAKEN (R134). -/
  | tileTrapTaken (h : Nat)
  /-- TRANSLATE_SERVICE (R91). -/
  | translateService (h : Nat)
  /-- TRANSLATION_LOCK_RESUME (R91). -/
  | translationLockResume (h : Nat)
  /-- SAFFRON_CARRY_ARRIVAL (R142). -/
  | saffronCarryArrival (n : Nat)
  /-- SAFFRON_COMPLETION_ARRIVAL (R440). -/
  | saffronCompletionArrival (n : Nat)
  /-- STREAM_HEADER_ARRIVAL (R434). -/
  | streamHeaderArrival (n : Nat)
  /-- STREAM_GROUP_ARRIVAL (R147). -/
  | streamGroupArrival (n : Nat)
  /-- STORE_PERFORM_L1 (R157). -/
  | storePerformL1 (h : Nat)
  /-- L1_FILL_ARRIVAL (R158). -/
  | l1FillArrival (core : Nat)
  /-- HOME_ACCESS (R162). -/
  | homeAccess (stack : Nat)
  /-- SLICE_MISS_FILL (R161). -/
  | sliceMissFill (stack line : Nat)
  /-- RESPONSE_ARRIVAL (R125). -/
  | responseArrival (core : Nat)
  /-- CLOVE_MARKER (R203). -/
  | cloveMarker (stack : Nat)
  /-- CLOVE_ACK_ARRIVAL (R203). -/
  | cloveAckArrival (core : Nat)
  /-- HOST_FLUSH_READ_COMPLETE (R37). -/
  | hostFlushReadComplete (h : Nat)
  /-- MACE_LOCK_REQUEST (R184). -/
  | maceLockRequest (stack : Nat)
  /-- MACE_GRANT (R184). -/
  | maceGrant (core : Nat)
  /-- MACE_RELEASE (R185). -/
  | maceRelease (stack : Nat)
  /-- GATHER_REQUEST (R165). -/
  | gatherRequest (stack : Nat)
  /-- GATHER_FORWARD_GROUP (R165). -/
  | gatherForwardGroup (stack : Nat)
  /-- GATHER_RESULT (R165). -/
  | gatherResult (core : Nat)
  /-- MESH_PACKET_FORWARD (R169). -/
  | meshPacketForward (die col row : Nat) (out : Port)
  /-- DIE_CACHE_LOOKUP (R181). -/
  | dieCacheLookup (n : Nat)
  /-- PAGE_WALK (R176). -/
  | pageWalk (n : Nat)
  /-- PAGE_WALK_COMPLETE (R181). -/
  | pageWalkComplete (n : Nat)
  /-- ICACHE_DROP_REQUEST (R219). -/
  | icacheDropRequest (core : Nat)
  /-- ICACHE_DROP_ACK (R219). -/
  | icacheDropAck (core : Nat)
  /-- LAUNCH (R76). -/
  | launch (q : Nat)
  /-- GANG_PLACEMENT (R97). -/
  | gangPlacement (launch : Nat)
  /-- HART_FREE (R98). -/
  | hartFree (h : Nat)
  /-- BACKPRESSURE_EVALUATION (R102). -/
  | backpressureEvaluation (cluster : Nat)
  /-- CLUSTER_RELEASE (R99). -/
  | clusterRelease (cluster : Nat)
  /-- PREEMPTION_STARVATION (R120). -/
  | preemptionStarvation (launch : Nat)
  /-- PREEMPTION_STOP (R271). -/
  | preemptionStop (h : Nat)
  /-- GANG_RESTORE (R276). -/
  | gangRestore (n : Nat)
  /-- LAUNCH_COMPLETE (R474). -/
  | launchComplete (launch : Nat)
  /-- COPY (R74). -/
  | copy (q : Nat)
  /-- FILL (R74). -/
  | fill (q : Nat)
  /-- SIGNAL_COMMAND (R74). -/
  | signalCommand (q : Nat)
  /-- WAIT_COMMAND (R74). -/
  | waitCommand (q : Nat)
  /-- WAIT_SATISFIED (R74). -/
  | waitSatisfied (q : Nat)
  /-- WAIT_TIMEOUT (R74). -/
  | waitTimeout (q : Nat)
  /-- QUEUE_FENCE (R74). -/
  | queueFence (q : Nat)
  /-- QUEUE_FENCE_SATISFIED (R74). -/
  | queueFenceSatisfied (q : Nat)
  /-- LOAD_CODE (R85). -/
  | loadCode (q : Nat)
  /-- INVALIDATE_RANGE (R81). -/
  | invalidateRange (q : Nat)
  /-- INVALIDATE_IFETCH (R81). -/
  | invalidateIfetch (q : Nat)
  /-- INVALIDATE_ALL (R81). -/
  | invalidateAll (q : Nat)
  /-- CONTEXT_CREATE (R80). -/
  | contextCreate (q : Nat)
  /-- CONTEXT_MODIFY (R80). -/
  | contextModify (q : Nat)
  /-- CONTEXT_DESTROY (R80). -/
  | contextDestroy (q : Nat)
  /-- COMMAND_CONSUME (R474). -/
  | commandConsume
  /-- COMMAND_COMPLETE (R72). -/
  | commandComplete (q : Nat)
  /-- DBTAIL (R34). -/
  | dbtail (q : Nat) (be : BitVec 8) (data : Word)
  /-- QUEUE_ENABLE (R68). -/
  | queueEnable (q : Nat) (be : BitVec 8) (data : Word)
  /-- QUEUE_DISABLE (R68). -/
  | queueDisable (q : Nat)
  /-- EVHEAD (R83). -/
  | evhead (q : Nat) (be : BitVec 8) (data : Word)
  /-- HALTED_CLEAR (R69). -/
  | haltedClear (q : Nat)
  /-- STGGO (R44). -/
  | stggo (be : BitVec 8)
  /-- FABRANK (R36). -/
  | fabrank (be : BitVec 8) (data : Word)
  /-- PWRRAMP (R48). -/
  | pwrramp (be : BitVec 8) (data : Word)
  /-- PWRFLOOR (R49). -/
  | pwrfloor (be : BitVec 8) (data : Word)
  /-- MESHWT (R171). -/
  | meshwt (be : BitVec 8) (data : Word)
  /-- TRCCTL (R284). -/
  | trcctl (core : Nat) (be : BitVec 8) (data : Word)
  /-- HALTREQ (R279). -/
  | haltreq (h : Nat)
  /-- HALT_RESUME (R280). -/
  | haltResume (h : Nat)
  /-- FREEZEREQ (R280). -/
  | freezereq (h : Nat)
  /-- DBGIMG_SAVE (R283). -/
  | dbgimgSave (h : Nat) (pa : Nat)
  /-- DBGIMG_LOAD (R283). -/
  | dbgimgLoad (h : Nat) (pa : Nat)
  /-- REGISTER_WRITE (R31, R473): by the PF (0) or a VF, in BAR0 or BAR4, from an offset on; a byte that is not enabled is none. -/
  | registerWrite (win : HostWindow) (off : Nat) (bytes : List (Option Byte))
  /-- BAR2_READ (R31). -/
  | bar2Read (off n : Nat)
  /-- BAR2_WRITE (R31). -/
  | bar2Write (off : Nat) (bytes : List Byte)
  /-- SXL_FLIT_RECEIVE (R38). -/
  | sxlFlitReceive (port : Nat) (flit : Flit)
  /-- SXL_RETRY (R38). -/
  | sxlRetry (port seq : Nat)
  /-- LINK_DOWN (R38). -/
  | linkDown (port : Nat)
  /-- SXL_WRITE (R39). -/
  | sxlWrite (m : SxlMsg)
  /-- SXL_READ (R39). -/
  | sxlRead (m : SxlMsg)
  /-- SXL_ATOMIC (R39). -/
  | sxlAtomic (m : SxlMsg)
  /-- SXL_SIGNAL (R39). -/
  | sxlSignal (m : SxlMsg)
  /-- SXL_CLOVE (R40). -/
  | sxlClove (m : SxlMsg)
  /-- SXL_RESP (R39). -/
  | sxlResp (m : SxlMsg)
  /-- SXL_ACK (R39). -/
  | sxlAck (m : SxlMsg)
  /-- STAGGER (R44). -/
  | stagger (port : Nat) (m : StaggerMsg)
  /-- STAGGER_RELEASE (R52). -/
  | staggerRelease
  /-- TIMESYNC_EXCHANGE (R46). -/
  | timesyncExchange (t1 t2 t3 : Nat)
  /-- TIMESYNC (R46). -/
  | timesync (src : Nat) (t1 : Nat)
  /-- GOVERNOR_SAMPLE (R50). -/
  | governorSample (demand : Nat)
  /-- MONITOR_READ (R54). -/
  | monitorRead (readings : List (Nat × Nat))
  /-- MARGIN_REPLAN (R55). -/
  | marginReplan (voff bin : Nat)
  /-- CLKBIN_CHANGE (R55). -/
  | clkbinChange
  /-- PATROL_SCRUB (R60). -/
  | patrolScrub (stack line : Nat) (err : LineError)
  /-- HOT_ROW_SCRUB (R60). -/
  | hotRowScrub (stack line : Nat) (err : LineError)
  /-- SCORE_HALVING (R61). -/
  | scoreHalving
  /-- ROW_RETIREMENT (R61). -/
  | rowRetirement (stack row : Nat)
  /-- FUSE_COUNTER_ADVANCE (R94). -/
  | fuseCounterAdvance (value : Word) (sig : List Byte)
  /-- ATTESTATION_REPORT (R64). -/
  | attestationReport (nonce : List Byte)
  /-- COLD_RESET (R20). -/
  | coldReset (b : BootInput)
  /-- CORE_FAILURE_IN_SERVICE (R16). -/
  | coreFailureInService (core : Nat)
  /-- ATS_INVALIDATION (R30). -/
  | atsInvalidation (pasid page : Nat)
  /-- PCIE_LINK_TRAINING (R30). -/
  | pcieLinkTraining (rate width : Nat)
  /-- VF_ENABLE (R30). -/
  | vfEnable (n : Nat)
  /-- SXL_LINK_TRAINING (R36). -/
  | sxlLinkTraining (port peer : Nat)
  /-- ROW_COPY_COMPLETE (R61). -/
  | rowCopyComplete (stack row : Nat)
  deriving DecidableEq, Repr

end Sys2Proof
end

