-- ==== Sys2Proof/Machine/Fields.lean ====
section
/-! DEFINITION. Which field values each instruction admits (spec 12 R311 to R315 and the entries of spec 13 to 17): a
word with a reserved field set or a forbidden value is no instruction. -/

namespace Sys2Proof

/-! ## Element format codes (R225) -/

/-- The integer lane formats I8 to I64 and N8 to N64 (R354). -/
def intFmt (c : BitVec 6) : Bool := (0x03 ≤ c && c ≤ 0x06) || (0x0B ≤ c && c ≤ 0x0E)

/-- The float lane formats F64, F32, F16, BF16 (R356). -/
def floatFmt (c : BitVec 6) : Bool := 0x10 ≤ c && c ≤ 0x13

/-- The lane formats (R225). -/
def laneFmt (c : BitVec 6) : Bool := intFmt c || floatFmt c

/-- The formats that VCVT converts between (R358). -/
def vcvtFmt (c : BitVec 6) : Bool :=
  laneFmt c || (0x14 ≤ c && c ≤ 0x16) || c == 0x01 || c == 0x02 || c == 0x09 || c == 0x0A

/-- The pairs of VCVTSR, destination first (R359). -/
def vcvtsrPair (d s : BitVec 6) : Bool :=
  ((0x14 ≤ d && d ≤ 0x16) && (s == 0x11 || s == 0x12 || s == 0x13)) || ((d == 0x12 || d == 0x13) && s == 0x11)

/-- The source formats of VDOT (R365). -/
def dotFmt (c : BitVec 6) : Bool := c == 0x03 || c == 0x04 || c == 0x0B || c == 0x0C || c == 0x12 || c == 0x13

/-- The formats of VWMAC (R365). -/
def wmacFmt (c : BitVec 6) : Bool :=
  (0x03 ≤ c && c ≤ 0x05) || (0x0B ≤ c && c ≤ 0x0D) || (0x11 ≤ c && c ≤ 0x13)

/-- The formats of VAMOADD (R369). -/
def intWord (c : BitVec 6) : Bool := c == 0x05 || c == 0x06 || c == 0x0D || c == 0x0E

/-- The formats of TOPA (R391). -/
def topaFmt (c : BitVec 6) : Bool := wmacFmt c

/-- The formats of the vector memory instructions (R366). -/
def memFmt (c : BitVec 6) : Bool := laneFmt c || c == 0x14 || c == 0x15

/-! ## Small field checks -/

/-- A GM or mode value that selects a mask (R293, R375). -/
def maskSel (m : BitVec 4) : Bool := m < 12 || m == 15

/-- The `rs` field of a tile instruction: rounding code in bits 2..0 (R375). -/
def rsOk (m : BitVec 4) : Bool := m.extractLsb' 0 3 < 7

/-- The conversion code of FCVT: types differ and are not both integer (R338). -/
def cvtPairOk (a : BitVec 6) : Bool :=
  a.extractLsb' 3 3 != a.extractLsb' 0 3 && !(4 ≤ a.extractLsb' 3 3 && 4 ≤ a.extractLsb' 0 3)

/-- A record field of group 7: 0, 8, to 48 (R441). -/
def recReg (r : BitVec 6) : Bool := r.extractLsb' 0 3 == 0 && r < 56

/-- A literal, if there is one, below `n`. -/
def litBelow (l : Option Word) (n : Nat) : Bool :=
  match l with
  | none => true
  | some w => w.toNat < n

/-- The control register numbers of R289. -/
def ctlNumber (n : Nat) : Bool :=
  n ≤ 0x00C || (0x010 ≤ n && n ≤ 0x012) || (0x014 ≤ n && n ≤ 0x01B) || (0x020 ≤ n && n ≤ 0x028) ||
    (0x030 ≤ n && n ≤ 0x03B) || (0x100 ≤ n && n ≤ 0x13F)

/-! ## Checks by format. `litOk`: a literal leaves the field it replaces at 0 (R296). -/

def FmtA.litOk (f : FmtA) : Bool := f.lit.isNone || f.imm == 0
def FmtA.binary (f : FmtA) : Bool := f.litOk
def FmtA.unary (f : FmtA) : Bool := f.litOk && f.a == 0
def FmtA.noA (f : FmtA) : Bool := f.litOk && f.a == 0
def FmtA.noD (f : FmtA) : Bool := f.litOk && f.d == 0
def FmtA.onlyY (f : FmtA) : Bool := f.litOk && f.d == 0 && f.a == 0
def FmtA.onlyA (f : FmtA) : Bool := f.lit.isNone && f.imm == 0 && f.d == 0 && f.b == 0
def FmtA.bare (f : FmtA) : Bool := f.lit.isNone && f.imm == 0 && f.d == 0 && f.a == 0 && f.b == 0

def FmtF.litOk (f : FmtF) : Bool := f.lit.isNone || f.imm == 0

def FmtM.litOk (f : FmtM) : Bool := f.lit.isNone || f.off == 0
/-- FENCE, QFENCE and IFENCE: no register operand, no literal (R410). -/
def FmtM.fence (f : FmtM) : Bool := f.lit.isNone && f.d == 0 && f.base == 0 && f.index == 0 && f.scope < 3

def FmtV.maskOk (f : FmtV) : Bool := maskSel f.gm
def FmtV.ints (f : FmtV) : Bool := f.maskOk && intFmt f.fmt
def FmtV.floats (f : FmtV) : Bool := f.maskOk && floatFmt f.fmt
def FmtV.lanes (f : FmtV) : Bool := f.maskOk && laneFmt f.fmt
def FmtV.isFloat (f : FmtV) : Bool := floatFmt f.fmt
/-- No rounding and no saturation. -/
def FmtV.plain (f : FmtV) : Bool := f.rnd == 0 && f.sat == 0
/-- The second source is the scalar operand (R351). -/
def FmtV.scalarB (f : FmtV) : Bool := f.s == 1 && f.vb == 0 && (f.lit.isNone || f.xs == 0)
/-- The second source is V[vb]. -/
def FmtV.twoV (f : FmtV) : Bool := f.s == 0 && f.lit.isNone && f.xs == 0
/-- The second source is either (R351). -/
def FmtV.srcB (f : FmtV) : Bool := if f.s == 1 then f.scalarB else f.twoV
/-- There is no second source. -/
def FmtV.noB (f : FmtV) : Bool := f.twoV && f.vb == 0
/-- xs names the destination, so S is 0 and there is no literal. -/
def FmtV.xsDest (f : FmtV) : Bool := f.s == 0 && f.lit.isNone
/-- The fields of a reduction (R363). -/
def FmtV.reduction (f : FmtV) : Bool := f.fn == 0 && f.xsDest && f.vd == 0 && f.vb == 0 && f.vc < 8

def FmtW.mem (f : FmtW) : Bool := maskSel f.gm && memFmt f.fmt && f.scope < 3 && (f.lit.isNone || f.off == 0)

def FmtT.litOk (f : FmtT) : Bool := f.lit.isNone || f.imm == 0
def FmtT.noImm (f : FmtT) : Bool := f.lit.isNone && f.imm == 0
/-- Operator, second source and lane function of TSCAN and TSCANC (R436). -/
def scanOk (f : FmtT) : Bool :=
  f.aux.extractLsb' 0 3 < 6 && f.aux < 32 && (f.aux.extractLsb' 0 3 == 4 || f.tb == 0) &&
    (f.aux.extractLsb' 0 3 == 5 || f.noImm) && f.litOk

def FmtC.litOk (f : FmtC) : Bool := f.lit.isNone || f.off == 0

def FmtQ.litOk (f : FmtQ) : Bool := f.lit.isNone || f.imm == 0
def FmtQ.noImm (f : FmtQ) : Bool := f.lit.isNone && f.imm == 0
/-- The immediate, or the literal in its place, as a number. -/
def FmtQ.value (f : FmtQ) : Nat := (f.lit.map (·.toNat)).getD f.imm.toNat

def FmtY.litOk (f : FmtY) : Bool := f.lit.isNone || f.imm == 0
def FmtY.noImm (f : FmtY) : Bool := f.lit.isNone && f.imm == 0
/-- The immediate, or the literal in its place, as a number. -/
def FmtY.value (f : FmtY) : Nat := (f.lit.map (·.toNat)).getD f.imm.toNat

namespace Machine

/-- Whether every field holds a value that the instruction admits (R311 to R315). Events have no fields to check. -/
def fieldsOk (i : Instr) : Bool :=
  match i with
  | .add _ f | .sub _ f | .mul _ f | .mulh f | .mulhn f | .div f | .divn f | .rem f | .remn f
  | .and f | .or f | .xor f | .andn f | .orn f | .shl _ f | .shr _ f | .sar _ f | .rol f | .ror f
  | .min f | .max f | .minn f | .maxn f | .sext f | .zext f | .bfx f | .bfxn f | .bfi f => f.binary
  | .clz f | .ctz f | .popc f | .brev f | .bswap f | .mov f | .abs f => f.unary
  | .lea f => f.litOk && f.fn < 8
  | .sel f => f.litOk
  | .setp f => f.litOk && f.d < 8 && f.fn < 12
  | .setx f => f.litOk && f.fn < 12
  | .plog f => f.lit.isNone && f.imm == 0 && f.d < 8 && f.a < 8 && f.b < 8
  | .fadd _ f | .fsub _ f | .fmul _ f | .fmac _ f | .fdiv _ f => f.litOk && f.fn < 7
  | .fsqrt _ f | .frnd _ f => f.litOk && f.fn < 7 && f.a == 0
  | .fmin _ f | .fmax _ f => f.litOk && f.fn == 0
  | .fsgn _ f => f.litOk && f.fn < 3
  | .fsetp _ f => f.litOk && f.d < 8 && f.fn < 8
  | .fcvt f => f.litOk && f.fn < 7 && cvtPairOk f.a
  | .fclass f => f.litOk && f.fn < 2 && f.a == 0
  | .br f => f.k == 0 && f.off.extractLsb' 0 3 == 0 && f.a == 0
  | .call f | .loop f => f.k == 0 && f.off.extractLsb' 0 3 == 0
  | .jmp f | .ret f | .trap f | .wfe f => f.onlyY
  | .callr f | .callt f | .lclaim f => f.noA
  | .brx f => f.noD
  | .rep f => f.onlyA
  | .yield f | .nop f | .exit f | .brk f | .lend f | .lrelease f => f.bare
  | .lds8 f | .lds16 f | .lds32 f | .ldz8 f | .ldz16 f | .ldz32 f | .ld64 f | .st8 f | .st16 f
  | .st32 f | .st64 f | .lda _ f | .stl _ f => f.litOk && f.scope < 3
  | .amoadd _ f | .amoand _ f | .amoor _ f | .amoxor _ f | .amomin _ f | .amomax _ f | .amominn _ f
  | .amomaxn _ f | .amoswp _ f | .amocas _ f | .amofadd f => f.litOk && f.scope < 3 && f.shift == 0
  | .fenceAcq f => f.fence && f.off == 0 && f.shift == 0
  | .fenceRel f => f.fence && f.off == 0 && f.shift == 1
  | .fenceAr f => f.fence && f.off == 0 && f.shift == 2
  | .qfence f => f.fence && f.scope == 0 && f.shift == 0 && f.off < 32
  | .cwb f | .cinv f | .cflush f => f.litOk && f.scope == 0 && f.d == 0
  | .pref f => f.litOk && f.scope == 0 && f.d < 2
  | .stpatch f => f.litOk && f.scope == 0
  | .ifence f => f.fence && f.off == 0 && f.scope == 0 && f.shift == 0
  | .vadd f | .vsub f | .vadds f | .vsubs f | .vmul f | .vmulh f | .vmulhn f | .vmin f | .vmax f
  | .vminn f | .vmaxn f | .vand f | .vor f | .vxor f | .vandn f | .vshl f | .vshr f | .vsar f =>
    f.ints && f.srcB && f.plain && f.fn == 0 && f.vc == 0
  | .vmac f => f.ints && f.srcB && f.plain && f.fn == 0
  | .vabs f | .vpopc f | .vclz f => f.ints && f.noB && f.plain && f.fn == 0 && f.vc == 0
  | .vcmp f => f.ints && f.srcB && f.plain && f.fn < 12 && f.vc == 0 && f.vd < 12
  | .vfadd f | .vfsub f | .vfmul f | .vfdiv f => f.floats && f.srcB && f.rnd < 7 && f.fn == 0 && f.vc == 0
  | .vfma f => f.floats && f.srcB && f.rnd < 7 && f.fn == 0
  | .vfsqrt f => f.floats && f.noB && f.rnd < 7 && f.fn == 0 && f.vc == 0
  | .vfmin f | .vfmax f => f.floats && f.srcB && f.plain && f.fn == 0 && f.vc == 0
  | .vfcmp f => f.floats && f.srcB && f.plain && f.fn < 8 && f.vc == 0 && f.vd < 12
  | .vclass f => f.floats && f.noB && f.plain && f.fn == 0 && f.vc == 0
  | .vsfu f => f.floats && f.fmt != 0x10 && f.noB && f.rnd < 7 && f.fn < 10 && f.vc == 0
  | .vcvt f =>
    f.noB && f.rnd < 7 && f.vc == 0 && f.fn < 64 && vcvtFmt f.fmt && vcvtFmt (f.fn.setWidth 6) &&
      f.fmt != f.fn.setWidth 6
  | .vcvtsr f => f.twoV && f.rnd == 0 && f.vc == 0 && f.fn < 64 && vcvtsrPair f.fmt (f.fn.setWidth 6)
  | .vsel f => f.lanes && f.srcB && f.plain && f.fn == 0 && f.vc < 12
  | .vmov f => f.lanes && f.srcB && f.plain && f.fn == 0 && f.va == 0 && f.vc == 0
  | .viota f =>
    f.lanes && f.plain && f.va == 0 && ((f.fn == 0 && f.scalarB && f.vc == 0) || (f.fn == 1 && f.noB &&
      f.vc < 12))
  | .vext f =>
    f.lanes && f.plain && f.fn == 0 && f.xsDest && f.vd == 0 && f.vb == 0 && f.vc == 0 && f.gm == 15
  | .vins f => f.lanes && f.plain && f.fn == 0 && f.scalarB && f.va == 0 && f.vc == 0 && f.gm == 15
  | .vperm f => f.lanes && f.plain && f.fn == 0 && f.twoV && f.vc == 0
  | .vslup f | .vsldn f => f.lanes && f.plain && f.fn == 0 && f.scalarB && f.vc == 0
  | .vcomp f | .vexpd f => f.lanes && f.plain && f.fn == 0 && f.noB && f.vc == 0
  | .vrsum f => f.ints && f.rnd == 0 && f.reduction
  | .vrmax f | .vrmin f => f.ints && f.plain && f.reduction
  | .vrfsum f => f.floats && f.sat == 0 && f.rnd < 7 && f.rnd != 5 && f.reduction
  | .vrfmax f | .vrfmin f => f.floats && f.plain && f.reduction
  | .mlog f => f.lanes && f.plain && f.twoV && f.vd < 12 && f.va < 12 && f.vb < 12 && f.vc == 0 && f.fn < 16
  | .mpop f | .mfirst f =>
    f.lanes && f.plain && f.fn == 0 && f.xsDest && f.vd == 0 && f.va < 12 && f.vb == 0 && f.vc == 0
  | .msbf f | .msif f | .msof f =>
    f.lanes && f.plain && f.fn == 0 && f.noB && f.vd < 12 && f.va < 12 && f.vc == 0
  | .mset f =>
    f.lanes && f.plain && f.vd < 12 && f.va == 0 && f.vc == 0 && ((f.fn < 2 && f.noB) || (f.fn == 2 &&
      f.scalarB))
  | .vdot f =>
    f.maskOk && f.srcB && f.fn == 0 && dotFmt f.fmt && (if f.isFloat then f.rnd < 7 else f.rnd == 0)
  | .vwmac f =>
    f.maskOk && f.srcB && f.fn == 0 && f.vc == 0 && wmacFmt f.fmt &&
      (if f.isFloat then f.rnd < 7 else f.rnd == 0)
  | .vrng f => f.ints && f.noB && f.plain && f.fn == 0 && f.va == 0 && f.vc == 0
  | .vld f | .vst f => f.mem && f.vi == 0 && f.stride == 0
  | .vlds f | .vsts f => f.mem && f.vi == 0
  | .vldx f | .vstx f => f.mem && f.stride == 0
  | .vldff f => f.mem && f.vi == 0 && f.stride == 0 && f.vl != 0
  | .vamoadd f => f.mem && f.stride == 0 && intWord f.fmt
  | .vtld f | .vtst f => f.mem && f.stride == 0 && f.scope == 0
  | .tshapeLo f => f.ta == 0 && f.tb == 0 && f.tc == 0 && f.aux == 0 && f.litOk && f.td < 32 && f.mode == 0
  | .tshapeHi f => f.ta == 0 && f.tb == 0 && f.tc == 0 && f.aux == 0 && f.litOk && f.td < 32 && f.mode == 1
  | .tdecl f => f.tb == 0 && f.tc == 0 && f.xs == 0 && f.aux == 0 && f.mode == 0 && f.noImm && f.ta < 32
  | .tfree f | .tzero f | .trand f =>
    f.ta == 0 && f.tb == 0 && f.tc == 0 && f.xs == 0 && f.aux == 0 && f.mode == 0 && f.noImm
  | .tview f => f.tc == 0 && f.aux == 0 && f.mode == 0 && f.noImm && f.tb < 32
  | .twait f => f.ta == 0 && f.tb == 0 && f.tc == 0 && f.xs == 0 && f.aux == 0 && f.noImm && f.mode == 0
  | .twaitAll f =>
    f.td == 0 && f.ta == 0 && f.tb == 0 && f.tc == 0 && f.xs == 0 && f.aux == 0 && f.noImm && f.mode == 1
  | .tstat f =>
    f.ta == 0 && f.tb == 0 && f.tc == 0 && f.aux == 0 && f.noImm && f.mode < 6 && (f.mode != 5 || f.td == 0)
  | .tsync f =>
    f.td == 0 && f.ta == 0 && f.tb == 0 && f.tc == 0 && f.xs == 0 && f.aux == 0 && f.mode == 0 && f.noImm
  | .tmma f | .tmmaq f => f.tc == 0 && f.xs == 0 && f.aux == 0 && f.mode == 0 && f.noImm
  | .tmmas f => f.xs == 0 && f.aux == 0 && f.mode == 0 && f.noImm
  | .topa f => f.tc == 0 && f.noImm && f.ta < 32 && f.tb < 32 && maskSel f.mode && topaFmt f.aux
  | .taccl f | .ttrn f => f.tb == 0 && f.tc == 0 && f.xs == 0 && f.aux == 0 && f.mode == 0 && f.noImm
  | .text f | .tcvt f | .tscale f =>
    f.tb == 0 && f.tc == 0 && f.xs == 0 && f.aux == 0 && f.noImm && rsOk f.mode
  | .textv f => f.tb == 0 && f.tc == 0 && f.noImm && f.td < 32 && laneFmt f.aux && rsOk f.mode
  | .tmap f => f.xs == 0 && f.mode == 0 && f.litOk
  | .tew f => f.aux == 0 && f.mode == 0 && f.litOk
  | .tred f => f.tb == 0 && f.tc == 0 && f.xs == 0 && f.aux == 0 && f.litOk && f.mode < 2
  | .tfill f => f.ta == 0 && f.tb == 0 && f.tc == 0 && f.aux == 0 && f.litOk && f.mode < 2
  | .tplane f | .tpacksMeta f => f.tb == 0 && f.tc == 0 && f.xs == 0 && f.aux == 0 && f.noImm && f.mode == 0
  | .tplaneRw f => f.tb == 0 && f.tc == 0 && f.xs == 0 && f.aux == 0 && f.noImm && f.mode == 1
  | .tpacksSel f => f.tb == 0 && f.xs == 0 && f.aux == 0 && f.noImm && f.mode == 1
  | .trowv f => f.tb == 0 && f.tc == 0 && f.aux == 0 && f.litOk && f.td < 32 && maskSel f.mode
  | .tvrow f => f.tb == 0 && f.tc == 0 && f.aux == 0 && f.litOk && f.ta < 32 && maskSel f.mode
  | .tld f | .tst f | .tgath f | .tscat f => f.litOk && f.scope < 3 && f.token == 0
  | .tprobe f => f.litOk && f.scope == 0 && f.token != 0
  | .tunpin f =>
    f.lit.isNone && f.t == 0 && f.base == 0 && f.layout == 0 && f.scope == 0 && f.xo == 0 && f.off == 0
  | .tlda f | .tsta f => f.litOk && f.scope < 2
  | .tsend f =>
    f.td == 0 && f.tb == 0 && f.tc == 0 && f.xs == 0 && f.mode == 0 && f.litOk && f.lit.isNone &&
      f.aux < 8 && f.imm < 16
  | .trecv f | .tchain f =>
    f.ta == 0 && f.tb == 0 && f.tc == 0 && f.xs == 0 && f.mode == 0 && f.litOk && f.lit.isNone &&
      f.aux < 8 && f.imm < 16
  | .tmcast f =>
    f.td == 0 && f.tb == 0 && f.tc == 0 && f.aux == 0 && f.mode == 0 && f.litOk && f.lit.isNone &&
      f.imm < 16
  | .tscan f | .tscanc f => f.tc == 0 && f.litOk && rsOk f.mode && scanOk f
  | .cpass f =>
    f.td == 0 && f.ta == 0 && f.tb == 0 && f.tc == 0 && f.xs == 0 && f.mode == 0 && f.noImm && f.aux < 6
  | .cbar f => f.td == 0 && f.ta == 0 && f.tb == 0 && f.tc == 0 && f.aux == 0 && f.mode == 0 && f.litOk
  | .cinit f =>
    f.td == 0 && f.ta == 0 && f.tb == 0 && f.tc == 0 && f.aux == 0 && f.litOk && f.mode < 2 &&
      litBelow f.lit 1024
  | .barinit f => f.d == 0 && f.b == 0 && f.litOk
  | .bararr f | .barwait f | .barsync f => f.d == 0 && f.a == 0 && f.b == 0 && f.noImm
  | .bartest f | .elect f => f.a == 0 && f.b == 0 && f.noImm && f.d < 8
  | .gsync f | .sync f | .taskend f => f.d == 0 && f.a == 0 && f.b == 0 && f.n == 0 && f.noImm
  | .qbind f => f.a == 0 && f.b == 0 && f.n == 0 && f.litOk && 60 ≤ f.d && f.value < 128
  | .qbindUnbind f => f.a == 0 && f.b == 0 && f.litOk && 60 ≤ f.d && f.n == 1 && f.value == 0
  | .qpush f | .spawn f => f.d == 0 && f.b == 0 && f.noImm && recReg f.a && f.n < 64
  | .qpop f => f.a == 0 && f.b == 0 && f.noImm && recReg f.d && f.n < 64
  | .qtry f => f.a == 0 && f.noImm && recReg f.d && f.b < 8 && f.n < 64
  | .qtake f => f.b == 0 && f.litOk && f.d < 32 && f.n < 64 && f.value < 9 && f.value != 0
  | .qcnt f => f.a == 0 && f.b == 0 && f.noImm && f.n < 64
  | .strip f => f.a == 0 && f.n == 0 && f.noImm && f.b < 8
  | .fork f => f.d == 0 && f.litOk && f.c < 64 && f.imm.extractLsb' 0 3 == 0
  | .stgput f => f.d == 0 && f.b == 0 && f.n == 0 && f.noImm && recReg f.a
  | .stgget f => f.a == 0 && f.n == 0 && f.noImm && recReg f.d && f.b < 8
  | .evsig f => f.d == 0 && f.b == 0 && f.n == 0 && f.litOk
  | .evwait f => f.n == 0 && f.litOk
  | .signal f => f.d == 0 && f.litOk && f.n == 0
  | .signalAdd f => f.d == 0 && f.litOk && f.n == 1
  | .time f => f.a == 0 && f.b == 0 && f.n == 0 && f.noImm
  | .getc f => f.a == 0 && f.noImm && ctlNumber f.c.toNat
  | .setc f => f.d == 0 && f.litOk && ctlNumber f.c.toNat
  | .eret f | .halt f => f.d == 0 && f.a == 0 && f.c == 0 && f.noImm
  | .bankcfg f => f.d == 0 && f.a == 0 && f.litOk && f.c < 32 && f.value < 3
  | .l2cfg f => f.d == 0 && f.litOk && f.c < 12
  | .tlbinvRange f => f.noImm && f.c == 0
  | .tlbinvAll f => f.noImm && f.c == 1
  | .ctxsave f | .scrub f => f.c == 0 && f.noImm
  | .ctxload f | .suspend f | .resumeb f => f.d == 0 && f.c == 0 && f.noImm
  | .trace f => f.d == 0 && f.c == 0 && f.litOk
  | .probev f => f.a == 0 && f.noImm && f.c < 16
  | .nbrd f => f.c == 0 && f.litOk
  | .measure f => f.noImm && f.c < 8
  | .repRepetition | .wfeWake _ | .lclaimGrant _ | .twaitComplete _ | .tsyncComplete _
  | .cinitAnswer _ | .barrierArrival _ | .barrierWaiterResume _ | .queuePushAccept _
  | .queueWaitPushServed _ _ | .queueWaitPopServed _ _ | .refillBatchStart _ _ | .refillBatchLand _ _
  | .forkChildPlace _ | .parentResume _ | .stageQueueClose _ _ | .evwaitSatisfied _
  | .bankSwitchFinish _ _ | .l2cfgComplete _ | .invalidationComplete _ | .measurementExtend _
  | .tileAccept _ | .microOpStart _ _ _ | .microOpFinish _ _ | .copyTranslatePage _ | .tileRetire _
  | .tileTrapTaken _ | .translateService _ | .translationLockResume _ | .saffronCarryArrival _
  | .saffronCompletionArrival _ | .streamHeaderArrival _ | .streamGroupArrival _ | .storePerformL1 _
  | .l1FillArrival _ | .homeAccess _ | .sliceMissFill _ _ | .responseArrival _ | .cloveMarker _
  | .cloveAckArrival _ | .hostFlushReadComplete _ | .maceLockRequest _ | .maceGrant _
  | .maceRelease _ | .gatherRequest _ | .gatherForwardGroup _ | .gatherResult _
  | .meshPacketForward _ _ _ _ | .dieCacheLookup _ | .pageWalk _ | .pageWalkComplete _
  | .icacheDropRequest _ | .icacheDropAck _ | .launch _ | .gangPlacement _ | .hartFree _
  | .backpressureEvaluation _ | .clusterRelease _ | .preemptionStarvation _ | .preemptionStop _
  | .gangRestore _ | .launchComplete _ | .copy _ | .fill _ | .signalCommand _ | .waitCommand _
  | .waitSatisfied _ | .waitTimeout _ | .queueFence _ | .queueFenceSatisfied _ | .loadCode _
  | .invalidateRange _ | .invalidateIfetch _ | .invalidateAll _ | .contextCreate _ | .contextModify _
  | .contextDestroy _ | .commandConsume | .commandComplete _ | .dbtail _ _ _ | .queueEnable _ _ _
  | .queueDisable _ | .evhead _ _ _ | .haltedClear _ | .stggo _ | .fabrank _ _ | .pwrramp _ _
  | .pwrfloor _ _ | .meshwt _ _ | .trcctl _ _ _ | .haltreq _ | .haltResume _ | .freezereq _
  | .dbgimgSave _ _ | .dbgimgLoad _ _ | .registerWrite _ _ _ | .bar2Read _ _ | .bar2Write _ _
  | .sxlFlitReceive _ _ | .sxlRetry _ _ | .linkDown _ | .sxlWrite _ | .sxlRead _ | .sxlAtomic _
  | .sxlSignal _ | .sxlClove _ | .sxlResp _ | .sxlAck _ | .stagger _ _ | .staggerRelease
  | .timesyncExchange _ _ _ | .timesync _ _ | .governorSample _ | .monitorRead _ | .marginReplan _ _
  | .clkbinChange | .patrolScrub _ _ _ | .hotRowScrub _ _ _ | .scoreHalving | .rowRetirement _ _
  | .fuseCounterAdvance _ _ | .attestationReport _ | .coldReset _ | .coreFailureInService _
  | .atsInvalidation _ _ | .pcieLinkTraining _ _ | .vfEnable _ | .sxlLinkTraining _ _
  | .rowCopyComplete _ _ => true
/-- The element format codes that the instruction names in its fields (R315). -/
def fmtCodes (i : Instr) : List (BitVec 6) :=
  match i with
  | .vcvt f | .vcvtsr f => [f.fmt, f.fn.setWidth 6]
  | .topa f | .textv f => [f.aux]
  | _ => []

/-- Whether a generation knows a format code (R323, R325). -/
def fmtIn (gen : Nat) (c : BitVec 6) : Bool :=
  (3 ≤ gen || !(c == 0x01 || c == 0x02 || c == 0x09)) && (2 ≤ gen || !(0x18 ≤ c && c ≤ 0x1D))

/-- Whether the instruction's formats are legal in a generation. The lane formats are legal in all three. -/
def genOk (gen : Nat) (i : Instr) : Bool := (fmtCodes i).all (fmtIn gen)

end Machine

end Sys2Proof
end

