-- ==== Sys2Proof/WellFormed.lean ====
section
/-! DEFINITION. Well-formed instructions: every field holds a value that the instruction's entry admits
(spec 12 R311 to R315). The checks themselves stand in Machine/Fields.lean. -/

namespace Sys2Proof

/-- A well-formed instruction. -/
def Instr.wf (i : Instr) : Bool := Machine.fieldsOk i

end Sys2Proof
end

