-- ==== Sys2Proof/Decode.lean ====
section
/-! DEFINITION. The decoder and the encoder of Dwegrim words (spec 12 R306 to R326): ten formats, the opcode lists of
the three generations, the literal of a word with L = 1. Decoding is total: what is no instruction is rejected by name. -/

namespace Sys2Proof

/-- Why a word is no instruction; each raises ILLOP (R316). -/
inductive Reject where
  /-- the opcode value is unassigned in the generation (R320, R326) -/
  | unassigned
  /-- a GM of 12 to 14 in format V or W (R312) -/
  | maskSelector
  /-- L = 1 in format B, or in format V with S = 0 (R316) -/
  | literal
  /-- a reserved field is set or a field holds a forbidden value (R311, R313 to R315) -/
  | fieldValue
  /-- a format code that the generation forbids (R315) -/
  | generation
  /-- fewer bytes than the instruction needs -/
  | short
  deriving DecidableEq, Repr

/-! ## Fields of a word (R306, R308) -/

def wordOp (w : Word) : BitVec 9 := w.extractLsb' 55 9
def wordGm (w : Word) : BitVec 4 := w.extractLsb' 51 4
/-- Bit L: the next word is the literal (R296). -/
def wordL (w : Word) : Bool := w.getLsbD 50

def decA (w : Word) (l : Option Word) : FmtA :=
  { gm := wordGm w, lit := l, d := w.extractLsb' 44 6, a := w.extractLsb' 38 6, b := w.extractLsb' 32 6,
    imm := w.extractLsb' 0 32 }

def decF (w : Word) (l : Option Word) : FmtF :=
  { gm := wordGm w, lit := l, d := w.extractLsb' 44 6, a := w.extractLsb' 38 6, b := w.extractLsb' 32 6,
    fn := w.extractLsb' 28 4, imm := w.extractLsb' 0 28 }

def decB (w : Word) (_ : Option Word) : FmtB :=
  { gm := wordGm w, a := w.extractLsb' 44 6, k := w.extractLsb' 32 12, off := w.extractLsb' 0 32 }

def decM (w : Word) (l : Option Word) : FmtM :=
  { gm := wordGm w, lit := l, d := w.extractLsb' 44 6, base := w.extractLsb' 38 6, index := w.extractLsb' 32 6,
    scope := w.extractLsb' 30 2, shift := w.extractLsb' 27 3, off := w.extractLsb' 0 27 }

def decV (w : Word) (l : Option Word) : FmtV :=
  { gm := wordGm w, lit := l, vd := w.extractLsb' 45 5, va := w.extractLsb' 40 5, vb := w.extractLsb' 35 5,
    vc := w.extractLsb' 30 5, vl := w.extractLsb' 24 6, fmt := w.extractLsb' 18 6, rnd := w.extractLsb' 15 3,
    sat := w.extractLsb' 14 1, s := w.extractLsb' 13 1, xs := w.extractLsb' 7 6, fn := w.extractLsb' 0 7 }

def decW (w : Word) (l : Option Word) : FmtW :=
  { gm := wordGm w, lit := l, vd := w.extractLsb' 45 5, vi := w.extractLsb' 40 5, base := w.extractLsb' 34 6,
    stride := w.extractLsb' 28 6, vl := w.extractLsb' 22 6, fmt := w.extractLsb' 16 6, scope := w.extractLsb' 14 2,
    off := w.extractLsb' 0 14 }

def decT (w : Word) (l : Option Word) : FmtT :=
  { gm := wordGm w, lit := l, td := w.extractLsb' 44 6, ta := w.extractLsb' 38 6, tb := w.extractLsb' 32 6,
    tc := w.extractLsb' 26 6, xs := w.extractLsb' 20 6, aux := w.extractLsb' 14 6, mode := w.extractLsb' 10 4,
    imm := w.extractLsb' 0 10 }

def decC (w : Word) (l : Option Word) : FmtC :=
  { gm := wordGm w, lit := l, t := w.extractLsb' 44 6, base := w.extractLsb' 38 6, layout := w.extractLsb' 33 5,
    token := w.extractLsb' 27 6, scope := w.extractLsb' 25 2, xo := w.extractLsb' 19 6, off := w.extractLsb' 0 19 }

def decQ (w : Word) (l : Option Word) : FmtQ :=
  { gm := wordGm w, lit := l, d := w.extractLsb' 44 6, a := w.extractLsb' 38 6, b := w.extractLsb' 32 6,
    n := w.extractLsb' 21 11, imm := w.extractLsb' 0 21 }

def decY (w : Word) (l : Option Word) : FmtY :=
  { gm := wordGm w, lit := l, d := w.extractLsb' 44 6, a := w.extractLsb' 38 6, c := w.extractLsb' 26 12,
    imm := w.extractLsb' 0 26 }

/-! ## The opcode lists of G3 (R317). `Instr` has more constructors with fields than Lean's runtime can
build (244), so what builds the late ones is for the kernel only: it is kept in a noncomputable section. -/

noncomputable section

/-- Opcodes 0x001 to 0x010 in order (R317). -/
def ops1a : List (Word → Option Word → Instr) :=
  [fun w l => .add false (decA w l),
   fun w l => .sub false (decA w l),
   fun w l => .mul false (decA w l),
   fun w l => .mulh (decA w l),
   fun w l => .mulhn (decA w l),
   fun w l => .div (decA w l),
   fun w l => .divn (decA w l),
   fun w l => .rem (decA w l),
   fun w l => .remn (decA w l),
   fun w l => .and (decA w l),
   fun w l => .or (decA w l),
   fun w l => .xor (decA w l),
   fun w l => .andn (decA w l),
   fun w l => .orn (decA w l),
   fun w l => .shl false (decA w l),
   fun w l => .shr false (decA w l)]

/-- Opcodes 0x011 to 0x020 in order (R317). -/
def ops1b : List (Word → Option Word → Instr) :=
  [fun w l => .sar false (decA w l),
   fun w l => .rol (decA w l),
   fun w l => .ror (decA w l),
   fun w l => .min (decA w l),
   fun w l => .max (decA w l),
   fun w l => .minn (decA w l),
   fun w l => .maxn (decA w l),
   fun w l => .clz (decA w l),
   fun w l => .ctz (decA w l),
   fun w l => .popc (decA w l),
   fun w l => .brev (decA w l),
   fun w l => .bswap (decA w l),
   fun w l => .sext (decA w l),
   fun w l => .zext (decA w l),
   fun w l => .mov (decA w l),
   fun w l => .lea (decF w l)]

/-- Opcodes 0x021 to 0x02e in order (R317). -/
def ops1c : List (Word → Option Word → Instr) :=
  [fun w l => .sel (decF w l),
   fun w l => .setp (decF w l),
   fun w l => .setx (decF w l),
   fun w l => .plog (decF w l),
   fun w l => .bfx (decA w l),
   fun w l => .bfxn (decA w l),
   fun w l => .bfi (decA w l),
   fun w l => .abs (decA w l),
   fun w l => .add true (decA w l),
   fun w l => .sub true (decA w l),
   fun w l => .mul true (decA w l),
   fun w l => .shl true (decA w l),
   fun w l => .shr true (decA w l),
   fun w l => .sar true (decA w l)]

/-- The opcodes of group 1 from 0x001 in order (R317). -/
def ops1 : List (Word → Option Word → Instr) := ops1a ++ ops1b ++ ops1c

/-- Opcodes 0x040 to 0x04f in order (R317). -/
def ops2a : List (Word → Option Word → Instr) :=
  [fun w l => .fadd false (decF w l),
   fun w l => .fadd true (decF w l),
   fun w l => .fsub false (decF w l),
   fun w l => .fsub true (decF w l),
   fun w l => .fmul false (decF w l),
   fun w l => .fmul true (decF w l),
   fun w l => .fmac false (decF w l),
   fun w l => .fmac true (decF w l),
   fun w l => .fdiv false (decF w l),
   fun w l => .fdiv true (decF w l),
   fun w l => .fsqrt false (decF w l),
   fun w l => .fsqrt true (decF w l),
   fun w l => .fmin false (decF w l),
   fun w l => .fmin true (decF w l),
   fun w l => .fmax false (decF w l),
   fun w l => .fmax true (decF w l)]

/-- Opcodes 0x050 to 0x057 in order (R317). -/
def ops2b : List (Word → Option Word → Instr) :=
  [fun w l => .fsetp false (decF w l),
   fun w l => .fsetp true (decF w l),
   fun w l => .fsgn false (decF w l),
   fun w l => .fsgn true (decF w l),
   fun w l => .frnd false (decF w l),
   fun w l => .frnd true (decF w l),
   fun w l => .fcvt (decF w l),
   fun w l => .fclass (decF w l)]

/-- The opcodes of group 2 from 0x040 in order (R317). -/
def ops2 : List (Word → Option Word → Instr) := ops2a ++ ops2b

/-- Opcodes 0x060 to 0x06f in order (R317). -/
def ops3 : List (Word → Option Word → Instr) :=
  [fun w l => .br (decB w l),
   fun w l => .jmp (decA w l),
   fun w l => .call (decB w l),
   fun w l => .callr (decA w l),
   fun w l => .callt (decA w l),
   fun w l => .ret (decA w l),
   fun w l => .loop (decB w l),
   fun w l => .rep (decA w l),
   fun w l => .brx (decA w l),
   fun w l => .yield (decA w l),
   fun w l => .nop (decA w l),
   fun w l => .exit (decA w l),
   fun w l => .trap (decA w l),
   fun w l => .brk (decA w l),
   fun w l => .wfe (decA w l),
   fun w l => .lend (decA w l)]

/-- Opcodes 0x080 to 0x08f in order (R317). -/
def ops4a : List (Word → Option Word → Instr) :=
  [fun w l => .lds8 (decM w l),
   fun w l => .lds16 (decM w l),
   fun w l => .lds32 (decM w l),
   fun w l => .ldz8 (decM w l),
   fun w l => .ldz16 (decM w l),
   fun w l => .ldz32 (decM w l),
   fun w l => .ld64 (decM w l),
   fun w l => .st8 (decM w l),
   fun w l => .st16 (decM w l),
   fun w l => .st32 (decM w l),
   fun w l => .st64 (decM w l),
   fun w l => .lda false (decM w l),
   fun w l => .lda true (decM w l),
   fun w l => .stl false (decM w l),
   fun w l => .stl true (decM w l),
   fun w l => .amoadd false (decM w l)]

/-- Opcodes 0x090 to 0x09f in order (R317). -/
def ops4b : List (Word → Option Word → Instr) :=
  [fun w l => .amoadd true (decM w l),
   fun w l => .amoand false (decM w l),
   fun w l => .amoand true (decM w l),
   fun w l => .amoor false (decM w l),
   fun w l => .amoor true (decM w l),
   fun w l => .amoxor false (decM w l),
   fun w l => .amoxor true (decM w l),
   fun w l => .amomin false (decM w l),
   fun w l => .amomin true (decM w l),
   fun w l => .amomax false (decM w l),
   fun w l => .amomax true (decM w l),
   fun w l => .amominn false (decM w l),
   fun w l => .amominn true (decM w l),
   fun w l => .amomaxn false (decM w l),
   fun w l => .amomaxn true (decM w l),
   fun w l => .amoswp false (decM w l)]

/-- Opcodes 0x0a0 to 0x0ab in order (R317). -/
def ops4c : List (Word → Option Word → Instr) :=
  [fun w l => .amoswp true (decM w l),
   fun w l => .amocas false (decM w l),
   fun w l => .amocas true (decM w l),
   fun w l => .amofadd (decM w l),
   fun w l => let f := decM w l
    if f.shift == 0 then .fenceAcq f else if f.shift == 1 then .fenceRel f else .fenceAr f,
   fun w l => .qfence (decM w l),
   fun w l => .cwb (decM w l),
   fun w l => .cinv (decM w l),
   fun w l => .cflush (decM w l),
   fun w l => .pref (decM w l),
   fun w l => .stpatch (decM w l),
   fun w l => .ifence (decM w l)]

/-- The opcodes of group 4 from 0x080 in order (R317). -/
def ops4 : List (Word → Option Word → Instr) := ops4a ++ ops4b ++ ops4c

/-- Opcodes 0x0c0 to 0x0cf in order (R317). -/
def ops5a : List (Word → Option Word → Instr) :=
  [fun w l => .lclaim (decA w l),
   fun w l => .lrelease (decA w l),
   fun w l => .vadd (decV w l),
   fun w l => .vsub (decV w l),
   fun w l => .vadds (decV w l),
   fun w l => .vsubs (decV w l),
   fun w l => .vmul (decV w l),
   fun w l => .vmulh (decV w l),
   fun w l => .vmulhn (decV w l),
   fun w l => .vmac (decV w l),
   fun w l => .vmin (decV w l),
   fun w l => .vmax (decV w l),
   fun w l => .vminn (decV w l),
   fun w l => .vmaxn (decV w l),
   fun w l => .vabs (decV w l),
   fun w l => .vand (decV w l)]

/-- Opcodes 0x0d0 to 0x0df in order (R317). -/
def ops5b : List (Word → Option Word → Instr) :=
  [fun w l => .vor (decV w l),
   fun w l => .vxor (decV w l),
   fun w l => .vandn (decV w l),
   fun w l => .vshl (decV w l),
   fun w l => .vshr (decV w l),
   fun w l => .vsar (decV w l),
   fun w l => .vcmp (decV w l),
   fun w l => .vfcmp (decV w l),
   fun w l => .vfadd (decV w l),
   fun w l => .vfsub (decV w l),
   fun w l => .vfmul (decV w l),
   fun w l => .vfma (decV w l),
   fun w l => .vfdiv (decV w l),
   fun w l => .vfsqrt (decV w l),
   fun w l => .vfmin (decV w l),
   fun w l => .vfmax (decV w l)]

/-- Opcodes 0x0e0 to 0x0ef in order (R317). -/
def ops5c : List (Word → Option Word → Instr) :=
  [fun w l => .vsfu (decV w l),
   fun w l => .vcvt (decV w l),
   fun w l => .vcvtsr (decV w l),
   fun w l => .vsel (decV w l),
   fun w l => .vmov (decV w l),
   fun w l => .viota (decV w l),
   fun w l => .vext (decV w l),
   fun w l => .vins (decV w l),
   fun w l => .vperm (decV w l),
   fun w l => .vslup (decV w l),
   fun w l => .vsldn (decV w l),
   fun w l => .vcomp (decV w l),
   fun w l => .vexpd (decV w l),
   fun w l => .vrsum (decV w l),
   fun w l => .vrmax (decV w l),
   fun w l => .vrmin (decV w l)]

/-- Opcodes 0x0f0 to 0x0ff in order (R317). -/
def ops5d : List (Word → Option Word → Instr) :=
  [fun w l => .vrfsum (decV w l),
   fun w l => .vrfmax (decV w l),
   fun w l => .vrfmin (decV w l),
   fun w l => .mlog (decV w l),
   fun w l => .mpop (decV w l),
   fun w l => .mfirst (decV w l),
   fun w l => .msbf (decV w l),
   fun w l => .msif (decV w l),
   fun w l => .msof (decV w l),
   fun w l => .mset (decV w l),
   fun w l => .vld (decW w l),
   fun w l => .vlds (decW w l),
   fun w l => .vldx (decW w l),
   fun w l => .vldff (decW w l),
   fun w l => .vst (decW w l),
   fun w l => .vsts (decW w l)]

/-- Opcodes 0x100 to 0x109 in order (R317). -/
def ops5e : List (Word → Option Word → Instr) :=
  [fun w l => .vstx (decW w l),
   fun w l => .vtld (decW w l),
   fun w l => .vtst (decW w l),
   fun w l => .vamoadd (decW w l),
   fun w l => .vpopc (decV w l),
   fun w l => .vclz (decV w l),
   fun w l => .vdot (decV w l),
   fun w l => .vwmac (decV w l),
   fun w l => .vrng (decV w l),
   fun w l => .vclass (decV w l)]

/-- The opcodes of group 5 from 0x0c0 in order (R317). -/
def ops5 : List (Word → Option Word → Instr) := ops5a ++ ops5b ++ ops5c ++ ops5d ++ ops5e

/-- Opcodes 0x120 to 0x12f in order (R317). -/
def ops6a : List (Word → Option Word → Instr) :=
  [fun w l => .tdecl (decT w l),
   fun w l => let f := decT w l; if f.mode == 0 then .tshapeLo f else .tshapeHi f,
   fun w l => .tfree (decT w l),
   fun w l => let f := decT w l; if f.mode == 0 then .twait f else .twaitAll f,
   fun w l => .tstat (decT w l),
   fun w l => .tld (decC w l),
   fun w l => .tst (decC w l),
   fun w l => .tlda (decC w l),
   fun w l => .tsta (decC w l),
   fun w l => .tprobe (decC w l),
   fun w l => .tunpin (decC w l),
   fun w l => .tgath (decC w l),
   fun w l => .tscat (decC w l),
   fun w l => .tmma (decT w l),
   fun w l => .tmmas (decT w l),
   fun w l => .tmmaq (decT w l)]

/-- Opcodes 0x130 to 0x13f in order (R317). -/
def ops6b : List (Word → Option Word → Instr) :=
  [fun w l => .topa (decT w l),
   fun w l => .tzero (decT w l),
   fun w l => .text (decT w l),
   fun w l => .textv (decT w l),
   fun w l => .taccl (decT w l),
   fun w l => .tmap (decT w l),
   fun w l => .tred (decT w l),
   fun w l => .tew (decT w l),
   fun w l => .tfill (decT w l),
   fun w l => .ttrn (decT w l),
   fun w l => .tcvt (decT w l),
   fun w l => let f := decT w l; if f.mode == 0 then .tplane f else .tplaneRw f,
   fun w l => let f := decT w l; if f.mode == 0 then .tpacksMeta f else .tpacksSel f,
   fun w l => .tsend (decT w l),
   fun w l => .trecv (decT w l),
   fun w l => .tchain (decT w l)]

/-- Opcodes 0x140 to 0x14b in order (R317). -/
def ops6c : List (Word → Option Word → Instr) :=
  [fun w l => .tmcast (decT w l),
   fun w l => .tscan (decT w l),
   fun w l => .tscanc (decT w l),
   fun w l => .cpass (decT w l),
   fun w l => .cbar (decT w l),
   fun w l => .cinit (decT w l),
   fun w l => .tview (decT w l),
   fun w l => .trowv (decT w l),
   fun w l => .tvrow (decT w l),
   fun w l => .tsync (decT w l),
   fun w l => .trand (decT w l),
   fun w l => .tscale (decT w l)]

/-- The opcodes of group 6 from 0x120 in order (R317). -/
def ops6 : List (Word → Option Word → Instr) := ops6a ++ ops6b ++ ops6c

/-- Opcodes 0x160 to 0x16f in order (R317). -/
def ops7a : List (Word → Option Word → Instr) :=
  [fun w l => .barinit (decQ w l),
   fun w l => .bararr (decQ w l),
   fun w l => .barwait (decQ w l),
   fun w l => .barsync (decQ w l),
   fun w l => .bartest (decQ w l),
   fun w l => .gsync (decQ w l),
   fun w l => .elect (decQ w l),
   fun w l => let f := decQ w l; if f.n == 0 then .qbind f else .qbindUnbind f,
   fun w l => .qpush (decQ w l),
   fun w l => .qpop (decQ w l),
   fun w l => .qtry (decQ w l),
   fun w l => .qtake (decQ w l),
   fun w l => .qcnt (decQ w l),
   fun w l => .spawn (decQ w l),
   fun w l => .strip (decQ w l),
   fun w l => .taskend (decQ w l)]

/-- Opcodes 0x170 to 0x177 in order (R317). -/
def ops7b : List (Word → Option Word → Instr) :=
  [fun w l => .fork (decY w l),
   fun w l => .sync (decQ w l),
   fun w l => .stgput (decQ w l),
   fun w l => .stgget (decQ w l),
   fun w l => .evsig (decQ w l),
   fun w l => .evwait (decQ w l),
   fun w l => let f := decQ w l; if f.n == 0 then .signal f else .signalAdd f,
   fun w l => .time (decQ w l)]

/-- The opcodes of group 7 from 0x160 in order (R317). -/
def ops7 : List (Word → Option Word → Instr) := ops7a ++ ops7b

/-- Opcodes 0x180 to 0x18f in order (R317). -/
def ops8 : List (Word → Option Word → Instr) :=
  [fun w l => .getc (decY w l),
   fun w l => .setc (decY w l),
   fun w l => .eret (decY w l),
   fun w l => .bankcfg (decY w l),
   fun w l => .l2cfg (decY w l),
   fun w l => let f := decY w l; if f.c == 0 then .tlbinvRange f else .tlbinvAll f,
   fun w l => .ctxsave (decY w l),
   fun w l => .ctxload (decY w l),
   fun w l => .halt (decY w l),
   fun w l => .trace (decY w l),
   fun w l => .probev (decY w l),
   fun w l => .nbrd (decY w l),
   fun w l => .suspend (decY w l),
   fun w l => .resumeb (decY w l),
   fun w l => .scrub (decY w l),
   fun w l => .measure (decY w l)]

/-- The reading of the opcode value `op` under G3, if it is assigned (R317, R320). -/
def opcodeG3 (op : Nat) : Option (Word → Option Word → Instr) :=
  if op < 0x040 then (if op = 0 then none else ops1[op - 0x001]?)
  else if op < 0x060 then ops2[op - 0x040]?
  else if op < 0x080 then ops3[op - 0x060]?
  else if op < 0x0C0 then ops4[op - 0x080]?
  else if op < 0x120 then ops5[op - 0x0C0]?
  else if op < 0x160 then ops6[op - 0x120]?
  else if op < 0x180 then ops7[op - 0x160]?
  else ops8[op - 0x180]?

/-- The G3 value of a G2 opcode value (R323, R324): group 6 lies at 0x110 and lacks eight instructions. -/
def toG3fromG2 (op : Nat) : Option Nat :=
  if op < 0x110 then (if op < 0x10A then some op else none)
  else if op ≤ 0x116 then some (op + 0x010)
  else if op ≤ 0x12D then some (op + 0x014)
  else if op ≤ 0x133 then some (op + 0x018)
  else if op < 0x160 then none
  else some op

/-- The G2 value of a G1 opcode value (R325): groups 4 and 5 lack seven instructions. -/
def toG2fromG1 (op : Nat) : Option Nat :=
  if op ≤ 0x0A4 then some op
  else if op ≤ 0x0A8 then some (op + 1)
  else if op = 0x0A9 then some 0x0AB
  else if op < 0x0C0 then none
  else if op ≤ 0x0E1 then some op
  else if op ≤ 0x104 then some (op + 1)
  else if op < 0x110 then none
  else some op

/-- The reading of an opcode value in a generation (R316, R326). -/
def opcodeIn (gen op : Nat) : Option (Word → Option Word → Instr) :=
  if gen = 1 then (toG2fromG1 op).bind fun o => (toG3fromG2 o).bind opcodeG3
  else if gen = 2 then (toG3fromG2 op).bind opcodeG3
  else opcodeG3 op

/-- The mask selector of an instruction of format V or W (R308, R293). -/
def vectorGm (i : Instr) : Option (BitVec 4) :=
  match i with
  | .vadd f | .vsub f | .vadds f | .vsubs f | .vmul f | .vmulh f | .vmulhn f | .vmac f | .vmin f
  | .vmax f | .vminn f | .vmaxn f | .vabs f | .vand f | .vor f | .vxor f | .vandn f | .vshl f
  | .vshr f | .vsar f | .vpopc f | .vclz f | .vcmp f | .vfadd f | .vfsub f | .vfmul f | .vfma f
  | .vfdiv f | .vfsqrt f | .vfmin f | .vfmax f | .vfcmp f | .vclass f | .vsfu f | .vcvt f | .vcvtsr f
  | .vsel f | .vmov f | .viota f | .vext f | .vins f | .vperm f | .vslup f | .vsldn f | .vcomp f
  | .vexpd f | .vrsum f | .vrmax f | .vrmin f | .vrfsum f | .vrfmax f | .vrfmin f | .mlog f | .mpop f
  | .mfirst f | .msbf f | .msif f | .msof f | .mset f | .vdot f | .vwmac f | .vrng f => some f.gm
  | .vld f | .vlds f | .vldx f | .vldff f | .vst f | .vsts f | .vstx f | .vamoadd f | .vtld f
  | .vtst f => some f.gm
  | _ => none

/-- Format B, or format V with S = 0: no literal (R296). -/
def noLiteral (i : Instr) (w : Word) : Bool :=
  match i with
  | .br _ | .call _ | .loop _ => true
  | .vadd _ | .vsub _ | .vadds _ | .vsubs _ | .vmul _ | .vmulh _ | .vmulhn _ | .vmac _ | .vmin _
  | .vmax _ | .vminn _ | .vmaxn _ | .vabs _ | .vand _ | .vor _ | .vxor _ | .vandn _ | .vshl _
  | .vshr _ | .vsar _ | .vpopc _ | .vclz _ | .vcmp _ | .vfadd _ | .vfsub _ | .vfmul _ | .vfma _
  | .vfdiv _ | .vfsqrt _ | .vfmin _ | .vfmax _ | .vfcmp _ | .vclass _ | .vsfu _ | .vcvt _ | .vcvtsr _
  | .vsel _ | .vmov _ | .viota _ | .vext _ | .vins _ | .vperm _ | .vslup _ | .vsldn _ | .vcomp _
  | .vexpd _ | .vrsum _ | .vrmax _ | .vrmin _ | .vrfsum _ | .vrfmax _ | .vrfmin _ | .mlog _ | .mpop _
  | .mfirst _ | .msbf _ | .msif _ | .msof _ | .mset _ | .vdot _ | .vwmac _ | .vrng _ => w.extractLsb' 13 1 == 0
  | _ => false

/-- Decodes the word `w` in a generation (R87); `next` is the word after it, taken when L = 1 (R316). -/
def decodeInstr (gen : Nat) (w next : Word) : Except Reject Instr :=
  match opcodeIn gen (wordOp w).toNat with
  | none => .error .unassigned
  | some f =>
    let i := f w (if wordL w then some next else none)
    if ((vectorGm i).map (fun g => 12 ≤ g && g ≤ 14)).getD false then .error .maskSelector
    else if wordL w && noLiteral i w then .error .literal
    else if !i.wf then .error .fieldValue
    else if !Machine.genOk gen i then .error .generation
    else .ok i

/-- Decodes the first instruction of a list of bytes, and gives the bytes after it. -/
def decodeBytes (gen : Nat) (bs : List Byte) : Except Reject (Instr × List Byte) :=
  if bs.length < 8 then .error .short
  else
    let w : Word := BitVec.ofNat 64 (Machine.ofLe (bs.take 8))
    let size := if wordL w && (opcodeIn gen (wordOp w).toNat).isSome then 16 else 8
    if bs.length < size then .error .short
    else
      (decodeInstr gen w (BitVec.ofNat 64 (Machine.ofLe ((bs.drop 8).take 8)))).map fun i => (i, bs.drop size)

/-- The instruction read, under G3, from an instruction whose bits are `w`, the first word in bits 63..0. -/
def decodeTableWord (nbits w : Nat) : Option Instr :=
  match decodeBytes 3 (Machine.leBytes 16 (w % 2 ^ nbits)) with
  | .ok (i, _) => some i
  | .error _ => none

end

/-! ## The encoder -/

/-- Bits 63..50 of a word (R306). -/
def encHead (op : BitVec 9) (gm : BitVec 4) (l : Option Word) : BitVec 14 :=
  op ++ gm ++ BitVec.ofBool l.isSome

def encA (op : BitVec 9) (f : FmtA) : List Word :=
  (encHead op f.gm f.lit ++ f.d ++ f.a ++ f.b ++ f.imm : BitVec 64) :: f.lit.toList

def encF (op : BitVec 9) (f : FmtF) : List Word :=
  (encHead op f.gm f.lit ++ f.d ++ f.a ++ f.b ++ f.fn ++ f.imm : BitVec 64) :: f.lit.toList

def encB (op : BitVec 9) (f : FmtB) : List Word :=
  [(encHead op f.gm none ++ f.a ++ f.k ++ f.off : BitVec 64)]

def encM (op : BitVec 9) (f : FmtM) : List Word :=
  (encHead op f.gm f.lit ++ f.d ++ f.base ++ f.index ++ f.scope ++ f.shift ++ f.off : BitVec 64) :: f.lit.toList

def encV (op : BitVec 9) (f : FmtV) : List Word :=
  (encHead op f.gm f.lit ++ f.vd ++ f.va ++ f.vb ++ f.vc ++ f.vl ++ f.fmt ++ f.rnd ++ f.sat ++ f.s ++ f.xs ++ f.fn
    : BitVec 64) :: f.lit.toList

def encW (op : BitVec 9) (f : FmtW) : List Word :=
  (encHead op f.gm f.lit ++ f.vd ++ f.vi ++ f.base ++ f.stride ++ f.vl ++ f.fmt ++ f.scope ++ f.off : BitVec 64) ::
    f.lit.toList

def encT (op : BitVec 9) (f : FmtT) : List Word :=
  (encHead op f.gm f.lit ++ f.td ++ f.ta ++ f.tb ++ f.tc ++ f.xs ++ f.aux ++ f.mode ++ f.imm : BitVec 64) :: f.lit.toList

def encC (op : BitVec 9) (f : FmtC) : List Word :=
  (encHead op f.gm f.lit ++ f.t ++ f.base ++ f.layout ++ f.token ++ f.scope ++ f.xo ++ f.off : BitVec 64) :: f.lit.toList

def encQ (op : BitVec 9) (f : FmtQ) : List Word :=
  (encHead op f.gm f.lit ++ f.d ++ f.a ++ f.b ++ f.n ++ f.imm : BitVec 64) :: f.lit.toList

def encY (op : BitVec 9) (f : FmtY) : List Word :=
  (encHead op f.gm f.lit ++ f.d ++ f.a ++ f.c ++ f.imm : BitVec 64) :: f.lit.toList

/-- The G3 words of an instruction, its literal last (R306, R308, R317). An event has no words. -/
def encode (i : Instr) : List Word :=
  match i with
  | .add false f => encA 0x001 f
  | .sub false f => encA 0x002 f
  | .mul false f => encA 0x003 f
  | .mulh f => encA 0x004 f
  | .mulhn f => encA 0x005 f
  | .div f => encA 0x006 f
  | .divn f => encA 0x007 f
  | .rem f => encA 0x008 f
  | .remn f => encA 0x009 f
  | .and f => encA 0x00a f
  | .or f => encA 0x00b f
  | .xor f => encA 0x00c f
  | .andn f => encA 0x00d f
  | .orn f => encA 0x00e f
  | .shl false f => encA 0x00f f
  | .shr false f => encA 0x010 f
  | .sar false f => encA 0x011 f
  | .rol f => encA 0x012 f
  | .ror f => encA 0x013 f
  | .min f => encA 0x014 f
  | .max f => encA 0x015 f
  | .minn f => encA 0x016 f
  | .maxn f => encA 0x017 f
  | .clz f => encA 0x018 f
  | .ctz f => encA 0x019 f
  | .popc f => encA 0x01a f
  | .brev f => encA 0x01b f
  | .bswap f => encA 0x01c f
  | .sext f => encA 0x01d f
  | .zext f => encA 0x01e f
  | .mov f => encA 0x01f f
  | .lea f => encF 0x020 f
  | .sel f => encF 0x021 f
  | .setp f => encF 0x022 f
  | .setx f => encF 0x023 f
  | .plog f => encF 0x024 f
  | .bfx f => encA 0x025 f
  | .bfxn f => encA 0x026 f
  | .bfi f => encA 0x027 f
  | .abs f => encA 0x028 f
  | .add true f => encA 0x029 f
  | .sub true f => encA 0x02a f
  | .mul true f => encA 0x02b f
  | .shl true f => encA 0x02c f
  | .shr true f => encA 0x02d f
  | .sar true f => encA 0x02e f
  | .fadd false f => encF 0x040 f
  | .fadd true f => encF 0x041 f
  | .fsub false f => encF 0x042 f
  | .fsub true f => encF 0x043 f
  | .fmul false f => encF 0x044 f
  | .fmul true f => encF 0x045 f
  | .fmac false f => encF 0x046 f
  | .fmac true f => encF 0x047 f
  | .fdiv false f => encF 0x048 f
  | .fdiv true f => encF 0x049 f
  | .fsqrt false f => encF 0x04a f
  | .fsqrt true f => encF 0x04b f
  | .fmin false f => encF 0x04c f
  | .fmin true f => encF 0x04d f
  | .fmax false f => encF 0x04e f
  | .fmax true f => encF 0x04f f
  | .fsetp false f => encF 0x050 f
  | .fsetp true f => encF 0x051 f
  | .fsgn false f => encF 0x052 f
  | .fsgn true f => encF 0x053 f
  | .frnd false f => encF 0x054 f
  | .frnd true f => encF 0x055 f
  | .fcvt f => encF 0x056 f
  | .fclass f => encF 0x057 f
  | .br f => encB 0x060 f
  | .jmp f => encA 0x061 f
  | .call f => encB 0x062 f
  | .callr f => encA 0x063 f
  | .callt f => encA 0x064 f
  | .ret f => encA 0x065 f
  | .loop f => encB 0x066 f
  | .rep f => encA 0x067 f
  | .brx f => encA 0x068 f
  | .yield f => encA 0x069 f
  | .nop f => encA 0x06a f
  | .exit f => encA 0x06b f
  | .trap f => encA 0x06c f
  | .brk f => encA 0x06d f
  | .wfe f => encA 0x06e f
  | .lend f => encA 0x06f f
  | .lds8 f => encM 0x080 f
  | .lds16 f => encM 0x081 f
  | .lds32 f => encM 0x082 f
  | .ldz8 f => encM 0x083 f
  | .ldz16 f => encM 0x084 f
  | .ldz32 f => encM 0x085 f
  | .ld64 f => encM 0x086 f
  | .st8 f => encM 0x087 f
  | .st16 f => encM 0x088 f
  | .st32 f => encM 0x089 f
  | .st64 f => encM 0x08a f
  | .lda false f => encM 0x08b f
  | .lda true f => encM 0x08c f
  | .stl false f => encM 0x08d f
  | .stl true f => encM 0x08e f
  | .amoadd false f => encM 0x08f f
  | .amoadd true f => encM 0x090 f
  | .amoand false f => encM 0x091 f
  | .amoand true f => encM 0x092 f
  | .amoor false f => encM 0x093 f
  | .amoor true f => encM 0x094 f
  | .amoxor false f => encM 0x095 f
  | .amoxor true f => encM 0x096 f
  | .amomin false f => encM 0x097 f
  | .amomin true f => encM 0x098 f
  | .amomax false f => encM 0x099 f
  | .amomax true f => encM 0x09a f
  | .amominn false f => encM 0x09b f
  | .amominn true f => encM 0x09c f
  | .amomaxn false f => encM 0x09d f
  | .amomaxn true f => encM 0x09e f
  | .amoswp false f => encM 0x09f f
  | .amoswp true f => encM 0x0a0 f
  | .amocas false f => encM 0x0a1 f
  | .amocas true f => encM 0x0a2 f
  | .amofadd f => encM 0x0a3 f
  | .fenceAcq f => encM 0x0a4 f
  | .fenceAr f => encM 0x0a4 f
  | .fenceRel f => encM 0x0a4 f
  | .qfence f => encM 0x0a5 f
  | .cwb f => encM 0x0a6 f
  | .cinv f => encM 0x0a7 f
  | .cflush f => encM 0x0a8 f
  | .pref f => encM 0x0a9 f
  | .stpatch f => encM 0x0aa f
  | .ifence f => encM 0x0ab f
  | .lclaim f => encA 0x0c0 f
  | .lrelease f => encA 0x0c1 f
  | .vadd f => encV 0x0c2 f
  | .vsub f => encV 0x0c3 f
  | .vadds f => encV 0x0c4 f
  | .vsubs f => encV 0x0c5 f
  | .vmul f => encV 0x0c6 f
  | .vmulh f => encV 0x0c7 f
  | .vmulhn f => encV 0x0c8 f
  | .vmac f => encV 0x0c9 f
  | .vmin f => encV 0x0ca f
  | .vmax f => encV 0x0cb f
  | .vminn f => encV 0x0cc f
  | .vmaxn f => encV 0x0cd f
  | .vabs f => encV 0x0ce f
  | .vand f => encV 0x0cf f
  | .vor f => encV 0x0d0 f
  | .vxor f => encV 0x0d1 f
  | .vandn f => encV 0x0d2 f
  | .vshl f => encV 0x0d3 f
  | .vshr f => encV 0x0d4 f
  | .vsar f => encV 0x0d5 f
  | .vcmp f => encV 0x0d6 f
  | .vfcmp f => encV 0x0d7 f
  | .vfadd f => encV 0x0d8 f
  | .vfsub f => encV 0x0d9 f
  | .vfmul f => encV 0x0da f
  | .vfma f => encV 0x0db f
  | .vfdiv f => encV 0x0dc f
  | .vfsqrt f => encV 0x0dd f
  | .vfmin f => encV 0x0de f
  | .vfmax f => encV 0x0df f
  | .vsfu f => encV 0x0e0 f
  | .vcvt f => encV 0x0e1 f
  | .vcvtsr f => encV 0x0e2 f
  | .vsel f => encV 0x0e3 f
  | .vmov f => encV 0x0e4 f
  | .viota f => encV 0x0e5 f
  | .vext f => encV 0x0e6 f
  | .vins f => encV 0x0e7 f
  | .vperm f => encV 0x0e8 f
  | .vslup f => encV 0x0e9 f
  | .vsldn f => encV 0x0ea f
  | .vcomp f => encV 0x0eb f
  | .vexpd f => encV 0x0ec f
  | .vrsum f => encV 0x0ed f
  | .vrmax f => encV 0x0ee f
  | .vrmin f => encV 0x0ef f
  | .vrfsum f => encV 0x0f0 f
  | .vrfmax f => encV 0x0f1 f
  | .vrfmin f => encV 0x0f2 f
  | .mlog f => encV 0x0f3 f
  | .mpop f => encV 0x0f4 f
  | .mfirst f => encV 0x0f5 f
  | .msbf f => encV 0x0f6 f
  | .msif f => encV 0x0f7 f
  | .msof f => encV 0x0f8 f
  | .mset f => encV 0x0f9 f
  | .vld f => encW 0x0fa f
  | .vlds f => encW 0x0fb f
  | .vldx f => encW 0x0fc f
  | .vldff f => encW 0x0fd f
  | .vst f => encW 0x0fe f
  | .vsts f => encW 0x0ff f
  | .vstx f => encW 0x100 f
  | .vtld f => encW 0x101 f
  | .vtst f => encW 0x102 f
  | .vamoadd f => encW 0x103 f
  | .vpopc f => encV 0x104 f
  | .vclz f => encV 0x105 f
  | .vdot f => encV 0x106 f
  | .vwmac f => encV 0x107 f
  | .vrng f => encV 0x108 f
  | .vclass f => encV 0x109 f
  | .tdecl f => encT 0x120 f
  | .tshapeHi f => encT 0x121 f
  | .tshapeLo f => encT 0x121 f
  | .tfree f => encT 0x122 f
  | .twait f => encT 0x123 f
  | .twaitAll f => encT 0x123 f
  | .tstat f => encT 0x124 f
  | .tld f => encC 0x125 f
  | .tst f => encC 0x126 f
  | .tlda f => encC 0x127 f
  | .tsta f => encC 0x128 f
  | .tprobe f => encC 0x129 f
  | .tunpin f => encC 0x12a f
  | .tgath f => encC 0x12b f
  | .tscat f => encC 0x12c f
  | .tmma f => encT 0x12d f
  | .tmmas f => encT 0x12e f
  | .tmmaq f => encT 0x12f f
  | .topa f => encT 0x130 f
  | .tzero f => encT 0x131 f
  | .text f => encT 0x132 f
  | .textv f => encT 0x133 f
  | .taccl f => encT 0x134 f
  | .tmap f => encT 0x135 f
  | .tred f => encT 0x136 f
  | .tew f => encT 0x137 f
  | .tfill f => encT 0x138 f
  | .ttrn f => encT 0x139 f
  | .tcvt f => encT 0x13a f
  | .tplane f => encT 0x13b f
  | .tplaneRw f => encT 0x13b f
  | .tpacksMeta f => encT 0x13c f
  | .tpacksSel f => encT 0x13c f
  | .tsend f => encT 0x13d f
  | .trecv f => encT 0x13e f
  | .tchain f => encT 0x13f f
  | .tmcast f => encT 0x140 f
  | .tscan f => encT 0x141 f
  | .tscanc f => encT 0x142 f
  | .cpass f => encT 0x143 f
  | .cbar f => encT 0x144 f
  | .cinit f => encT 0x145 f
  | .tview f => encT 0x146 f
  | .trowv f => encT 0x147 f
  | .tvrow f => encT 0x148 f
  | .tsync f => encT 0x149 f
  | .trand f => encT 0x14a f
  | .tscale f => encT 0x14b f
  | .barinit f => encQ 0x160 f
  | .bararr f => encQ 0x161 f
  | .barwait f => encQ 0x162 f
  | .barsync f => encQ 0x163 f
  | .bartest f => encQ 0x164 f
  | .gsync f => encQ 0x165 f
  | .elect f => encQ 0x166 f
  | .qbind f => encQ 0x167 f
  | .qbindUnbind f => encQ 0x167 f
  | .qpush f => encQ 0x168 f
  | .qpop f => encQ 0x169 f
  | .qtry f => encQ 0x16a f
  | .qtake f => encQ 0x16b f
  | .qcnt f => encQ 0x16c f
  | .spawn f => encQ 0x16d f
  | .strip f => encQ 0x16e f
  | .taskend f => encQ 0x16f f
  | .fork f => encY 0x170 f
  | .sync f => encQ 0x171 f
  | .stgput f => encQ 0x172 f
  | .stgget f => encQ 0x173 f
  | .evsig f => encQ 0x174 f
  | .evwait f => encQ 0x175 f
  | .signal f => encQ 0x176 f
  | .signalAdd f => encQ 0x176 f
  | .time f => encQ 0x177 f
  | .getc f => encY 0x180 f
  | .setc f => encY 0x181 f
  | .eret f => encY 0x182 f
  | .bankcfg f => encY 0x183 f
  | .l2cfg f => encY 0x184 f
  | .tlbinvAll f => encY 0x185 f
  | .tlbinvRange f => encY 0x185 f
  | .ctxsave f => encY 0x186 f
  | .ctxload f => encY 0x187 f
  | .halt f => encY 0x188 f
  | .trace f => encY 0x189 f
  | .probev f => encY 0x18a f
  | .nbrd f => encY 0x18b f
  | .suspend f => encY 0x18c f
  | .resumeb f => encY 0x18d f
  | .scrub f => encY 0x18e f
  | .measure f => encY 0x18f f
  | .repRepetition | .wfeWake _ | .lclaimGrant _ | .twaitComplete _ | .tsyncComplete _
  | .cinitAnswer _ | .barrierArrival _ | .barrierWaiterResume _ | .queuePushAccept _
  | .queueWaitPushServed _ _ | .queueWaitPopServed _ _ | .refillBatchStart _ _ | .refillBatchLand _ _
  | .forkChildPlace _ | .parentResume _ | .stageQueueClose _ _ | .evwaitSatisfied _
  | .bankSwitchFinish _ _ | .l2cfgComplete _ | .invalidationComplete _ | .measurementExtend _
  | .tileAccept _ | .microOpStart _ _ _ | .microOpFinish _ _ | .copyTranslatePage _ | .tileRetire _
  | .tileTrapTaken _ | .translateService _ | .translationLockResume _ | .saffronCarryArrival _
  | .saffronCompletionArrival _ | .streamHeaderArrival _ | .streamGroupArrival _ | .storePerformL1 _
  | .l1FillArrival _ | .homeAccess _ | .sliceMissFill _ _ | .responseArrival _ | .cloveMarker _
  | .cloveAckArrival _ | .hostFlushReadComplete _ | .maceLockRequest _ | .maceGrant _
  | .maceRelease _ | .gatherRequest _ | .gatherForwardGroup _ | .gatherResult _
  | .meshPacketForward _ _ _ _ | .dieCacheLookup _ | .pageWalk _ | .pageWalkComplete _
  | .icacheDropRequest _ | .icacheDropAck _ | .launch _ | .gangPlacement _ | .hartFree _
  | .backpressureEvaluation _ | .clusterRelease _ | .preemptionStarvation _ | .preemptionStop _
  | .gangRestore _ | .launchComplete _ | .copy _ | .fill _ | .signalCommand _ | .waitCommand _
  | .waitSatisfied _ | .waitTimeout _ | .queueFence _ | .queueFenceSatisfied _ | .loadCode _
  | .invalidateRange _ | .invalidateIfetch _ | .invalidateAll _ | .contextCreate _ | .contextModify _
  | .contextDestroy _ | .commandConsume | .commandComplete _ | .dbtail _ _ _ | .queueEnable _ _ _
  | .queueDisable _ | .evhead _ _ _ | .haltedClear _ | .stggo _ | .fabrank _ _ | .pwrramp _ _
  | .pwrfloor _ _ | .meshwt _ _ | .trcctl _ _ _ | .haltreq _ | .haltResume _ | .freezereq _
  | .dbgimgSave _ _ | .dbgimgLoad _ _ | .registerWrite _ _ _ | .bar2Read _ _ | .bar2Write _ _
  | .sxlFlitReceive _ _ | .sxlRetry _ _ | .linkDown _ | .sxlWrite _ | .sxlRead _ | .sxlAtomic _
  | .sxlSignal _ | .sxlClove _ | .sxlResp _ | .sxlAck _ | .stagger _ _ | .staggerRelease
  | .timesyncExchange _ _ _ | .timesync _ _ | .governorSample _ | .monitorRead _ | .marginReplan _ _
  | .clkbinChange | .patrolScrub _ _ _ | .hotRowScrub _ _ _ | .scoreHalving | .rowRetirement _ _
  | .fuseCounterAdvance _ _ | .attestationReport _ | .coldReset _ | .coreFailureInService _
  | .atsInvalidation _ _ | .pcieLinkTraining _ _ | .vfEnable _ | .sxlLinkTraining _ _
  | .rowCopyComplete _ _ => []
end Sys2Proof
end

