-- ==== Sys2Proof/Config.lean ====
section
/-! DEFINITION. What the manual leaves to the part, to firmware or to outside standards. Every `opaque` constant is a
free value: it has no body, so nothing can be proved of it but what holds for every value. -/

namespace Sys2Proof.Config

/-- A byte of device memory that nothing has written reads as this. The spec gives HBM no contents after power-on.
DESIGN CHOICE, unsafe (log entry 1). -/
def unwrittenByte : Byte := 0

/-- Whether the n-th read through the uncached alias finds the home's present value already in HBM4E (R152 allows any
value held since the last write-back). A free value (log entry 10). -/
opaque aliasReadsCurrent : Nat → Bool

/-- Whether an SLH-DSA-SHAKE-256s signature verifies: key, message, signature (R62, R84, R63). The algorithm is an
outside standard. A free value (log entry 11). -/
opaque slhDsaVerify : List Byte → List Byte → List Byte → Bool

/-- The SLH-DSA signature of a report under the attestation key of the n-th cold reset (R64). A free value (entry 11). -/
opaque slhDsaSign : Nat → List Byte → List Byte

/-- The public attestation key generated at the n-th cold reset (R64). A free value (entry 11). -/
opaque attestationKey : Nat → List Byte

/-- The vendor key that is fused into the die (R63). A free value (entry 11). -/
opaque vendorKey : List Byte

/-- The fused SHAKE256 digest of the key that signs firmware images (R62). A free value (entry 11). -/
opaque bootDigest : List Byte

/-- The public half of the device identity key, and its signature of a message: the key pair is derived from a fused secret seed and
IDSERIAL (R64). Free values (entry 11). -/
opaque identityKey : Word → List Byte
opaque identitySign : Word → List Byte → List Byte

/-- byc: the translation of a function's Byino words with its SIDE records for a lane range (R91 step 3): the G3 words,
or none when byc rejects the function. A free value (log entry 12). -/
opaque byc : List Word → List Byte → Nat → Nat → Option (List Word)

/-- The row of a stack that holds an offset, and the physical address of a row: the spec gives rows no size or place (R60, R61). Free
values (log entry 13). -/
opaque rowOf : Nat → Nat → Nat
opaque rowAddress : Nat → Nat → Nat

/-- Whether the spare row budget of a stack still has a row, by stack and rows already used (R61 "if no spare remains").
A free value (log entry 13). -/
opaque spareLeft : Nat → Nat → Bool

/-- The host page that a PASID's page maps to, if the host grants it, by PASID, page and how often the host has invalidated
it: the device holds an answer until then (R37). Host data, a free value (log entry 9). -/
opaque atsTranslate : Nat → Nat → Nat → Option Nat

/-- A byte of host memory that nothing has written (R37). Host data: DESIGN CHOICE 0, unsafe (log entry 9). -/
def hostByte : Byte := 0

/-- The n-th micro-operation's packet of an element: those of one 128-byte block in one packet are performed together, and the packets of
a block in the order of their numbers (R212, R425 leave both open). Free values (log entry 82). -/
opaque copyPacket : Nat → Nat → Nat

/-- Free values handed out one by one; `n` is the counter `State.free` (log entry 4). -/
opaque freeValue : Nat → Word

end Sys2Proof.Config
end

