-- ==== Sys2Proof/Machine/Assoc.lean ====
section
/-! DEFINITION. Finite maps from numbers as sorted lists of pairs: sparse storage for blocks, cores, queues and the
rest. An absent key means the part's idle value. -/

namespace Sys2Proof.Machine

/-- The value at key `k`. -/
def aget {α : Type} : List (Nat × α) → Nat → Option α
  | [], _ => none
  | (k', v) :: t, k => if k = k' then some v else aget t k

/-- Writes key `k`, keeping the keys rising. -/
def aset {α : Type} : List (Nat × α) → Nat → α → List (Nat × α)
  | [], k, v => [(k, v)]
  | (k', v') :: t, k, v =>
    if k = k' then (k, v) :: t
    else if k < k' then (k, v) :: (k', v') :: t
    else (k', v') :: aset t k v

/-- Removes every entry of key `k`. -/
def adel {α : Type} (l : List (Nat × α)) (k : Nat) : List (Nat × α) :=
  l.filter (fun e => e.1 != k)

/-- The first index at which `p` holds. -/
def firstIdx {α : Type} (p : α → Bool) : List α → Option Nat
  | [] => none
  | x :: t => if p x then some 0 else (firstIdx p t).map (· + 1)

/-- The list without its `n`-th entry. -/
def dropAt {α : Type} : List α → Nat → List α
  | [], _ => []
  | _ :: t, 0 => t
  | x :: t, n + 1 => x :: dropAt t n

/-- Applies `f` to the entries that meet `p`. -/
def mapIf {α : Type} (p : α → Bool) (f : α → α) (l : List α) : List α :=
  l.map (fun x => if p x then f x else x)

/-- The smallest element under a key, the first of equals. -/
def minBy {α : Type} (key : α → Nat) : List α → Option α
  | [] => none
  | x :: t =>
    match minBy key t with
    | none => some x
    | some y => if key y < key x then some y else some x

end Sys2Proof.Machine
end

