-- ==== Sys2Proof/Machine/State.lean ====
section
/-! DEFINITION. The state of one SX9 as plain data, the reasons a step can stop, and the state after cold reset.
Sparse parts (blocks, cores, clusters, queues) are lists keyed by number; an absent key stands for the idle value. -/

namespace Sys2Proof.Machine

/-! ## Small vocabularies -/

/-- The trap causes of R263. -/
inductive Cause where
  | illop | priv | align | xlate | perm | format | shape | layout | token | tilestate | lanes | sparsemeta
  | fpexc | uncorr | qdeadlock | barrier | carry | stack | softtrap | breakc | watch | translate | preempt
  deriving DecidableEq, Repr

/-- The access kinds of R82. -/
inductive Access where
  | none | fetch | load | store | atomic | copyIn | copyOut | gather | scatter
  deriving DecidableEq, Repr

/-- The two levels of R260. -/
inductive Level where
  | k | s
  deriving DecidableEq, Repr

/-- The scopes of R187. -/
inductive Scope where
  | core | device | system
  deriving DecidableEq, Repr

/-- Tile-store bank modes (R153); a switching bank keeps the mode it is going to and the ck of its last write-back. -/
inductive BankMode where
  | cache | tile | fifo
  | switching (target : Nat) (since : Nat)
  deriving DecidableEq, Repr

/-- Physical slot states (R130). -/
inductive SlotState where
  | filling | ready | draining
  deriving DecidableEq, Repr

/-- Virtual-channel classes of the mesh (R168). -/
inductive VClass where
  | lat | bulk | rsp | ctl
  deriving DecidableEq, Repr

/-- An end point of the mesh (R15, R167): a core, stack or SXL port by its device-wide number; a die's walkers, command processor and
management cores; the host port. -/
inductive Node where
  | core (c : Nat) | stack (s : Nat) | walker (die : Nat) | cp (die : Nat) | host | sxl (port : Nat) | mgmt (die : Nat)
  deriving DecidableEq, Repr

/-- The fault record of a trap (R263, R264, R266). -/
structure FaultRec where
  cause : Cause
  access : Access := .none
  tile : Option Nat := none
  row : Nat := 0
  col : Nat := 0
  detail : Nat := 0
  va : Word := 0
  estart : Nat := 0
  deriving DecidableEq, Repr

/-! ## Memory system -/

/-- Bytes by address in canonical form: addresses rise strictly and no entry equals what an unlisted address reads as. -/
abbrev Memory := List Host.Cell

/-- A translation as a TLB, a token or the copy engine holds it (R177, R180, R182). -/
structure Xlat where
  ctx : Nat
  /-- first virtual address of the page, canonical bits 52..0 -/
  page : Nat
  log2 : Nat
  pa : Nat
  fmt : Nat
  srgn : Nat
  d : Bool
  s : Bool
  x : Bool
  w : Bool
  r : Bool
  /-- the physical address of the leaf entry -/
  pte : Nat := 0
  use : Nat := 0
  deriving DecidableEq, Repr

/-- A translation, or its failure, that a walk gave a waiting instruction (R125, R175). -/
structure XEntry where
  page : Nat
  write : Bool
  res : Option Xlat
  /-- the walk read uncorrectable data (R58) -/
  bad : Bool := false
  deriving DecidableEq, Repr

/-- A key of the die's miss table, the harts that wait on it and the walk's progress (R176, R181). -/
structure Miss where
  die : Nat
  ctx : Nat
  vpn : Nat
  va : Nat
  write : Bool
  waiters : List Nat
  /-- the core whose miss it was first: dirty bytes of its L1 are read in place of the home's (R159) -/
  core : Nat := 0
  /-- the die translation cache has been looked up, and the miss has entered the table -/
  looked : Bool := false
  level : Nat := 3
  table : Nat := 0
  started : Bool := false
  /-- the walker's request under way, with the dirty L1 bytes as it left: value and mask -/
  req : Option Nat := none
  dirtyV : Nat := 0
  dirtyM : Nat := 0
  /-- the leaf entry that was read, whose A and D bits are being set (R176) -/
  leaf : Option Nat := none
  /-- an entry held uncorrectable data (R58) -/
  bad : Bool := false
  /-- an invalidation began after the miss: its result is installed nowhere (R183 step 4) -/
  stale : Bool := false
  done : Bool := false
  res : Option Xlat := none
  deriving DecidableEq, Repr

/-- A level-3 or level-2 table entry held by a die's upper-level cache (R181). -/
structure Upper where
  ctx : Nat
  level : Nat
  index : Nat
  entry : Nat
  deriving DecidableEq, Repr

/-- One L1 line (R156): masks have one bit per byte; `writers` is the writer mask of R199. -/
structure L1Line where
  way : Nat
  line : Nat
  valid : BitVec 64
  dirty : BitVec 64
  data : BitVec 512
  writers : BitVec 8
  use : Nat
  /-- dirty bytes that hold uncorrectable data (R58) -/
  bad : BitVec 64 := 0
  /-- the harts of the core that have read dirty bytes of other harts in it (R201) -/
  seen : BitVec 8 := 0
  deriving DecidableEq, Repr

/-- A prefetch into L1 on its way: request, the core's acquire count when it left, line, bytes of the line that the core has written
since (R418, R158). -/
structure Pref where
  id : Nat
  before : Nat
  line : Nat
  newer : BitVec 64 := 0
  deriving DecidableEq, Repr

/-- One instruction-cache line (R124, R81): the context and virtual line it was fetched through. -/
structure ICLine where
  ctx : Nat
  vline : Nat
  line : Nat
  data : BitVec 512
  deriving DecidableEq, Repr

/-- A line of a memory-side cache slice (R161), by its first address: `bytes` are the bytes, by address, that HBM4E does
not hold yet. -/
structure SliceLine where
  stack : Nat
  way : Nat
  line : Nat
  bytes : List (Nat × Byte)
  use : Nat
  deriving DecidableEq, Repr

/-- What a request asks of a home (R162). Masks have one bit per byte. -/
inductive HomeOp where
  | read (n : Nat)
  | fill
  | write (data : Nat) (mask : Nat) (n : Nat)
  | amo (op : AmoOp) (n operand compare : Nat)
  /-- a change of the frame word of R112: kind 0 FORK, 1 SYNC (CONT and INPLACE given), 2 TASKEND -/
  | frame (kind : Nat) (cont : Nat) (inplace : Bool)
  /-- the write of STPATCH, whose performance sends the drop requests (R219) -/
  | patch (data : Nat)
  deriving DecidableEq, Repr

/-- A request to a home: an id that pairs the answer with it, the hart, the end point that sent it, the physical address; the order in
which it was sent; for a write bound for the other die, the sending die's vector clock, the count of its own die first (R198). -/
structure HomeReq where
  id : Nat
  hart : Nat
  src : Node
  pa : Nat
  op : HomeOp
  seq : Nat := 0
  clock : Option (Nat × Nat) := none
  /-- an engine's: unordered with the harts' own accesses (R206) -/
  engine : Bool := false
  /-- the tile-atomic copy that sends it under its locks (R184) -/
  holder : Option Nat := none
  deriving DecidableEq, Repr

/-- A tile lock request or release: the holder's hart, its tile instruction, the lines (256-byte) of one granule (R184). -/
structure LockReq where
  hart : Nat
  seq : Nat
  core : Nat
  lines : List Nat
  deriving DecidableEq, Repr

/-- A gather or scatter request of up to 1,024 elements (R165): element, physical address, data to write, of `n` bytes each. -/
structure GatherReq where
  id : Nat
  hart : Nat
  core : Nat
  /-- the gather unit that assembles the result -/
  first : Nat
  n : Nat
  write : Bool
  elems : List (Nat × Nat × Nat)
  /-- the order in which its core sent it -/
  seq : Nat := 0
  /-- an engine's: unordered with the harts' own accesses (R206) -/
  engine : Bool := false
  /-- the lowest element that read uncorrectable data (R58) -/
  bad : Option Nat := none
  deriving DecidableEq, Repr

/-- What a mesh packet carries (R168). -/
inductive Msg where
  | req (r : HomeReq)
  /-- `bad`: mask of uncorrectable bytes (R58) -/
  | resp (id : Nat) (value : Nat) (bad : Nat)
  | fill (id : Nat) (line : Nat) (data : Nat) (bad : Nat)
  | ack (id : Nat)
  | clove (core hart : Nat)
  | cloveAck (stack hart : Nat)
  | lock (r : LockReq)
  | grant (hart seq : Nat)
  | release (r : LockReq)
  | gather (g : GatherReq)
  | gatherFwd (g : GatherReq)
  | gatherRet (g : GatherReq)
  | gatherDone (g : GatherReq)
  /-- the next element of a gather at a unit, which waits for its line: the request's id, whether it is a forwarded group's -/
  | gatherElem (id : Nat) (fwd : Bool)
  | drop (line patcher hart : Nat)
  | dropAck (hart : Nat)
  deriving DecidableEq, Repr

/-- A packet in a router's input queue (R169, R170); list order is queue order. -/
structure Packet where
  die : Nat
  col : Nat
  row : Nat
  inPort : Port
  cls : VClass
  /-- the ck at which it reached the head of its queue: its ageing counter counts from there (R170) -/
  since : Nat
  ts : Nat
  src : Nat
  dst : Node
  msg : Msg
  deriving DecidableEq, Repr

/-- Turn, credits and the last input port served of one router egress (R169). -/
structure Egress where
  die : Nat
  col : Nat
  row : Nat
  out : Port
  turn : VClass
  credits : Nat
  last : Port
  deriving DecidableEq, Repr

/-- A locked line, its holder, and the waiters of its queue (R184, R185): a plain access, or a lock request with the lines
it still has to take, this one first. -/
structure LineLock where
  line : Nat
  holder : Nat
  seq : Nat
  waiters : List Msg
  deriving DecidableEq, Repr

/-- A request or forwarded group at a gather unit (R165 steps 3 to 5): the elements it has still to perform at its home, whether the next
of them waits in its line's queue, the elements that are away, the results. -/
structure GatherWork where
  stack : Nat
  fwd : Bool
  req : GatherReq
  todo : List (Nat × Nat × Nat)
  waits : Bool := false
  missing : Nat
  done : List (Nat × Nat × Nat)
  deriving DecidableEq, Repr

/-! ## A block's own parts -/

/-- Where a load's value goes: a scalar register (sign-extended from `bits` when `signed`), an element of a V register,
or nowhere. -/
inductive Dest where
  | x (r : BitVec 6) (signed : Bool) (bits : Nat)
  | vel (v : BitVec 5) (w e : Nat)
  /-- a line of the instruction cache, by its virtual and its own line -/
  | icache (vline line : Nat)
  /-- the answer of a frame AMO, by its kind -/
  | frame (kind : Nat)
  /-- a word that the instruction at the PC reads for itself, by its virtual address -/
  | word (va : Nat)
  | none
  deriving DecidableEq, Repr

/-- A load or AMO in flight (R125): `fill` when it waits for an L1 fill; `before` is the core's acquire count at its start. -/
structure PendLoad where
  id : Nat
  dest : Dest
  pa : Nat
  n : Nat
  fill : Bool
  acquire : Option Scope
  before : Nat
  /-- the instruction that made it and whether it has a literal, for UNCORR (R58) -/
  pc : Word := 0
  lit : Bool := false
  va : Nat := 0
  amo : Bool := false
  /-- its element, for the fault record -/
  elem : Nat := 0
  /-- dirty L1 bytes when the request left, or the valid ones for a fill: their value and mask (R158, R159) -/
  dirtyV : Nat := 0
  dirtyM : Nat := 0
  /-- the elements of a gather: element, physical address, dirty value and mask -/
  elems : List (Nat × Nat × Nat × Nat) := []
  /-- bytes that the core has written since the request left, by 64-byte line: the answer is older there (R158, R193) -/
  newer : List (Nat × BitVec 64) := []
  deriving DecidableEq, Repr

/-- How far a release has come (R199): draining the queue, waiting for Clove acknowledgements, for host reads and peer
acknowledgements, ready to write. -/
inductive RelPhase where
  | drain
  /-- homes still to acknowledge; the last request number before the markers -/
  | marked (homes : List Nat) (upTo : Nat)
  /-- host ports and peers still to answer; the last request number before the reads -/
  | flush (hosts peers : List Nat) (upTo : Nat)
  | ready
  /-- its write is on its way -/
  | sent (id : Nat)
  deriving DecidableEq, Repr

/-- One entry of a store queue (R125, R367, R413, R414, R417). Stores list physical address, bytes, value. An instruction
waits for a release that is `waiting`. -/
inductive SqOp where
  | store (elems : List (Nat × Nat × Nat)) (scope : Scope) (vector : Bool)
  | amo (id : Nat) (op : AmoOp) (pa n operand compare : Nat)
  | frame (id : Nat) (pa kind cont : Nat) (inplace : Bool)
  | writeBack (line : Nat) (flush : Bool) (sent : Bool)
  | gather (g : GatherReq)
  /-- VAMOADD: the elements to perform in order, as element, physical address, addend, of `n` bytes; the request of the first, once it
  has left; the instruction and its addresses for UNCORR (R369) -/
  | amoSeq (elems : List (Nat × Nat × Nat)) (n : Nat) (sent : Option Nat) (pc : Word)
  | release (scope : Scope) (write : Option (Nat × Nat × Nat)) (add : Bool) (phase : RelPhase) (waiting : Bool)
  deriving DecidableEq, Repr

/-- A release that an instruction waits for: none, in its queue, or done (R199, R205). -/
inductive RelState where
  | none | pending | done
  deriving DecidableEq, Repr

/-- Why a hart does not issue (R116, R270). Each wait ends by the event or condition its rule names. -/
inductive Wait where
  /-- a translation walk (R125) -/
  | walk
  /-- a release that the instruction at the PC performs first (R199) -/
  | release
  /-- the instruction at the PC is issued again once its condition holds -/
  | retry
  | lclaim (q : Nat) (d : BitVec 6)
  /-- a barrier: whether the phase it waits for has completed, whether the block is its lowest, where ELECT's answer goes -/
  | barrier (n : Nat) (passed won : Bool) (elect : Option (BitVec 6))
  /-- a BARINIT on its way to the home core -/
  | barInit (n : Nat)
  /-- a BARWAIT without an arrival, on its way to the home core -/
  | barrierAsk (n : Nat)
  | gsync (n : Nat)
  | tsync (n : Nat)
  | twait (name : Option Nat) (slotId : Nat) (seq : Nat)
  | push (q : Nat)
  | pop (q : Nat) (dest : BitVec 6) (pred : Option (BitVec 6))
  | evwait (e : Nat) (v : Word) (d : BitVec 6)
  | wfe (deadline : Option Nat)
  | sync (inplace : Bool)
  /-- waits for a count to reach the block: FORK, SYNC, TASKEND AMO answers -/
  | frameAmo
  | cbar (n : Nat)
  | bank (b mode : Nat)
  | l2cfg (stack : Nat)
  | inval (id : Nat)
  | patch (left : Nat)
  | measure (id : Nat)
  /-- a TRANSLATE being served, or its lock held by another hart (R91) -/
  | translate (f : Nat)
  /-- the answer of a CINIT (R438) -/
  | cinit
  /-- the header of a tile stream (R434) -/
  | stream
  /-- the answers of a read or atomic in peer memory (R43) -/
  | peer
  deriving DecidableEq, Repr

/-- The per-block control registers (R237, R240, R178, R291, R262, R264, R278, R282, R283). -/
structure Ctl where
  fctl : Word := 0
  seed : Word := 0
  stripb : Word := 0
  srgn : Vector Word 4 := Vector.replicate 4 0
  vstat : Word := 0
  tvec : Word := 0
  tdeleg : Word := 0
  tcause : Word := 0
  tinfo : Word := 0
  tepc : Word := 0
  testart : Word := 0
  tva : Word := 0
  savea : Word := 0
  haltstat : Word := 2
  bpc : Vector Word 4 := Vector.replicate 4 0
  wpa : Vector Word 4 := Vector.replicate 4 0
  wpl : Vector Word 4 := Vector.replicate 4 0
  brkh : Bool := false
  /-- REGSEL of the debug window (R283) -/
  regsel : BitVec 10 := 0
  deriving DecidableEq, Repr

/-- A window of TVIEW on a slot (R383). -/
structure View where
  slotId : Nat
  row0 : Nat
  col0 : Nat
  deriving DecidableEq, Repr

/-- A declared T name (R381, R129): its record, current slot, reserved slots with their units, view, TCHAIN stream. -/
structure TName where
  rcd : BitVec 128
  cur : Nat
  resv : List (Nat × List Nat)
  view : Option View := none
  /-- the tile instruction of the TCHAIN that binds the name (R435) -/
  chain : Option Nat := none
  deriving DecidableEq, Repr

/-- A declared A name (R137, R381, R396): its rectangle of units (row, column, height, width), rows and columns of
the local part, elements row-major, sticky overflow. -/
structure AName where
  rcd : BitVec 128
  empty : Bool
  rect : Nat × Nat × Nat × Nat
  rows : Nat
  cols : Nat
  elems : List (BitVec 96)
  aov : Bool
  deriving DecidableEq, Repr

/-- Where a tile instruction stands (R127, R130, R267). -/
inductive TPhase where
  | queued | running | finished | parked
  deriving DecidableEq, Repr

/-- A tile source as a micro-operation reads it: its slot, record, and the first bit of a view's window (R131, R383). -/
structure TSrc where
  slot : Nat
  rcd : BitVec 128
  off : Nat
  deriving DecidableEq, Repr

/-- A tile destination: its name, new slot, the slot that was current before, its record (R129, R134). -/
structure TDst where
  name : Nat
  slot : Nat
  before : Nat
  rcd : BitVec 128
  deriving DecidableEq, Repr

/-- A request that a copy's micro-operation awaits (R145, R425): the request's id (for a peer, 2^60 above its tag), the address of its
first byte, its bytes, the elements it carries as number (2^40 above for the element's scale), address and bytes; the dirty L1 bytes as
it left, and what the core has written since. -/
structure EngReq where
  id : Nat
  pa : Nat
  n : Nat
  parts : List (Nat × Nat × Nat)
  dirtyV : Nat := 0
  dirtyM : Nat := 0
  newer : List (Nat × BitVec 64) := []
  deriving DecidableEq, Repr

/-- An unretired tile instruction (R127, R272): its captured operands, destinations, sources, progress, held
translations and locks. -/
structure TileRec where
  seq : Nat
  /-- the order of acceptance into the core's sequencer -/
  stamp : Nat := 0
  ins : Instr
  pc : Word
  lit : Bool
  phase : TPhase := .queued
  faultPassed : Bool := true
  /-- the tile names of its operands, in the T encoding -/
  names : List Nat := []
  dst : List TDst := []
  src : List TSrc := []
  /-- an X or V register that it has still to write -/
  xdst : Option (BitVec 6) := none
  vdst : Option (BitVec 5) := none
  /-- captured scalar operands and vectors (R376) -/
  xv : List Word := []
  vv : List (BitVec 8192) := []
  mask : BitVec 1024 := 0
  fctl : Word := 0
  seed : Word := 0
  stripb : Word := 0
  srgn : List Word := []
  /-- layout record dimensions, innermost first: stride, extent (R422) -/
  dims : List (Int × Nat) := []
  body : List Instr := []
  nin : Nat := 0
  nres : Nat := 0
  /-- the VL, row or column of a V operand (R391, R395, R408) -/
  len : Nat := 0
  progress : Nat := 0
  /-- elements or steps in the micro-operation that runs -/
  chunk : Nat := 0
  /-- group partials of a matrix instruction between two steps of a group, by accumulator element (R138) -/
  part : List Nat := []
  /-- results of finished segments of a reduction or scan: TRED's by line, a scan's carries by line (R270, R274) -/
  segs : List (Nat × Nat) := []
  /-- elements at which watch registers stopped it, each with its register's number (R281, R282) -/
  watchAt : List (Nat × Nat) := []
  xlated : Nat := 0
  held : List Xlat := []
  token : Nat := 0
  locks : List Nat := []
  locksLeft : List Nat := []
  flags : BitVec 6 := 0
  emptyBit : Option Bool := none
  /-- what its running micro-operation awaits -/
  out : List EngReq := []
  fault : Option FaultRec := none
  /-- its checks failed at acceptance: it holds nothing, and its trap waits until it is the oldest (R134) -/
  refused : Bool := false
  chSeq : Nat := 0
  /-- the streams it sends, or the one it receives (R433) -/
  streams : List Nat := []
  deriving DecidableEq, Repr

/-- A probe token (R182, R427): entry, sequence, first address, length, pinned translations, revoked mark. -/
structure Token where
  idx : Nat
  seq : Nat
  va : Nat
  len : Nat
  pages : List Xlat
  revoked : Bool := false
  named : Bool := false
  deriving DecidableEq, Repr

/-- A block's place in a Saffron chain (R438, R439); `done` completions have reached it; `carries` were received and
not consumed. -/
structure Chain where
  key : Nat
  pos : Nat
  len : Nat
  lines : Nat
  wide : Bool
  next : Nat := 0
  done : Nat := 0
  consumed : Nat := 0
  carries : List (Nat × List (Nat × Nat)) := []
  deriving DecidableEq, Repr

/-- A block: one tile program on one hart (00 glossary, R286). -/
structure Block where
  placed : Bool := false
  ctx : Nat := 0
  launch : Nat := 0
  gang : Nat := 0
  gangSize : Nat := 1
  packed : Bool := false
  child : Bool := false
  gx : Nat := 0
  gy : Nat := 0
  gz : Nat := 0
  gangPos : Nat := 0
  stage : Nat := 0
  gen : Nat := 3
  slip : Nat := 2
  lmin : Nat := 0
  lmax : Nat := 8
  level : Level := .k
  pc : Word := 0
  estart : Word := 0
  x : Vector Word 64 := Vector.replicate 64 0
  p : BitVec 8 := 0x80
  v : Vector (BitVec 8192) 32 := Vector.replicate 32 0
  vprog : Vector Nat 32 := Vector.replicate 32 0
  m : Vector (BitVec 1024) 12 := Vector.replicate 12 0
  d : Vector (BitVec 128) 32 := Vector.replicate 32 0
  /-- X registers, and 64-bit words of V and M registers, in which a parity error stands (R57, R58) -/
  flawX : BitVec 64 := 0
  flawV : Vector (BitVec 128) 32 := Vector.replicate 32 0
  flawM : Vector (BitVec 16) 12 := Vector.replicate 12 0
  ctl : Ctl := {}
  groups : List Nat := []
  /-- groups are zeroed at the next LCLAIM after a release or at the block's first (R352, R353) -/
  freshLanes : Bool := true
  stackBase : Word := 0
  wait : Option Wait := none
  /-- the register, word and next word of a REP in progress (R298) -/
  rep : Option (BitVec 6 × Word × Word) := none
  wake : Bool := false
  rel : RelState := .none
  pend : List PendLoad := []
  sq : List SqOp := []
  /-- writes sent and not acknowledged: id, stack (R198) -/
  unacked : List (Nat × Nat) := []
  /-- translations that walks gave the instruction at the PC (R125) -/
  xbuf : List XEntry := []
  /-- translations that walks gave the block's copy instructions (R132, R181) -/
  ebuf : List XEntry := []
  /-- the first element of a peer read that failed, and its address (R43) -/
  peerBad : Option (Nat × Nat) := none
  /-- the answer of a frame AMO: its kind and the word before (R112) -/
  frameAns : Option (Nat × Nat) := none
  /-- what the instruction at the PC has read for itself: a function table entry or a frame by address, a vector load's elements in peer
  memory by number (R343, R450, R43) -/
  words : List (Nat × Nat) := []
  fifo : Vector (Option Nat) 4 := Vector.replicate 4 none
  /-- the elements below this one have been sent to memory by the vector store at the PC (R214) -/
  sentTo : Nat := 0
  /-- bound registers that the instruction at the PC pops when it completes (R287), and whether it has a literal -/
  pops : List (BitVec 6) := []
  pcLit : Bool := false
  age : Nat := 0
  waitCnt : Nat := 0
  bubble : Bool := false
  tnames : List (Nat × TName) := []
  /-- freed names whose reservation has not returned (R382) -/
  lingering : List TName := []
  anames : List (Nat × AName) := []
  /-- regions of A names whose TFREE has not finished, by that instruction and the name (R382) -/
  freeing : List (Nat × Nat × AName) := []
  trecs : List TileRec := []
  seqNext : Nat := 1
  tokens : List Token := []
  tokSeq : Nat := 0
  chain : Option Chain := none
  consumers : List Nat := []
  stripPrev : Nat := 0
  /-- barriers at which the block has arrived, and whether the phase of its latest arrival has completed (R442) -/
  arrivals : List (Nat × Bool) := []
  gsyncs : Nat := 0
  tsyncs : Nat := 0
  /-- how far a pre-emption has come: 0 none, 1 it issues nothing, 2 its release is in the store queue (R271); 3 and 4 the same for the halt
  of an aborted launch (R79) -/
  stop : Nat := 0
  skipBp : Bool := false
  /-- elements of the instruction at the PC at which watch registers stopped it, with the register's number (R281) -/
  skipWatch : List (Nat × Nat) := []
  /-- the same of the instruction whose trap entered the handler, with its address -/
  watched : Option (Word × List (Nat × Nat)) := none
  /-- a DBGIMG write that waits for the block's accesses under way (R283) -/
  dbgReq : Option Word := none
  /-- the first write to peer memory that failed: its message's number and its address (R43) -/
  failedWrite : Option (Nat × Nat) := none
  /-- its launch has been aborted: it is to halt and leave (R79) -/
  dying : Bool := false
  deriving DecidableEq, Repr

/-! ## Core, cluster, gang -/

/-- A physical tile slot that is not EMPTY (R130); the content counts bits from bit 0 of byte 0. -/
structure Slot where
  id : Nat
  state : SlotState
  owner : Nat
  name : Nat
  units : List Nat
  content : Nat := 0
  /-- the producer has finished -/
  filled : Bool
  /-- its 4 KiB units are allocated (R129, R468) -/
  placed : Bool := true
  /-- bits that no rule gives a value: gaps between lines, blocks and scales, and the rest of the last unit -/
  undef : Nat := 0
  /-- bits that hold uncorrectable data: whole 64-bit words (R57, R58) -/
  bad : Nat := 0
  /-- 64-byte groups arrived under TCHAIN, when the slot is bound (R147) -/
  prog : Option Nat := none
  /-- the tile instruction that took the name's next slot, 0 for a TFREE (R130) -/
  superseded : Option Nat := none
  deriving DecidableEq, Repr

/-- A FIFO data queue (R155, R445): the hart bound to it, its owner's leftovers, entries oldest first. -/
structure DataQ where
  bound : Option Nat := none
  owner : Option Nat := none
  entries : List Word := []
  /-- which of the first entries hold uncorrectable data (R57, R58) -/
  bad : List Bool := []
  deriving DecidableEq, Repr

/-- A core (R1): banks, caches, TLB, slots, data queues, issue state, release sets, trace registers. -/
structure Core where
  banks : Vector BankMode 32 := ⟨⟨List.replicate 8 .cache ++ List.replicate 24 .tile⟩, rfl⟩
  l1 : List L1Line := []
  icache : List ICLine := []
  tlb : List Xlat := []
  slots : List Slot := []
  dataq : List (Nat × DataQ) := []
  schedPol : Bool := false
  current : Option Nat := none
  last : Option Nat := none
  nextAge : Nat := 1
  acquires : Nat := 0
  /-- the homes of R203, each with the number of the last request to it -/
  homes : List (Nat × Nat) := []
  /-- the host ports written through since the last SYSTEM-scope release, each with the number of the last write (R37) -/
  hostPorts : List (Nat × Nat) := []
  peers : List Nat := []
  claims : List Nat := []
  /-- 64-byte lines of the L1 that CORE-scope tile-atomic copies hold (R184) -/
  l1Locks : List LineLock := []
  /-- BANKCFGs that wait for another of their bank, in issue order: bank and hart (R154) -/
  bankWait : List (Nat × Nat) := []
  /-- prefetches on their way, and those that wait for a walk: hart, address, slice (R418) -/
  prefs : List Pref := []
  prefWait : List (Nat × Nat × Bool) := []
  /-- lane groups and tile-store banks lent to the blocks of a stage, 0 for none (R102) -/
  lent : List Nat := []
  lentBanks : List Nat := []
  lentStage : Nat := 0
  /-- a lane micro-operation found no group to run on (R113) -/
  laneWait : Bool := false
  /-- the ck in which a hart of the core last lost a group (R114) -/
  shrunkAt : Option Nat := none
  trcBase : Word := 0
  trcHead : Nat := 0
  trcKinds : Nat := 0
  trcLog2 : Nat := 0
  trcWrap : Bool := false
  trcLost : Nat := 0
  failed : Bool := false
  deriving DecidableEq, Repr

/-- A record of a hardware queue: eight words (R108). -/
abbrev Rec := List Word

/-- A push on its way to a queue or waiting at it (R104, R107). -/
structure Push where
  cluster : Nat
  q : Nat
  hart : Nat
  rcd : Rec
  deriving DecidableEq, Repr

/-- A hardware queue of a cluster with its ring (R103 to R107). -/
structure HwQueue where
  qring : Word := 0
  recs : List Rec := []
  ringHead : Nat := 0
  ringCount : Nat := 0
  batch : Option (List Rec) := none
  batchAt : Nat := 0
  /-- records of the batch that a peer has still to send: the message's number, the place in the batch; why one failed, and its address -/
  batchTags : List (Nat × Nat) := []
  batchBad : Option (Cause × Nat) := none
  /-- the ck and hart of the last push that arrived (R104) -/
  lastCk : Nat := 0
  lastHart : Nat := 0
  closed : Bool := false
  waitPush : List (Nat × Rec) := []
  waitPop : List Nat := []
  deriving DecidableEq, Repr

/-- A named barrier (R442): the positions that arrived in the running phase, and those that wait for it without an arrival. -/
structure Bar where
  count : Nat
  arrived : Nat
  phase : Bool
  arr : List Nat := []
  asks : List Nat := []
  deriving DecidableEq, Repr

/-- What travels to a gang's home core (R118, R443). -/
inductive BarMsg where
  | arrive (n : Nat)
  | init (n count : Nat)
  | ask (n : Nat)
  | gsync
  | tsync
  deriving DecidableEq, Repr

/-- A gang that is placed (R118): home core, members by position with their harts (none once ended), barriers, and the
GSYNC and TSYNC arrival counts per position. -/
structure Gang where
  id : Nat
  launch : Nat
  index : Nat
  home : Nat
  cluster : Nat
  nbar : Nat
  members : List (Option Nat)
  bars : List Bar
  gsync : List Nat
  tsync : List Nat
  deriving DecidableEq, Repr

/-- An arrival or BARINIT on its way to the home core (R118, R444). -/
structure BarReq where
  gang : Nat
  pos : Nat
  hart : Nat
  msg : BarMsg
  deriving DecidableEq, Repr

/-- A carry packet or completion on the Saffron network (R142, R440). -/
structure Carry where
  launch : Nat
  key : Nat
  pos : Nat
  seq : Nat
  carries : List (Nat × Nat)
  deriving DecidableEq, Repr

/-- A tile stream between two blocks of a gang (R433, R434): ends, channel, header fields, content in bytes, groups sent
and arrived, the receiving instruction once matched. -/
structure Stream where
  id : Nat
  gang : Nat
  src : Nat
  dst : Nat
  ch : Nat
  header : List Nat
  bytes : Nat
  content : Nat
  /-- groups that have left the sender; those that have not arrived stand in the receive channel's buffer (R146) -/
  sent : Nat := 0
  arrived : Nat
  headerSeen : Bool
  receiver : Option Nat
  deriving DecidableEq, Repr

/-! ## Command processor -/

/-- A function of a Byino object as its image has it: its words in TEXT, its call-site and symbolic-quantity records (R89, R90). -/
structure FuncInfo where
  words : List Word
  recs : List Byte
  deriving DecidableEq, Repr

/-- A registered code object (R84, R85): header fields and section places as offsets in the image. -/
structure CodeObj where
  codeId : Nat
  base : Nat
  gen : Nat
  byino : Bool
  slip : Nat
  lmin : Nat
  lmax : Nat
  frameVb : Nat
  spillVb : Nat
  fixB : Nat
  secVer : Nat
  ntile : Nat
  nacc : Nat
  nbar : Nat
  nkern : Nat
  nfunc : Nat
  nlanefn : Nat
  sections : List (Nat × Nat)
  /-- LANEFNS entries: offset of the body in TEXT, instructions, inputs, results (R305) -/
  lanefns : List (Nat × Nat × Nat × Nat) := []
  /-- KERNELS entries: entry offset in TEXT, STAGES (R84) -/
  kernels : List (Nat × Nat) := []
  /-- a Byino object's functions; its call sites: TEXT offset of the CALLT, callee (R89) -/
  funcs : List FuncInfo := []
  sites : List (Nat × Nat) := []
  deriving DecidableEq, Repr

/-- A cached translation of a Byino function (R90, R91); `va` is where its code stands in the translation area. -/
structure CachedXlat where
  va : Nat
  digest : List Byte
  secVer : Nat
  lmin : Nat
  lmax : Nat
  code : List Word
  deriving DecidableEq, Repr

/-- A context (R80, R453). -/
structure Context where
  root : Nat
  pasid : Nat
  xaBase : Nat
  xaBytes : Nat
  xaUsed : Nat
  allow : List (Nat × Nat)
  reqSig : Bool
  digests : List (List Byte)
  objs : List CodeObj
  cached : List CachedXlat
  events : List (Nat × Word)
  deriving DecidableEq, Repr

/-- A host queue (R67 to R72): descriptor, indices, the command it runs and its progress, records that wait (R83). -/
structure Queue where
  qbase : Word := 0
  qevbase : Word := 0
  enable : Bool := false
  msien : Bool := false
  prio : Nat := 0
  log2size : Nat := 0
  evlog2 : Nat := 0
  ctx : Nat := 0
  vf : Nat := 0
  msixv : Nat := 0
  evTail : Nat := 0
  evHead : Nat := 0
  cdone : Word := 0
  cfgerr : Bool := false
  evlost : Bool := false
  halted : Bool := false
  head : Nat := 0
  tail : Nat := 0
  /-- the command consumed: its eight words and ring index -/
  cmd : Option (List Word × Nat) := none
  /-- its status once it has one, with its RESULT -/
  status : Option (Nat × Word) := none
  /-- ck at which the command started, and whether it waits in WAIT or QUEUE-FENCE -/
  startAt : Nat := 0
  waiting : Bool := false
  /-- bytes that the command has written, and the bytes of the read it makes that have come -/
  moved : Nat := 0
  got : List Byte := []
  /-- its read under way, of its next command while it has none, by the request's id (2^60 for one of a peer) and its bytes; a peer's answer,
  as its value and whether it is uncorrectable, none when the access failed -/
  out : Option (Nat × Nat) := none
  peerVal : Option (Option (Nat × Bool)) := none
  /-- its writes under way, by the request's id and the home address; whether a write to a peer failed; whether a host write has not been
  flushed by a read (R37, R72) -/
  acks : List (Nat × Nat) := []
  wfail : Bool := false
  flush : Bool := false
  invalId : Option Nat := none
  readySince : Nat := 0
  records : List (List Word) := []
  deriving DecidableEq, Repr

/-- A launch (R76, R95 to R101): captured record, code object, ranges, areas in use, next gang, blocks alive per stage. -/
structure Launch where
  id : Nat
  queue : Nat
  ctx : Nat
  prio : Nat
  order : Nat
  obj : CodeObj
  kernel : Nat
  entry : Nat
  gx : Nat
  gy : Nat
  gz : Nat
  gang : Nat
  packed : Bool
  stages : Nat
  slip : Nat
  lmin : Nat
  lmax : Nat
  dies : Nat
  stackBase : Nat
  areaBytes : Nat
  areas : Nat
  areasUsed : List Nat
  args : List Word
  nextGang : Nat
  live : List Nat
  aborted : Bool := false
  starvedAt : Option Nat := none
  deriving DecidableEq, Repr

/-- A FORK child that waits for a hart (R111, R449): launch, parent hart's data, entry, arguments, frame of the parent. -/
structure Child where
  launch : Nat
  home : Nat
  entry : Word
  arg1 : Word
  arg2 : Word
  parentFrame : Word
  gx : Nat
  gy : Nat
  gz : Nat
  stage : Nat
  fctl : Word
  seed : Word
  srgn : Vector Word 4
  gen : Nat
  /-- nothing was free when it was made: it waits for its turn (R98, R111) -/
  pending : Bool := false
  deriving DecidableEq, Repr

/-- A suspended parent that left its hart (R112, R450): the block as it was, keyed by its frame address. -/
structure Suspended where
  frame : Word
  blk : Block
  deriving DecidableEq, Repr

/-- A parent to be resumed at CONT: its launch and frame, whether in place, and the hart kept for it (R112). -/
structure Resume where
  launch : Nat
  frame : Word
  cont : Word
  inplace : Bool
  hart : Nat
  deriving DecidableEq, Repr

/-- What a context save image (R272) of a block holds beside the bytes that R272 to R274 lay out: the block, its slots, the data queues
bound to X60 to X63. -/
structure SavedBlk where
  blk : Block
  slots : List Slot
  queues : List DataQ
  deriving DecidableEq, Repr

/-- A pre-empted gang: its images in the save pool by position (R121, R271) and the barrier states of its home. -/
structure SavedGang where
  gang : Gang
  prio : Nat
  order : Nat
  images : List (Option Nat)
  blks : List (Option SavedBlk)
  /-- the starved launch that it made room for (R120) -/
  madeRoom : Option Nat := none
  deriving DecidableEq, Repr

/-- A halt for pre-emption asked of a block: the starved launch, the place of the save pool kept for its image, in units of 4 KiB (R120, R121,
R271). -/
structure Victim where
  hart : Nat
  gang : Nat
  launch : Nat
  pa : Nat
  units : Nat
  deriving DecidableEq, Repr

/-- An invalidation of translations in progress (R183): its issuer, and what it waits for by hart and age of the block: tokens, copies,
blocks with accesses under way. -/
structure Inval where
  id : Nat
  ctx : Nat
  lo : Nat
  len : Nat
  all : Bool
  hart : Option Nat
  queue : Option Nat
  tokens : List (Nat × Nat × Nat)
  copies : List (Nat × Nat × Nat)
  busy : List (Nat × Nat)
  /-- blocks for which a walk that may return an affected translation was under way, with its page number -/
  walks : List (Nat × Nat × Nat) := []
  deriving DecidableEq, Repr

/-- A LOAD-CODE that waits for its measurement, before steps 7 and 8 of R85: queue, context, load address, CODEID, image. -/
structure LoadRest where
  queue : Nat
  ctx : Nat
  base : Nat
  codeId : Nat
  image : List Byte
  deriving DecidableEq, Repr

/-- A measurement extension on its way to the security unit (R66): register, data, and the LOAD-CODE that waits for it. -/
structure Extend where
  id : Nat
  reg : Nat
  data : List Byte
  load : Option LoadRest := none
  deriving DecidableEq, Repr

/-! ## Host side, fabric, platform -/

/-- A message that came over a port, with the timestamp of its arrival; port 8 for an answer of the device itself (R40, R41, R46). -/
structure SxlIn where
  port : Nat
  at_ : Nat
  msg : SxlMsg
  deriving DecidableEq, Repr

/-- A peer's request that its home is performing: the home's request, the port it came over, the message (R39). -/
structure Serving where
  id : Nat
  port : Nat
  msg : SxlMsg
  deriving DecidableEq, Repr

/-- A part of a host access through BAR2 within one 256-byte line, or a refused access (no bytes); what it writes; whether it is its access's
last part (R31, R223). -/
structure HostPart where
  pa : Nat
  n : Nat
  data : Option Nat
  last : Bool
  deriving DecidableEq, Repr

/-- An SXL port (R38): trained, in service, failed retries in succession, sequence numbers, retry buffer. -/
structure SxlPort where
  trained : Bool := false
  up : Bool := false
  peer : Nat := 0
  fails : Nat := 0
  rxSeq : Nat := 0
  txSeq : Nat := 0
  buf : List Flit := []
  /-- retries asked for or made, for telemetry -/
  retries : Nat := 0
  deriving DecidableEq, Repr

/-- A request to a peer that waits for its answer (R39, R43): tag, hart, whether a write, address. -/
structure PeerWait where
  tag : Nat
  hart : Nat
  posted : Bool
  dev : Nat
  addr : Nat
  clove : Bool
  deriving DecidableEq, Repr

/-- A row of a stack that has had errors (R60, R61): its retirement score, since when it is on the hot list, whether it is being copied to
a spare. -/
structure RowInfo where
  stack : Nat
  row : Nat
  score : Nat
  hotSince : Option Nat
  copying : Bool := false
  deriving DecidableEq, Repr

/-- The device's registers outside cores and queues, and the host's side of the link. -/
structure Platform where
  bootState : Nat := 0
  failStk : Nat := 15
  bootCause : Nat := 0
  step : BitVec 8 := 0
  clkbin : BitVec 8 := 84
  serial : Word := 0
  memrate : BitVec 24 := 0
  fuseN : Word := 0x0088_8888_88FF
  fuseS : Word := 0x0088_8888_88FF
  rank : Nat := 0xFFFF
  rankSet : Bool := false
  tsctlRootDev : Nat := 0
  tsctlRoot : Bool := false
  synced : Bool := false
  lastOff : Int := 0
  offsets : List Int := []
  /-- when the last TIMESYNC exchange began, and the t1 of the one under way (R46) -/
  syncAt : Nat := 0
  syncAsked : Option Nat := none
  stgT0 : Word := 0
  stgWidth : Nat := 0
  stgSlots : Nat := 0
  stgSeq : Nat := 0
  stgSeen : List (Nat × Nat) := []
  stgRelease : Option Nat := none
  pwrRise : Nat := 200
  pwrFall : Nat := 200
  pwrFloor : Nat := 55
  /-- package power of the last sample and of up to 2,000 samples, latest first, in 10 mW (R47, R50) -/
  pwrLast : Nat := 0
  pwrSamples : List Nat := []
  throttled : Bool := false
  /-- filler power of the last sample, in 10 mW, and filler energy, in 100 nJ (R50, R51) -/
  filler : Nat := 0
  fillerSum : Nat := 0
  hours : Nat := 0
  margin : Nat := 0xFF
  worstMon : Nat := 0xFF
  pendBin : Nat := 0
  voff : Nat := 0
  pendSince : Option Nat := none
  savePoolB : Word := 0
  savePoolS : Word := 0
  meshLat : Nat := 4
  meshBulk : Nat := 2
  meshRsp : Nat := 4
  meshCtl : Nat := 1
  scrWays : Vector Nat 12 := Vector.replicate 12 0
  scrTarget : List (Nat × Nat) := []
  /-- L2CFGs that wait for another of their stack, in the order they reached it: stack, hart, ways (R163) -/
  scrWait : List (Nat × Nat × Nat) := []
  fuseCounter : Word := 0
  mr : Vector (List Byte) 8 := Vector.replicate 8 (List.replicate 64 0)
  resets : Nat := 0
  atts : List (List Byte) := []
  /-- the attestation public key under the identity key's signature, made at each cold reset (R64) -/
  attCert : List Byte := []
  /-- host accesses through BAR2 in the order of their arrival, the request of the first under way, the bytes of a read so far, what the last
  read returned: none for Unsupported Request (R31, R223) -/
  hostQ : List HostPart := []
  hostOut : Option Nat := none
  hostGot : List Byte := []
  hostAns : Option (List Byte) := none
  vfs : Nat := 0
  pcieRate : Nat := 0
  pcieWidth : Nat := 0
  rows : List RowInfo := []
  /-- corrected errors counted (R57); the powered hours at which the scores were last halved (R61) -/
  corrected : Nat := 0
  halvedAt : Nat := 0
  /-- spare rows used, by stack (R61) -/
  spares : List (Nat × Nat) := []
  /-- a core failed in service: the device is out of service (R16) -/
  outOfService : Bool := false
  deriving DecidableEq, Repr

/-- The fabric of other devices (R38 to R46). -/
structure Fabric where
  peerWin : List (Nat × Word) := []
  /-- route entries other than 0xF (R41) -/
  routes : List (Nat × Nat) := []
  ports : List (Nat × SxlPort) := []
  /-- messages that wait to leave by a port, and flits sent -/
  queued : List (Nat × SxlMsg) := []
  outbox : List (Nat × Flit) := []
  /-- retries asked of the sender at a port's other end: the first sequence number to replay -/
  retryOut : List (Nat × Nat) := []
  /-- messages that arrived and are not served, and requests that homes are performing -/
  inbox : List SxlIn := []
  serving : List Serving := []
  waits : List PeerWait := []
  tags : Nat := 0
  deriving DecidableEq, Repr

/-- The command processors' state (R80, R95 to R121, R474). -/
structure Cp where
  contexts : List (Nat × Context) := []
  ctxTvec : List (Nat × Word) := []
  ctxDeleg : List (Nat × Word) := []
  queues : List (Nat × Queue) := []
  lastQueue : Nat := 1023
  launches : List Launch := []
  nextLaunch : Nat := 1
  gangs : List Gang := []
  nextGangId : Nat := 1
  clusterCtx : List (Nat × Nat) := []
  children : List Child := []
  suspended : List Suspended := []
  resumes : List Resume := []
  victims : List Victim := []
  saved : List SavedGang := []
  poolUsed : List (Nat × Nat) := []
  /-- images that CTXSAVE and DBGIMG wrote, by physical address -/
  images : List (Nat × SavedBlk) := []
  invals : List Inval := []
  nextInval : Nat := 1
  extensions : List Extend := []
  nextExtend : Nat := 1
  /-- the 4,096-ck period in which a cluster's back-pressure was last evaluated (R102) -/
  evalAt : List (Nat × Nat) := []
  xlocks : List (Nat × Nat × Nat × Nat) := []
  /-- MSI-X by function, 0 for the PF, and vector: messages sent; table entries, masked at reset; pending bits (R30, R31, R82; log entry
  86) -/
  msix : List (Nat × Nat) := []
  msixTab : List (Nat × BitVec 128) := []
  msixPend : List (Nat × Nat) := []
  deriving DecidableEq, Repr

/-- The memory system outside the cores. -/
structure MemSys where
  mem : Memory := []
  hostMem : Memory := []
  /-- how often the host's translations have been invalidated: of a PASID as a whole, of one of its pages (R37) -/
  atsAll : List (Nat × Nat) := []
  atsPages : List ((Nat × Nat) × Nat) := []
  slice : List SliceLine := []
  /-- bytes of device memory holding uncorrectable data (R58) -/
  bad : List Nat := []
  locks : List LineLock := []
  gathers : List GatherWork := []
  packets : List Packet := []
  egress : List Egress := []
  inbox : List (Node × Msg) := []
  misses : List Miss := []
  dieCache : List (Nat × Xlat) := []
  upper : List (Nat × Upper) := []
  nextId : Nat := 1
  useClock : Nat := 1
  /-- the writes that each die has sent across the bridge, and those of them that the far homes have applied (R198) -/
  crossSent : Vector Nat 2 := Vector.replicate 2 0
  crossDone : Vector Nat 2 := Vector.replicate 2 0
  deriving DecidableEq, Repr

/-- A detected error that its store's code cannot correct, or a replay that failed four times (R57 to R59): the 64-byte quarter of a
memory line, a 32-byte unit of a slice line, a 64-bit word of an L1 line or of a tile slot, a register of a hart, the accumulator
element at which the matrix engine's replays of the running K-steps failed first. -/
inductive Flaw where
  | memory (pa : Nat)
  | slice (pa : Nat)
  | l1 (core pa : Nat)
  | slot (core id word : Nat)
  | x (hart : Nat) (r : BitVec 6)
  | v (hart : Nat) (r : BitVec 5) (word : Nat)
  | m (hart r word : Nat)
  /-- an entry of a data queue of a core: FIFO banks are banks of the tile store (R57, R155) -/
  | dataq (core q entry : Nat)
  /-- a corrected error that an access or a fill found in a memory line or slice line; one in a tile bank or an accumulator (R57) -/
  | corrected (pa : Nat) (multi : Bool)
  | correctedCore
  | replay (core row col : Nat)
  deriving DecidableEq, Repr

/-- What the schedule lets happen next: an event, a detected error, or one ck of issue at a core. -/
inductive Act where
  | event (i : Instr)
  | flaw (f : Flaw)
  | issue (core : Nat)
  deriving DecidableEq, Repr

/-- One entry of the schedule: how many ck pass, then the act. -/
structure Move where
  dt : Nat
  act : Act
  deriving DecidableEq, Repr

/-- The whole device. `cur` is the hart in focus, `schedule` says which agent moves next, `free` counts free values. -/
structure State where
  cur : Nat
  schedule : List Move
  ck : Nat
  ts : Nat
  tsFrac : Nat
  /-- the correction of the timestamp that is still to be made, whether it counts at half rate for it, and whether a nanosecond of the pair
  of which one counts has passed (R46) -/
  slew : Int
  halfRate : Bool
  slewOdd : Bool
  free : Nat
  blocks : List (Nat × Block)
  cores : List (Nat × Core)
  queues : List (Nat × HwQueue)
  pushes : List Push
  barMsgs : List BarReq
  carries : List Carry
  completions : List Carry
  streams : List Stream
  nextStream : Nat
  cp : Cp
  ms : MemSys
  fab : Fabric
  plat : Platform
  deriving DecidableEq, Repr

/-- Why a step stops with a fault. -/
inductive Fault where
  /-- Raised by the step of a device that has no schedule and whose boot has failed (R20, R33: BOOTSTAT.STATE 0xF is
  left only at a cold reset). Safe: the spec gives such a device nothing to do. -/
  | deviceFailed
  deriving DecidableEq, Repr

/-- Why an instruction has no meaning. -/
inductive Refusal where
  /-- Raised by an arm of `exec` whose instruction has no meaning yet. Safe. -/
  | notModelled (mnemonic : String)
  deriving DecidableEq, Repr

/-- What a step answers. -/
abbrev Out := Host.Outcome State Fault Refusal

namespace State

/-- The device right after cold reset: no context, block, launch or queue in service, every register at its reset
value, memory with nothing listed (R33, R80, R96, R153, R289; values the spec does not state: log entries 1 to 6). -/
def reset : State where
  cur := 0
  schedule := []
  ck := 0
  ts := 0
  tsFrac := 0
  slew := 0
  halfRate := false
  slewOdd := false
  free := 0
  blocks := []
  cores := []
  queues := []
  pushes := []
  barMsgs := []
  carries := []
  completions := []
  streams := []
  nextStream := 1
  cp := {}
  ms := {}
  fab := {}
  plat := {}

end State

end Sys2Proof.Machine
end

