-- ==== Sys2Proof/Machine/Memory.lean ====
section
/-! DEFINITION. Device memory as a canonical list of bytes, the apertures of the physical address space, and the home:
slices over HBM4E (spec 07 R150 to R152, R161, R162; spec 01 R21). -/

namespace Sys2Proof.Machine

/-! ## Bytes by address -/

/-- The byte at `a`; an unlisted address reads as `Config.unwrittenByte` (log entry 1). -/
def memGet : Memory → Nat → Byte
  | [], _ => Config.unwrittenByte
  | (k, b) :: t, a => if a = k then b else memGet t a

/-- Writes the byte at `a`, keeping addresses rising and listing no byte that an unlisted address reads as. -/
def memSet : Memory → Nat → Byte → Memory
  | [], a, b => if b = Config.unwrittenByte then [] else [(a, b)]
  | (k, c) :: t, a, b =>
    if a = k then (if b = Config.unwrittenByte then t else (a, b) :: t)
    else if a < k then (if b = Config.unwrittenByte then (k, c) :: t else (a, b) :: (k, c) :: t)
    else (k, c) :: memSet t a b

/-- Whether the addresses are all above `lo` and rise, and no byte listed is the unlisted value. -/
def memWfFrom : Nat → Memory → Bool
  | _, [] => true
  | lo, (k, b) :: t => lo ≤ k && b != Config.unwrittenByte && memWfFrom (k + 1) t

/-- The canonical form of memory. -/
def Memory.wf (m : Memory) : Bool := memWfFrom 0 m

/-- Writes bytes from `a` upwards. -/
def memSetBytes (m : Memory) (a : Nat) : List Byte → Memory
  | [] => m
  | b :: t => memSetBytes (memSet m a b) (a + 1) t

/-! ## Physical addresses (R150, R21) -/

/-- The apertures of R150: the address inside each. -/
inductive Aperture where
  | device (a : Nat) | scratch (stack off : Nat) | uncached (a : Nat) | peer (off : Nat) | host (a : Nat) | hole
  deriving DecidableEq, Repr

/-- The aperture of a physical address (R150). -/
def aperture (pa : Nat) : Aperture :=
  if pa < 0x00C000000000 then .device pa
  else if 0x010000000000 ≤ pa && pa < 0x010018000000 then
    .scratch ((pa - 0x010000000000) / 0x2000000) ((pa - 0x010000000000) % 0x2000000)
  else if 0x100000000000 ≤ pa && pa < 0x10C000000000 then .uncached (pa - 0x100000000000)
  else if 0x200000000000 ≤ pa && pa < 0x300000000000 then .peer (pa - 0x200000000000)
  else if 0x300000000000 ≤ pa && pa < 0x400000000000 then .host (pa - 0x300000000000)
  else .hole

/-- The stack that serves a physical address: the granule's stack in device memory (R21), the scratch window's own. -/
def stackOf (pa : Nat) : Nat :=
  match aperture pa with
  | .device a => (a / 8192) % 12
  | .scratch s _ => s
  | .uncached a => (a / 8192) % 12
  | _ => 0

/-- The address at which the home keeps a byte: the alias names the device address it reaches (R150). -/
def homeAddr (pa : Nat) : Nat :=
  match aperture pa with
  | .uncached a => a
  | _ => pa

/-- The offset in its stack of a device address (R21). -/
def stackOffset (a : Nat) : Nat := (a / 8192) / 12 * 8192 + a % 8192

/-- The first address of the 256-byte line of an address. -/
def lineOf (a : Nat) : Nat := a / 256 * 256

/-- Whether a physical address names something (R150, R151): scratch only as far as its converted ways reach. -/
def paExists (scrWays : Vector Nat 12) (pa : Nat) : Bool :=
  match aperture pa with
  | .device _ | .uncached _ | .peer _ | .host _ => true
  | .scratch s off => off < (scrWays[s]?.getD 0) * 0x200000
  | .hole => false

/-- How far the scratch ways of the stacks reach: while L2CFG changes them, as far as before or after, whichever is more, since accesses
to the bytes being changed wait (R163). -/
def Platform.scrReach (p : Platform) : Vector Nat 12 :=
  p.scrTarget.foldl (fun v e => v.setIfInBounds e.1 (max e.2 (v[e.1]?.getD 0))) p.scrWays

/-- Whether L2CFG is changing a byte of a stack's scratch (R163). -/
def Platform.scrHeld (p : Platform) (stack off : Nat) : Bool :=
  p.scrTarget.any fun e =>
    let n := p.scrWays[stack]?.getD 0
    e.1 == stack && min n e.2 ≤ off / 0x200000 && off / 0x200000 < max n e.2

/-- Device memory or scratch: what an L1 may hold (R150). -/
def cacheable (pa : Nat) : Bool :=
  match aperture pa with
  | .device _ | .scratch _ _ => true
  | _ => false

/-! ## The home of a byte (R161, R162) -/

namespace MemSys

/-- The slice line that holds an address. -/
def sliceLine (ms : MemSys) (a : Nat) : Option SliceLine := ms.slice.find? (fun l => l.line == lineOf a)

/-- The byte at its home: what the slice holds and HBM4E does not have yet, else HBM4E or scratch. -/
def homeByte (ms : MemSys) (a : Nat) : Byte :=
  match ms.sliceLine a with
  | some l => (aget l.bytes a).getD (memGet ms.mem a)
  | none => memGet ms.mem a

/-- `n` bytes at the home, little-endian (R4). -/
def homeRead (ms : MemSys) (a : Nat) : Nat → Nat
  | 0 => 0
  | n + 1 => (ms.homeByte a).toNat + 256 * homeRead ms (a + 1) n

/-- `n` bytes of HBM4E itself, which a read through the uncached alias may return (R152, R220). -/
def hbmRead (ms : MemSys) (a : Nat) : Nat → Nat
  | 0 => 0
  | n + 1 => (memGet ms.mem a).toNat + 256 * hbmRead ms (a + 1) n

/-- Writes one byte at its home: into the slice's line if it holds one. A write clears an uncorrectable byte (R58). -/
def homeSetByte (ms : MemSys) (a : Nat) (b : Byte) : MemSys :=
  let ms := { ms with bad := ms.bad.filter (· != a) }
  match ms.sliceLine a with
  | some l =>
    { ms with slice := mapIf (fun x => x.line == l.line) (fun x => { x with bytes := aset x.bytes a b }) ms.slice }
  | none => { ms with mem := memSet ms.mem a b }

/-- Writes the bytes of `data` whose mask bits are 1 (R12, R189 to R191). -/
def homeWriteMask (ms : MemSys) (a data mask : Nat) : Nat → MemSys
  | 0 => ms
  | n + 1 =>
    let ms := if mask % 2 = 1 then ms.homeSetByte a (BitVec.ofNat 8 data) else ms
    homeWriteMask ms (a + 1) (data / 256) (mask / 2) n

/-- Writes `n` bytes at their home. -/
def homeWrite (ms : MemSys) (a data n : Nat) : MemSys := ms.homeWriteMask a data (2 ^ n - 1) n

/-- HBM4E takes `n` bytes as the home has them: a later read of it finds no mix of values (R152). -/
def settle (ms : MemSys) (a : Nat) : Nat → MemSys
  | 0 => ms
  | n + 1 => settle { ms with mem := memSet ms.mem a (ms.homeByte a) } (a + 1) n

/-- A write of `n` bytes through the uncached alias: at the home, and with the rest of its aligned 8-byte words in HBM4E (R152). -/
def aliasWrite (ms : MemSys) (a data mask n : Nat) : MemSys :=
  (List.range ((a + n + 7) / 8 - a / 8)).foldl (fun ms i =>
    let w := 8 * (a / 8 + i)
    if (mask <<< (a % 8)) / 2 ^ (8 * i) % 256 = 0 then ms else ms.settle w 8) (ms.homeWriteMask a data mask n)

/-- Whether any of `n` bytes is uncorrectable (R58). -/
def anyBad (ms : MemSys) (a n : Nat) : Bool := ms.bad.any (fun x => a ≤ x && x < a + n)

/-- Writes a slice line's bytes back to HBM4E (R161). -/
def writeBackLine (ms : MemSys) (l : SliceLine) : MemSys :=
  { ms with mem := l.bytes.foldl (fun m e => memSet m e.1 e.2) ms.mem }

/-- Removes a slice line after its write-back. -/
def evictLine (ms : MemSys) (l : SliceLine) : MemSys :=
  let ms := ms.writeBackLine l
  { ms with slice := ms.slice.filter (fun x => x.line != l.line) }

/-- Allocates the line of a device address in its slice (R161): the lowest invalid cache way of the set, else the least
recently used one, whose line is written back. Ways below `scr` are scratch. -/
def sliceAlloc (ms : MemSys) (scr : Nat) (a : Nat) : MemSys :=
  let stack := stackOf a
  let set := stackOffset a / 256 % 8192
  let inSet := ms.slice.filter (fun l => l.stack == stack && stackOffset l.line / 256 % 8192 == set)
  let free := (List.range 16).find? (fun w => scr ≤ w && !inSet.any (fun l => l.way == w))
  let add := fun (ms : MemSys) (w : Nat) =>
    { ms with
      slice := { stack := stack, way := w, line := lineOf a, bytes := [], use := ms.useClock } :: ms.slice
      useClock := ms.useClock + 1 }
  if (ms.sliceLine a).isSome then ms
  else
    match free with
    | some w => add ms w
    | none =>
      match minBy (fun l => l.use) inSet with
      | some l => add (ms.evictLine l) l.way
      | none => ms

/-- Marks the line of an address most recently used. -/
def touch (ms : MemSys) (a : Nat) : MemSys :=
  { ms with
    slice := mapIf (fun l => l.line == lineOf a) (fun l => { l with use := ms.useClock }) ms.slice
    useClock := ms.useClock + 1 }

/-- The lock on the line of an address, if it has one (R184). -/
def lockOf (ms : MemSys) (a : Nat) : Option LineLock := ms.locks.find? (fun l => l.line == lineOf a)

end MemSys

end Sys2Proof.Machine
end

