-- ==== Sys2Proof/Machine/Ops.lean ====
section
/-! DEFINITION. The named operations that every meaning is written over: parts of the device by number, registers with
their hard-wired and bound forms, guards, moving past an instruction, event and trace records, the end of a block, taking
a trap and returning from one (spec 05, 10, 11; R2, R79, R82, R264 to R268, R284 to R287, R297). -/

namespace Sys2Proof.Machine

/-! ## Numbers (R2) -/

/-- The device-wide core of a device-wide hart. -/
def coreOf (h : Nat) : Nat := h / 8
/-- The device-wide cluster, 0 to 19, of a core. -/
def clusterOf (c : Nat) : Nat := c / 8
/-- The die of a core. -/
def dieOf (c : Nat) : Nat := c / 80

namespace State

/-- The block on hart `h`; an idle hart holds the default block, which is not placed. -/
def blkAt (s : State) (h : Nat) : Block := (aget s.blocks h).getD {}
def setBlkAt (s : State) (h : Nat) (b : Block) : State := { s with blocks := aset s.blocks h b }
/-- Changes the block on hart `h`, if there is one. -/
def updBlkAt (s : State) (h : Nat) (f : Block → Block) : State :=
  match aget s.blocks h with
  | some b => s.setBlkAt h (f b)
  | none => s

/-- The block in focus. -/
def blk (s : State) : Block := s.blkAt s.cur
def setBlk (s : State) (b : Block) : State := s.setBlkAt s.cur b
def updBlk (s : State) (f : Block → Block) : State := s.setBlk (f s.blk)

def core (s : State) (c : Nat) : Core := (aget s.cores c).getD {}
def setCore (s : State) (c : Nat) (x : Core) : State := { s with cores := aset s.cores c x }
def updCore (s : State) (c : Nat) (f : Core → Core) : State := s.setCore c (f (s.core c))

/-- The core of the hart in focus. -/
def myCore (s : State) : Nat := coreOf s.cur

def setMs (s : State) (f : MemSys → MemSys) : State := { s with ms := f s.ms }
def setCp (s : State) (f : Cp → Cp) : State := { s with cp := f s.cp }
def setPlat (s : State) (f : Platform → Platform) : State := { s with plat := f s.plat }

/-- The hardware queue `q` of a cluster. -/
def hwq (s : State) (cluster q : Nat) : HwQueue := (aget s.queues (cluster * 64 + q)).getD {}
def setHwq (s : State) (cluster q : Nat) (x : HwQueue) : State :=
  { s with queues := aset s.queues (cluster * 64 + q) x }

def queue (s : State) (q : Nat) : Queue := (aget s.cp.queues q).getD {}
def setQueue (s : State) (q : Nat) (x : Queue) : State := s.setCp fun cp => { cp with queues := aset cp.queues q x }
def updQueue (s : State) (q : Nat) (f : Queue → Queue) : State := s.setQueue q (f (s.queue q))

def context (s : State) (n : Nat) : Option Context := aget s.cp.contexts n
def setContext (s : State) (n : Nat) (x : Context) : State :=
  s.setCp fun cp => { cp with contexts := aset cp.contexts n x }

def launchOf (s : State) (id : Nat) : Option Launch := s.cp.launches.find? (fun l => l.id == id)
def updLaunch (s : State) (id : Nat) (f : Launch → Launch) : State :=
  s.setCp fun cp => { cp with launches := mapIf (fun l => l.id == id) f cp.launches }

def gangOf (s : State) (id : Nat) : Option Gang := s.cp.gangs.find? (fun g => g.id == id)
def updGang (s : State) (id : Nat) (f : Gang → Gang) : State :=
  s.setCp fun cp => { cp with gangs := mapIf (fun g => g.id == id) f cp.gangs }

/-- A fresh number for a request, and the state that has used it. -/
def fresh (s : State) : Nat × State := (s.ms.nextId, s.setMs fun m => { m with nextId := m.nextId + 1 })

/-- A free value and the state that has used it (log entry 4). -/
def freeWord (s : State) : Word × State := (Config.freeValue s.free, { s with free := s.free + 1 })

end State

/-! ## Registers (R286, R287) -/

namespace Block

/-- X[r]; X0 reads 0. -/
def getX (b : Block) (r : BitVec 6) : Word := if r = 0 then 0 else b.x[r.toNat]'(r.isLt)
/-- Writes X[r]; a write to X0 is discarded. A write ends a parity error of the register (R58). -/
def setX (b : Block) (r : BitVec 6) (v : Word) : Block :=
  if r = 0 then b else { b with x := b.x.set r.toNat v r.isLt, flawX := b.flawX &&& ~~~(1#64 <<< r.toNat) }

/-- P[n]; P7 reads 1. -/
def getP (b : Block) (n : Nat) : Bool := n == 7 || b.p.getLsbD n
/-- Writes P[n]; a write to P7 is discarded. -/
def setP (b : Block) (n : Nat) (v : Bool) : Block :=
  if 7 ≤ n then b else { b with p := (b.p &&& ~~~(1#8 <<< n)) ||| ((BitVec.ofBool v).setWidth 8 <<< n) }

def getV (b : Block) (r : BitVec 5) : BitVec 8192 := b.v[r.toNat]'(r.isLt)
def setV (b : Block) (r : BitVec 5) (v : BitVec 8192) : Block := { b with v := b.v.set r.toNat v r.isLt }

/-- M[n] for n below 12. -/
def getM (b : Block) (n : Nat) : BitVec 1024 := b.m[n]?.getD 0
def setM (b : Block) (n : Nat) (v : BitVec 1024) : Block := { b with m := b.m.setIfInBounds n v }

def getD (b : Block) (n : Nat) : BitVec 128 := b.d[n]?.getD 0
def setD (b : Block) (n : Nat) (v : BitVec 128) : Block := { b with d := b.d.setIfInBounds n v }

/-- The lanes granted (R290). -/
def lanes (b : Block) : Nat := 16 * b.groups.length

/-- The data queue that register `r` is bound to (R287, R445). -/
def boundTo (b : Block) (r : BitVec 6) : Option Nat :=
  if 60 ≤ r.toNat then (b.fifo[r.toNat - 60]?).join else none

/-- The place of register `r` among those of a list that pop its data queue: each register pops once however often it is named, in the
order of the fields (R287). -/
def popIdx (b : Block) (l : List (BitVec 6)) (r : BitVec 6) : Nat :=
  ((l.eraseDups.takeWhile (· != r)).filter fun x => b.boundTo x == b.boundTo r).length

/-! ### Parity errors of V and M registers, by 64-bit word (R57, R58) -/

/-- Whether element `e` of V[r] at width `w` lies in a word that holds one. -/
def badV (b : Block) (r : BitVec 5) (w e : Nat) : Bool := (b.flawV[r.toNat]'(r.isLt)).getLsbD (e * w / 64)
/-- Whether bit `e` of M[n] lies in a word that holds one. -/
def badM (b : Block) (n e : Nat) : Bool := (b.flawM[n]?.getD 0).getLsbD (e / 64)
/-- Whether no V or M register holds one. -/
def sound (b : Block) : Bool := b.flawV.toList.all (· == 0) && b.flawM.toList.all (· == 0)

/-- The words, of `n` with `k` elements each, of which every element has a property. -/
def wholeWords (n k : Nat) (p : Nat → Bool) : Nat :=
  (List.range n).foldl (fun m i => if (List.range k).all (fun j => p (k * i + j)) then m + 2 ^ i else m) 0

/-- Elements `p` of V[r] at width `w` have been written: a write that covers a whole word clears its error (R58). -/
def cleanV (b : Block) (r : BitVec 5) (w : Nat) (p : Nat → Bool) : Block :=
  if b.flawV[r.toNat]'(r.isLt) = 0 then b
  else { b with flawV := b.flawV.set r.toNat ((b.flawV[r.toNat]'(r.isLt)) &&& ~~~(BitVec.ofNat 128 (wholeWords 128 (64 / w) p))) r.isLt }
/-- Bits `p` of M[n] have been written. -/
def cleanM (b : Block) (n : Nat) (p : Nat → Bool) : Block :=
  if b.flawM[n]?.getD 0 = 0 then b
  else { b with flawM := b.flawM.setIfInBounds n ((b.flawM[n]?.getD 0) &&& ~~~(BitVec.ofNat 16 (wholeWords 16 64 p))) }

end Block

namespace State

/-- The data queue `q` of the hart's core. -/
def dataq (s : State) (q : Nat) : DataQ := (aget (s.core s.myCore).dataq q).getD {}
def setDataq (s : State) (q : Nat) (x : DataQ) : State :=
  s.updCore s.myCore fun c => { c with dataq := aset c.dataq q x }

/-- X[r] as a source: a bound register gives the entry of its data queue that it pops (R287). -/
def getX (s : State) (r : BitVec 6) : Word :=
  match s.blk.boundTo r with
  | some q => (s.dataq q).entries.getD (s.blk.popIdx s.blk.pops r) 0
  | none => s.blk.getX r

/-- Writes a result to X[r]: a bound register pushes it onto its data queue (R287). -/
def writeX (s : State) (r : BitVec 6) (v : Word) : State :=
  match s.blk.boundTo r with
  | some q => s.setDataq q { s.dataq q with entries := (s.dataq q).entries ++ [v] }
  | none => s.updBlk fun b => b.setX r v

/-- Notes whether the instruction has a literal and the bound registers that it pops as it completes, each once however often it
is named (R287). -/
def beginOp (s : State) (srcs : List (BitVec 6)) (lit : Option Word) : State :=
  s.updBlk fun b => { b with pops := (srcs.filter fun r => (b.boundTo r).isSome).eraseDups, pcLit := lit.isSome }

/-- Pops the queues of the registers noted (R287). -/
def doPops (s : State) : State :=
  s.blk.pops.foldl (fun (s : State) r => match s.blk.boundTo r with
    | some q => s.setDataq q { s.dataq q with entries := (s.dataq q).entries.tail, bad := (s.dataq q).bad.tail }
    | none => s) s

/-- Results of loads, AMOs and probes under way that will be pushed onto the queue that `r` is bound to. -/
def pushesDue (s : State) (r : BitVec 6) : Nat :=
  let mine := fun (r' : BitVec 6) => s.blk.boundTo r' == s.blk.boundTo r
  (s.blk.pend.filter fun p => match p.dest with
    | .x r' _ _ => mine r'
    | _ => false).length + (s.blk.trecs.filter fun t => match t.xdst with
    | some r' => mine r'
    | none => false).length

/-- Whether X[r] waits for the value of an older load, AMO or TPROBE; X0 carries no pending write (R116, R428). -/
def xPending (s : State) (r : BitVec 6) : Bool :=
  r != 0 && (s.blk.pend.any (fun p => match p.dest with
    | .x r' _ _ => r' == r
    | _ => false) || s.blk.trecs.any fun t => t.xdst == some r)

/-- Whether the registers an instruction names can serve it: no pending write (R116, R197), a bound source holds an entry, a
bound destination has room after the pops (R287). -/
def regsReady (s : State) (srcs : List (BitVec 6)) (dst : Option (BitVec 6)) : Bool :=
  srcs.all (fun r => match s.blk.boundTo r with
    | some q => s.blk.popIdx srcs r < (s.dataq q).entries.length
    | none => !s.xPending r) &&
  (match dst with
    | some r =>
      match s.blk.boundTo r with
      | some q => (s.dataq q).entries.length + s.pushesDue r <
          1024 + (srcs.eraseDups.filter fun r => s.blk.boundTo r == some q).length
      | none => !s.xPending r
    | none => true)

def writeP (s : State) (n : Nat) (v : Bool) : State := s.updBlk fun b => b.setP n v

end State

/-! ## Guards and moving on (R296, R297) -/

/-- The bytes an instruction takes (R296). -/
def sizeOf (lit : Option Word) : Nat := if lit.isSome then 16 else 8

/-- The value of a guard: bits 2..0 name a predicate, bit 3 negates it (R297). -/
def Block.guard (b : Block) (gm : BitVec 4) : Bool := b.getP (gm.toNat % 8) != gm.getLsbD 3

namespace State

/-- The block after the instruction at its PC completes: the PC passes it and its literal, ESTART returns to 0 (R269). A
repetition under REP counts X[a] down, and the PC stays at the REP until it reaches 0 (R298). -/
def nextBlock (lit : Option Word) (b : Block) : Block :=
  let n := BitVec.ofNat 64 (sizeOf lit)
  let b := { b with estart := 0, sentTo := 0, words := [], xbuf := [], wait := none, rel := .none, pops := [], skipWatch := [], skipBp := false }
  match b.rep with
  | none => { b with pc := b.pc + n }
  | some (a, _, _) =>
    let v := b.getX a - 1
    let b := b.setX a v
    if v = 0 then { b with pc := b.pc + 8 + n, rep := none } else b

/-- The instruction at the PC completes. -/
def advance (s : State) (lit : Option Word) : State := s.doPops.updBlk (nextBlock lit)

/-- The instruction completes by a transfer of control to `target`. -/
def jumpTo (s : State) (target : Word) : State :=
  s.doPops.updBlk fun b =>
    { b with pc := target, estart := 0, sentTo := 0, words := [], xbuf := [], wait := none, rel := .none, pops := [], skipWatch := []
             skipBp := false }

/-- An instruction that waited completes. -/
def finishOp (s : State) : State := s.advance (if s.blk.pcLit then some 0 else none)

/-- The instruction at the PC stays there and waits. -/
def waitFor (s : State) (w : Wait) : State := s.updBlk fun b => { b with wait := some w }

/-- The instruction has read its registers, pops the queues that it names (R287), and waits at its PC. -/
def issueWait (s : State) (w : Wait) : State := s.doPops.updBlk fun b => { b with pops := [], wait := some w }

/-- Moves the focus to hart `h`. -/
def focus (s : State) (h : Nat) : State := { s with cur := h }

/-- Does `f` with hart `h` in focus. -/
def onHart (s : State) (h : Nat) (f : State → State) : State := (f (s.focus h)).focus s.cur

end State

/-! ## Trap causes as codes (R263, R82) -/

def Cause.code : Cause → Nat
  | .illop => 0x01 | .priv => 0x02 | .align => 0x03 | .xlate => 0x04 | .perm => 0x05 | .format => 0x06
  | .shape => 0x07 | .layout => 0x08 | .token => 0x09 | .tilestate => 0x0A | .lanes => 0x0B | .sparsemeta => 0x0C
  | .fpexc => 0x0D | .uncorr => 0x0E | .qdeadlock => 0x0F | .barrier => 0x10 | .carry => 0x11 | .stack => 0x12
  | .softtrap => 0x13 | .breakc => 0x14 | .watch => 0x15 | .translate => 0x16 | .preempt => 0x17

def Access.code : Access → Nat
  | .none => 0 | .fetch => 1 | .load => 2 | .store => 3 | .atomic => 4 | .copyIn => 5 | .copyOut => 6 | .gather => 7
  | .scatter => 8

/-- TCAUSE as a trap writes it (R264). -/
def FaultRec.tcause (r : FaultRec) (lit : Bool) : Word :=
  BitVec.ofNat 64 (r.cause.code + (if lit then 1 else 0) <<< 36 + r.access.code <<< 37 +
    (match r.tile with | some t => 1 <<< 41 + (t % 64) <<< 42 | none => 0))

/-- TINFO as a trap writes it (R264). -/
def FaultRec.tinfo (r : FaultRec) : Word :=
  BitVec.ofNat 64 (r.detail % 2 ^ 40 + (r.col % 4096) <<< 40 + (r.row % 4096) <<< 52)

/-! ## Writes by the command processor and the trace unit (R70, R82, R285) -/

/-- How often the host's translation of a PASID's page has been invalidated (R37). -/
def MemSys.atsAge (ms : MemSys) (p page : Nat) : Nat :=
  (aget ms.atsAll p).getD 0 + ((ms.atsPages.find? fun e => e.1 == (p, page)).map (·.2)).getD 0

/-- The host address that a PASID's page reaches, as the host last answered (R37). -/
def MemSys.hostXlat (ms : MemSys) (pasid : Option Nat) (a : Nat) : Option Nat :=
  match pasid with
  | none => some a
  | some p => (Config.atsTranslate p (a / 4096) (ms.atsAge p (a / 4096))).map fun h => h * 4096 + a % 4096

/-- A SYSTEM-scope write of bytes at a physical address in device or host memory. -/
def MemSys.sysWrite (ms : MemSys) (pasid : Option Nat) (pa : Nat) : List Byte → MemSys
  | [] => ms
  | b :: t =>
    let ms := match aperture pa with
      | .device a => ms.homeSetByte a b
      | .scratch _ _ => { ms with mem := memSet ms.mem pa b }
      | .uncached a => ms.aliasWrite a b.toNat 1 1
      | .host a => match ms.hostXlat pasid a with
        | some h => { ms with hostMem := memSet ms.hostMem h b }
        | none => ms
      | _ => ms
    sysWrite ms pasid (pa + 1) t

/-- A SYSTEM-scope read of `n` bytes; none where nothing answers. -/
def MemSys.sysRead (ms : MemSys) (pasid : Option Nat) (pa : Nat) : Nat → Option (List Byte)
  | 0 => some []
  | n + 1 =>
    let b := match aperture pa with
      | .device a | .uncached a => some (ms.homeByte a)
      | .scratch _ _ => some (memGet ms.mem pa)
      | .host a => (ms.hostXlat pasid a).map (memGet ms.hostMem)
      | _ => none
    b.bind fun b => (sysRead ms pasid (pa + 1) n).map (b :: ·)

/-- Words as bytes, least significant first. -/
def wordBytes (ws : List Word) : List Byte := ws.flatMap fun w => leBytes 8 w.toNat

namespace State

/-- The PASID of a queue's context; a management queue has none (R67, R475). -/
def queuePasid (s : State) (q : Queue) : Option Nat :=
  if q.ctx = 0 then none else (s.context q.ctx).map (·.pasid)

/-- Whether the event ring is full (R83). -/
def ringFull (q : Queue) : Bool := (q.evTail + 1) % 2 ^ q.evlog2 == q.evHead

/-- The index of a function's table entry: the PF's 2,048 vectors, then 64 of each VF (R30, R31). -/
def msixIndex (vf v : Nat) : Nat := if vf = 0 then v else 2048 + 64 * (vf - 1) + v

/-- A table entry: masked until software writes it (PRESUMED from PCI Express, log entry 86). -/
def msixEntry (s : State) (i : Nat) : BitVec 128 := (aget s.cp.msixTab i).getD (1#128 <<< 96)

/-- Raises a vector of a function: its message leaves, or, while the entry is masked, its pending bit is set (R82). -/
def raiseMsix (s : State) (vf v : Nat) : State :=
  s.setCp fun cp =>
    if (s.msixEntry (msixIndex vf v)).getLsbD 96 then
      (if cp.msixPend.contains (vf, v) then cp else { cp with msixPend := cp.msixPend ++ [(vf, v)] })
    else { cp with msix := cp.msix ++ [(vf, v)] }

/-- Where a record stands among those that wait: TIME, then SOURCE (R3). -/
def recKey (r : List Word) : Nat := (r.headD 0).toNat * 2 ^ 24 + ((r[1]?).getD 0).toNat / 2 ^ 40

/-- A record joins those that wait, in order. -/
def insertRec (r : List Word) : List (List Word) → List (List Word)
  | [] => [r]
  | x :: t => if recKey r < recKey x then r :: x :: t else x :: insertRec r t

/-- Whether a record's moment has passed, so that none that belongs before it can still come (R3; log entry 88). -/
def recDue (s : State) (r : List Word) : Bool := (r.headD 0).toNat < s.ts

/-- Writes the first waiting event record of a queue, if it is due and the ring has room, advances EVTAIL and raises the vector
(R82). A record for a host ring whose translation is refused is lost, and EVTAIL advances (log entry 95). -/
def writeRecord (s : State) (n : Nat) : State :=
  let q := s.queue n
  match q.records with
  | [] => s
  | r :: t =>
    if ringFull q || !s.recDue r then s
    else
      let s := s.setMs fun m => m.sysWrite (s.queuePasid q) (q.qevbase.toNat + 64 * q.evTail) (wordBytes r)
      let s := s.setQueue n { q with records := t, evTail := (q.evTail + 1) % 2 ^ q.evlog2 }
      if q.msien then s.raiseMsix q.vf q.msixv else s

/-- Writes up to `k` waiting records. -/
def flushRecords (s : State) (n : Nat) : Nat → State
  | 0 => s
  | k + 1 => flushRecords (s.writeRecord n) n k

/-- Whether a record is a notice: KIND 3 to 6 (R83). -/
def isNotice (r : List Word) : Bool := 3 ≤ ((r[1]?).getD 0).toNat / 2 ^ 32 % 256

/-- Writes what is due of a queue's records; a full ring drops the notices among them and sets EVLOST, the others wait (R83). -/
def flushQueue (s : State) (n : Nat) : State :=
  let s := s.flushRecords n (s.queue n).records.length
  let q := s.queue n
  let lost := fun (r : List Word) => isNotice r && s.recDue r
  if q.records.any lost then s.setQueue n { q with evlost := true, records := q.records.filter fun r => !lost r } else s

/-- Posts a record: it is written once its moment has passed (R3, R82, R83). -/
def postRecord (s : State) (n : Nat) (r : List Word) : State := s.updQueue n fun q => { q with records := insertRec r q.records }

/-- Posts a notice to every enabled queue with VF = 0 (R83). -/
def postNotice (s : State) (r : Nat → List Word) : State :=
  s.cp.queues.foldl (fun (s : State) (e : Nat × Queue) =>
    if (s.queue e.1).enable && (s.queue e.1).vf == 0 then s.postRecord e.1 (r e.1) else s) s

/-- The source number of a unit (R3, R35). -/
def source (s : State) (unit : Nat) : Nat := s.plat.rank % 65536 * 256 + unit

/-- Word 1 of an event record (R82). -/
def recWord1 (s : State) (unit kind status q : Nat) : Word :=
  BitVec.ofNat 64 (s.source unit <<< 40 + kind <<< 32 + status <<< 24 + q <<< 14)

/-- A notice record: KIND and word 4 (R82). -/
def noticeRec (s : State) (unit kind word4 q : Nat) : List Word :=
  [BitVec.ofNat 64 s.ts, s.recWord1 unit kind 0 q, 0, 0, BitVec.ofNat 64 word4, 0, 0, 0]

/-- Writes a trace record of a kind on a core, if the kind is enabled and the ring has room (R284, R285). -/
def trace (s : State) (c kind : Nat) (hart : Nat) (pc value : Word) : State :=
  let x := s.core c
  if x.trcLog2 = 0 || x.trcKinds.testBit (kind - 1) = false then s
  else if !x.trcWrap && 2 ^ x.trcLog2 ≤ x.trcHead then s.setCore c { x with trcLost := min (x.trcLost + 1) 1023 }
  else
    let at_ := x.trcBase.toNat + 32 * (x.trcHead % 2 ^ x.trcLog2)
    let r : List Word := [BitVec.ofNat 64 s.ts, BitVec.ofNat 64 (s.source c <<< 40 + kind <<< 32 + hart <<< 21), pc, value]
    (s.setMs fun m => m.sysWrite none at_ (wordBytes r)).setCore c { x with trcHead := (x.trcHead + 1) % 2 ^ 32 }

end State

/-! ## The end of a block (R99, R347 step 5) -/

/-- The hart number that stands for a member of a gang that is away from its hart: suspended, or saved by a pre-emption. -/
def awayHart : Nat := 99999

/-- Frees what a hart holds on its core: slots, data queue bindings and contents, its place among lane claims. -/
def Core.releaseHart (c : Core) (h : Nat) : Core :=
  { c with
    slots := c.slots.filter (fun x => x.owner != h)
    dataq := c.dataq.map (fun e => if e.2.bound == some h || e.2.owner == some h then (e.1, {}) else e)
    claims := c.claims.filter (· != h)
    bankWait := c.bankWait.filter fun x => x.2 != h
    current := if c.current == some h then none else c.current
    last := c.last }

namespace State

/-- The linear index of a launch's gang (R95). -/
def gangIndex (s : State) (b : Block) : Nat :=
  match s.launchOf b.launch with
  | some l => b.gx + l.gx * (b.gy + l.gy * b.gz)
  | none => 0

/-- Whether a core holds a placed block other than that of hart `h`. -/
def coreBusy (s : State) (c h : Nat) : Bool := s.blocks.any (fun (e : Nat × Block) => e.1 != h && coreOf e.1 == c && e.2.placed)

/-- Ends what belongs to gangs that are neither placed nor saved: streams and barrier messages. -/
def dropGangless (s : State) : State :=
  let lives := fun (id : Nat) => s.cp.gangs.any (fun g => g.id == id) || s.cp.saved.any fun g => g.gang.id == id
  { s with streams := s.streams.filter fun x => lives x.gang, barMsgs := s.barMsgs.filter fun x => lives x.gang }

/-- What hart `h` waits for at the hardware queues of its cluster is abandoned: a push has pushed nothing (R79, R270). -/
def leaveQueues (s : State) (h : Nat) : State :=
  { s with
    queues := s.queues.map fun (e : Nat × HwQueue) =>
      (e.1, { e.2 with waitPush := e.2.waitPush.filter (fun p => p.1 != h), waitPop := e.2.waitPop.filter (· != h) })
    pushes := s.pushes.filter (fun p => p.hart != h) }

/-- The block on hart `h` leaves: everything it holds is freed. One that is only away, suspended or saved, keeps its stack area and its
place in its gang; one that ends gives them up (R99, R118, R119). -/
def removeBlock (s : State) (h : Nat) (away : Bool) : State :=
  let b := s.blkAt h
  let c := coreOf h
  let s := s.updCore c fun x =>
    let x := x.releaseHart h
    if s.coreBusy c h then x else { x with last := none }
  let s := { s with blocks := adel s.blocks h }.leaveQueues h
  let s := s.setMs fun m => { m with misses := m.misses.map fun (x : Miss) => { x with waiters := x.waiters.filter fun w => w != h && w != 2000 + h } }
  let s := if away then s else s.updLaunch b.launch fun l =>
    { l with
      live := l.live.set b.stage ((l.live[b.stage]?.getD 0) - 1)
      areasUsed := l.areasUsed.filter (fun a => l.stackBase + a * l.areaBytes != b.stackBase.toNat) }
  let s := s.updGang b.gang fun g =>
    { g with members := g.members.map (fun m => if m == some h then (if away then some awayHart else none) else m) }
  (s.setCp fun cp =>
    { cp with
      gangs := cp.gangs.filter (fun g => g.members.any (·.isSome)), victims := cp.victims.filter fun v => v.hart != h }).dropGangless

/-- The FAULT record of a block's trap on hart `h`, found by a unit (R82, R474). -/
def faultWords (s : State) (unit : Nat) (b : Block) (h : Nat) (r : FaultRec) (status q : Nat) (cmd : List Word × Nat) : List Word :=
  let tile := r.tile.getD 0
  [BitVec.ofNat 64 s.ts, s.recWord1 unit 2 status q,
   BitVec.ofNat 64 (((cmd.1[0]?.getD 0).toNat % 2 ^ 32) <<< 32 + cmd.2), b.pc, BitVec.ofNat 64 r.estart, r.va,
   BitVec.ofNat 64 (r.cause.code <<< 56 + r.access.code <<< 52 + tile <<< 46 + (r.row % 4096) <<< 34 +
     (r.col % 4096) <<< 22),
   BitVec.ofNat 64 (s.gangIndex b % 2 ^ 32 <<< 32 + b.gangPos <<< 29 + b.stage <<< 26 + h <<< 15)]

/-- The waits of R270, in which a block stops; any other instruction that waits completes first. -/
def stopsInWait : Option Wait → Bool
  | some (.patch _) | some (.measure _) | some (.bank _ _) | some (.l2cfg _) | some (.inval _) | some .cinit | some .peer
  | some .frameAmo | some (.barInit _) => false
  | _ => true

/-- The halt of an aborted launch reaches the block on hart `h`: it issues nothing more, and a wait is abandoned where it stands; an
instruction already issued completes (R79 step 2). -/
def haltBlock (s : State) (h : Nat) : State :=
  if stopsInWait (s.blkAt h).wait then
    ((s.leaveQueues h).updCore (coreOf h) fun c =>
      { c with claims := c.claims.filter (· != h), bankWait := c.bankWait.filter fun x => x.2 != h }).updBlkAt h fun b =>
        { b with dying := true, stop := 3, wait := none }
  else s.updBlkAt h fun b => { b with dying := true, stop := 3 }

/-- A launch is aborted: nothing more of it is placed or restored, and its blocks are to halt (R79 steps 1 and 2). -/
def dropLaunch (s : State) (id : Nat) : State :=
  let s := { s with blocks := s.blocks.map fun (e : Nat × Block) => (e.1, if e.2.launch == id && e.2.placed then { e.2 with dying := true } else e.2) }
  let gone := fun (c : Carry) => c.launch != id
  let s := { s with carries := s.carries.filter gone, completions := s.completions.filter gone }
  let mine := fun (h : Nat) => (s.blkAt h).launch == id
  (s.setCp fun cp =>
    { cp with
      children := cp.children.filter (fun c => c.launch != id)
      suspended := cp.suspended.filter (fun x => x.blk.launch != id)
      resumes := cp.resumes.filter (fun r => r.launch != id)
      victims := cp.victims.filter fun v => !mine v.hart
      gangs := cp.gangs.filter (fun g => g.launch != id || g.members.any (fun m => m.isSome && m != some awayHart))
      poolUsed := cp.poolUsed.filter fun p => !cp.saved.any fun g => g.gang.launch == id && g.images.contains (some p.1)
      saved := cp.saved.filter (fun g => g.gang.launch != id) }).dropGangless

/-- Aborts a launch for a failure of one of its blocks that a unit found (R79): the FAULT record is posted, the first one's or another's
that failed before its halt. -/
def abortFor (s : State) (l : Launch) (unit : Nat) (b : Block) (h : Nat) (r : FaultRec) (status : Nat) : State :=
  let q := s.queue l.queue
  let s := s.postRecord l.queue (s.faultWords unit b h r status l.queue (q.cmd.getD ([], 0)))
  (s.updLaunch l.id fun l => { l with aborted := true }).dropLaunch l.id

/-- A failure of the block on hart `h`, found by a unit, aborts its launch; a block that has halted fails no more (R79). -/
def abortBlock (s : State) (unit h : Nat) (r : FaultRec) (status : Nat) : State :=
  let b := s.blkAt h
  match s.launchOf b.launch with
  | none => s.removeBlock h false
  | some l => if 3 ≤ b.stop then s.updBlkAt h fun b => { b with wait := none } else (s.abortFor l unit b h r status).haltBlock h

/-- An unhandled or escalated trap aborts the launch of the block on hart `h` (R79). -/
def abortLaunch (s : State) (h : Nat) (r : FaultRec) (status : Nat) : State := s.abortBlock (coreOf h) h r status

/-- The unit number of a management core of a die (R35); which of the two serves is the model's choice (log entry 12). -/
def mgmtUnit (die : Nat) : Nat := 0xB2 + 2 * die

/-- A management core aborts the launch of the block on hart `h` with cause TRANSLATE (R91, R343). Its trap is recorded in the core's trace as
any other (R285). -/
def mgmtAbort (s : State) (h detail status : Nat) : State :=
  let r : FaultRec := { cause := .translate, detail := detail % 2 ^ 40 }
  (s.trace (coreOf h) 2 h (s.blkAt h).pc (r.tcause false)).abortBlock (mgmtUnit (dieOf (coreOf h))) h r status

end State

/-! ## Taking a trap (R265) and returning from one (R268) -/

/-- Whether a trap of this cause is escalated (R265 step 1). -/
def Block.escalates (b : Block) (c : Cause) : Bool :=
  b.level == .s || !b.ctl.tvec.getLsbD 0 || !b.ctl.tdeleg.getLsbD c.code || c == .uncorr || c == .preempt

/-- The block after its trap entered the handler (R265 step 2). -/
def Block.enterHandler (b : Block) (r : FaultRec) (lit : Bool) : Block :=
  { b with
    ctl := { b.ctl with
      tepc := b.pc, testart := BitVec.ofNat 64 r.estart, tcause := r.tcause lit, tinfo := r.tinfo, tva := r.va }
    estart := 0
    level := .s
    pc := b.ctl.tvec &&& ~~~7
    rep := none
    sentTo := 0
    words := []
    wait := none
    xbuf := []
    rel := .none
    pops := []
    watched := some (b.pc, (if r.cause = .watch then [(r.estart, r.detail)] else []) ++ b.skipWatch)
    skipWatch := []
    skipBp := false }

namespace State

/-- The trap `r` is raised by the instruction at the PC of the hart in focus, whose bit L is `lit`: it enters the handler
or, escalated, aborts the launch (R265). In a repetition the word at TEPC is the REP, whose L is 0 (R298; log entry 16). -/
def takeTrap (s : State) (r : FaultRec) (lit : Bool) : State :=
  let b := s.blk
  let lit := lit && b.rep.isNone
  let s := s.trace s.myCore 2 s.cur b.pc (r.tcause lit)
  if b.escalates r.cause then s.abortLaunch s.cur r 8 else s.setBlk (b.enterHandler r lit)

/-- Raises a cause with no further data. -/
def raise (s : State) (c : Cause) (lit : Option Word) : State := s.takeTrap { cause := c } lit.isSome

/-- Raises a cause with a DETAIL value (R263). -/
def raiseD (s : State) (c : Cause) (detail : Nat) (lit : Option Word) : State :=
  s.takeTrap { cause := c, detail := detail } lit.isSome

/-- Raises an address cause: access kind, element, virtual address (R411, R214). -/
def raiseA (s : State) (c : Cause) (acc : Access) (va : Nat) (estart : Nat) (lit : Option Word) : State :=
  s.takeTrap { cause := c, access := acc, va := BitVec.ofNat 64 va, estart := estart } lit.isSome

/-- ERET without a parked tile instruction: back to K level at TEPC with ESTART from TESTART (R268). A watch register that stopped the
instruction there does not match again (R281). -/
def eretBlock (b : Block) : Block :=
  { b with
    level := .k, pc := b.ctl.tepc, estart := b.ctl.testart, wait := none, xbuf := [], rel := .none, skipBp := true, watched := none
    skipWatch := match b.watched with
      | some (pc, l) => if pc = b.ctl.tepc then l else []
      | none => [] }

end State

/-- Whether one of the X registers that an instruction reads, or the entry that a bound one pops, is uncorrectable (R57, R58). -/
def State.flawedX (s : State) (xs : List (BitVec 6)) : Bool :=
  xs.any fun r => match s.blk.boundTo r with
    | some q => (s.dataq q).bad.getD (s.blk.popIdx xs r) false
    | none => s.blk.flawX.getLsbD r.toNat

/-- Whether a block, after an instruction that began at `a`, has met a cause that comes before UNCORR, or waits to issue: it trapped,
halted or must try again (R266). -/
def Block.turned (a b : Block) : Bool :=
  b.level != a.level || b.stop != a.stop || (a.placed && !b.placed) || (b.ctl.haltstat.getLsbD 0 && !a.ctl.haltstat.getLsbD 0) ||
    b.wait == some .retry || b.wait == some .walk

/-- The common frame of a guarded instruction: a false guard only moves on (R297); a register that cannot serve it makes the hart wait;
else `body` runs, and bound sources are popped as it completes. Where `body` meets no other cause, a source that holds uncorrectable data
raises UNCORR, and nothing is performed (R58, R266). -/
def guarded (gm : BitVec 4) (lit : Option Word) (srcs : List (BitVec 6)) (dst : Option (BitVec 6))
    (body : State → State) (s : State) : Out :=
  if s.blk.guard gm then
    if !s.regsReady srcs dst then .next (s.waitFor .retry)
    else
      let t := body (s.beginOp srcs lit)
      .next (if s.flawedX srcs && !Block.turned s.blk t.blk then s.raise .uncorr lit else t)
  else .next (s.advance lit)

/-- A privileged instruction: at K level it raises PRIV, after the guard (R316, R260). -/
def privileged (gm : BitVec 4) (lit : Option Word) (srcs : List (BitVec 6)) (dst : Option (BitVec 6))
    (body : State → State) (s : State) : Out :=
  if s.blk.guard gm && s.blk.level == .k then .next (s.raise .priv lit) else guarded gm lit srcs dst body s

end Sys2Proof.Machine
end

