-- ==== Sys2Proof/Machine/Flags.lean ====
section
/-! DEFINITION. The floating-point flags and FCTL (spec 09 R237, R238). A set of flags is six bits in FCTL's order:
SO, NV, DZ, OF, UF, NX from bit 5 down. -/

namespace Sys2Proof.Machine

/-- Six sticky flags in the order of FCTL bits 23..18. -/
abbrev Flags := BitVec 6

def flagNX : Flags := 0b000001
def flagUF : Flags := 0b000010
def flagOF : Flags := 0b000100
def flagDZ : Flags := 0b001000
def flagNV : Flags := 0b010000
def flagSO : Flags := 0b100000

/-- A flag under a condition. -/
def flagIf (c : Bool) (f : Flags) : Flags := if c then f else 0

/-- FCTL with flags ORed in (R238). -/
def orFlags (fctl : Word) (f : Flags) : Word := fctl ||| (f.setWidth 64 <<< 18)

/-- The flags of `f` whose enable bit in FCTL is 1; SO has none (R237, R238). -/
def enabledFlags (fctl : Word) (f : Flags) : BitVec 5 := f.setWidth 5 &&& fctl.extractLsb' 13 5

/-- FCTL.FZI (R237). -/
def fzi (fctl : Word) : Bool := fctl.getLsbD 3
/-- FCTL.FZO (R237). -/
def fzo (fctl : Word) : Bool := fctl.getLsbD 4

/-- The rounding mode of a rounding code: code 6 takes FCTL.RM (R314). -/
def roundMode (fctl : Word) (code : Nat) : Nat := if code = 6 then fctl.toNat % 8 else code

/-- What a write stores in FCTL: reserved bits 0, an RM of 6 or 7 as 0 (R237). -/
def fctlStored (v : Word) : Word :=
  let v := v &&& 0x0000_0000_00FF_E01F
  if 6 ≤ v.toNat % 8 then v &&& ~~~7 else v

namespace State

/-- ORs flags into the block's FCTL. -/
def setFlags (s : State) (f : Flags) : State :=
  s.updBlk fun b => { b with ctl := { b.ctl with fctl := orFlags b.ctl.fctl f } }

/-- A scalar float result with flags `f`: an enabled flag raises FPEXC and nothing is written, else the flags are set
and `k` writes the result (R238, R333). -/
def withFlags (s : State) (f : Flags) (lit : Option Word) (k : State → State) : State :=
  if enabledFlags s.blk.ctl.fctl f ≠ 0 then s.raiseD .fpexc (enabledFlags s.blk.ctl.fctl f).toNat lit
  else k (s.setFlags f)

end State

end Sys2Proof.Machine
end

