-- ==== Sys2Proof/Machine/Float.lean ====
section
/-! DEFINITION. Float formats, exact values, and the one rounding that every float instruction and engine uses
(spec 09 R225 to R246, R254). A finite value is an exact dyadic number; a result that is not dyadic (a quotient, a root, a
transcendental) is carried with many more bits than any destination has and a mark for what is left below them. -/

namespace Sys2Proof.Machine

/-! ## Formats (R227, R234) -/

/-- What a format's special exponent holds. -/
inductive FKind where
  | ieee | e4m3 | e2m1
  deriving DecidableEq, Repr

/-- A float format: exponent bits, fraction bits, bias, special values. -/
structure FFmt where
  eb : Nat
  fb : Nat
  bias : Nat
  kind : FKind
  deriving DecidableEq, Repr

def fmtF64 : FFmt := ⟨11, 52, 1023, .ieee⟩
def fmtF32 : FFmt := ⟨8, 23, 127, .ieee⟩
def fmtF16 : FFmt := ⟨5, 10, 15, .ieee⟩
def fmtBF16 : FFmt := ⟨8, 7, 127, .ieee⟩
def fmtE5M2 : FFmt := ⟨5, 2, 15, .ieee⟩
def fmtE4M3 : FFmt := ⟨4, 3, 7, .e4m3⟩
def fmtE2M1 : FFmt := ⟨2, 1, 1, .e2m1⟩
def fmtACCF : FFmt := ⟨16, 79, 32767, .ieee⟩

/-- The float format of a code of R225. -/
def floatOf (code : Nat) : Option FFmt :=
  match code with
  | 0x10 => some fmtF64
  | 0x11 => some fmtF32
  | 0x12 => some fmtF16
  | 0x13 => some fmtBF16
  | 0x14 => some fmtE5M2
  | 0x15 => some fmtE4M3
  | 0x16 => some fmtE2M1
  | 0x20 => some fmtACCF
  | _ => none

/-- Bits of an element of a format code (R225); 0 for a code that is reserved. -/
def fmtBits (code : Nat) : Nat :=
  match code with
  | 0x01 => 2 | 0x02 => 4 | 0x03 => 8 | 0x04 => 16 | 0x05 => 32 | 0x06 => 64
  | 0x09 => 2 | 0x0A => 4 | 0x0B => 8 | 0x0C => 16 | 0x0D => 32 | 0x0E => 64
  | 0x10 => 64 | 0x11 => 32 | 0x12 => 16 | 0x13 => 16 | 0x14 => 8 | 0x15 => 8 | 0x16 => 4
  | 0x18 => 8 | 0x19 => 8 | 0x1A => 4 | 0x1B => 8 | 0x1C => 4 | 0x1D => 8 | 0x1E => 8
  | 0x20 => 96 | 0x21 => 96 | 0x23 => 4
  | _ => 0

/-- A signed integer format (R225). -/
def fmtSigned (code : Nat) : Bool := 1 ≤ code && code ≤ 6
/-- An integer format, signed or not. -/
def fmtInteger (code : Nat) : Bool := (1 ≤ code && code ≤ 6) || (9 ≤ code && code ≤ 14)

/-! ## Values -/

/-- A float value: a NaN (signalling or quiet), an infinity, or (−1)^neg × m × 2^e. -/
inductive FVal where
  | nan (signalling : Bool)
  | inf (neg : Bool)
  | num (neg : Bool) (m : Nat) (e : Int)
  deriving DecidableEq, Repr

/-- The sign bit of an encoding. -/
def FFmt.sign (f : FFmt) (x : Nat) : Bool := x.testBit (f.eb + f.fb)

/-- Decodes an encoding (R227, R229). -/
def FFmt.decode (f : FFmt) (x : Nat) : FVal :=
  let e := (x >>> f.fb) % 2 ^ f.eb
  let frac := x % 2 ^ f.fb
  let neg := f.sign x
  if f.kind = .ieee && e = 2 ^ f.eb - 1 then
    if frac = 0 then .inf neg else .nan (!frac.testBit (f.fb - 1))
  else if f.kind = .e4m3 && e = 15 && frac = 7 then .nan false
  else if e = 0 then .num neg frac (1 - (f.bias : Int) - (f.fb : Int))
  else .num neg (frac + 2 ^ f.fb) ((e : Int) - (f.bias : Int) - (f.fb : Int))

/-- A subnormal input is read as a zero of its sign under FZI (R243). -/
def FFmt.decodeFzi (f : FFmt) (fzi : Bool) (x : Nat) : FVal :=
  match f.decode x with
  | .num neg m e => if fzi && m < 2 ^ f.fb then .num neg 0 e else .num neg m e
  | v => v

/-- The canonical NaN (R229). -/
def FFmt.canonNaN (f : FFmt) : Nat :=
  if f.kind = .e4m3 then 0x7F else ((2 ^ f.eb - 1) <<< f.fb) + 2 ^ (f.fb - 1)

/-- The sign bit as a number. -/
def FFmt.signBit (f : FFmt) (neg : Bool) : Nat := if neg then 1 <<< (f.eb + f.fb) else 0

def FFmt.zero (f : FFmt) (neg : Bool) : Nat := f.signBit neg

/-- ±∞; E4M3 has none and gives its NaN with the sign, E2M1 gives ±6 (R242). -/
def FFmt.inf (f : FFmt) (neg : Bool) : Nat :=
  f.signBit neg + (match f.kind with | .ieee => (2 ^ f.eb - 1) <<< f.fb | .e4m3 => 0x7F | .e2m1 => 0x7)

/-- The largest finite value with a sign (R228). -/
def FFmt.largest (f : FFmt) (neg : Bool) : Nat :=
  f.signBit neg + (match f.kind with | .ieee => ((2 ^ f.eb - 1) <<< f.fb) - 1 | .e4m3 => 0x7E | .e2m1 => 0x7)

/-! ## Rounding (R241 to R245) -/

/-- Gen(c) under a seed (R245). -/
def gen (seed c : Word) : Word :=
  let x := seed ^^^ (c * 0x9E3779B97F4A7C15)
  let x := x ^^^ (x >>> 30)
  let x := x * 0xBF58476D1CE4E5B9
  let x := x ^^^ (x >>> 27)
  let x := x * 0x94D049BB133111EB
  x ^^^ (x >>> 31)

/-- Rounding of the magnitude m × 2^e (and a little more when `sticky`) to a multiple of 2^u: the multiple, whether it
is inexact, whether hi was chosen. `g` is the 32-bit random number of mode 5. -/
def roundGrid (mode : Nat) (neg : Bool) (g m : Nat) (e : Int) (sticky : Bool) (u : Int) : Nat × Bool × Bool :=
  if u ≤ e then (m <<< (e - u).toNat, sticky, false)
  else
    let sh := (u - e).toNat
    let lo := m >>> sh
    let rem := m % 2 ^ sh
    let half := 2 ^ (sh - 1)
    let inexact := rem ≠ 0 || sticky
    let up := match mode with
      | 0 => half < rem || (rem = half && (sticky || lo % 2 = 1))
      | 1 => false
      | 2 => inexact && !neg
      | 3 => inexact && neg
      | 4 => half ≤ rem
      | _ => 2 ^ 32 ≤ (rem <<< 32) >>> sh + g
    (if up then lo + 1 else lo, inexact, up)

/-- How a result is rounded: mode 0 to 5, saturation, FZO, and the random number of mode 5. -/
structure RndCtx where
  mode : Nat
  sat : Bool := false
  fzo : Bool := false
  g : Nat := 0
  deriving DecidableEq, Repr

/-- The encoding of q × 2^u, a representable magnitude. -/
def FFmt.place (f : FFmt) (neg : Bool) (q : Nat) (u : Int) : Nat :=
  if q < 2 ^ f.fb then f.signBit neg + q
  else
    let top := Nat.log2 q
    let e := u + top
    let frac := (if f.fb ≤ top then q >>> (top - f.fb) else q <<< (f.fb - top)) - 2 ^ f.fb
    f.signBit neg + ((e + (f.bias : Int)).toNat <<< f.fb) + frac

/-- Whether q × 2^u exceeds the largest finite value (R242). -/
def FFmt.overflows (f : FFmt) (q : Nat) (u : Int) : Bool :=
  let top := Nat.log2 q
  let e := u + top
  let emax : Int := (2 ^ f.eb : Nat) - (if f.kind = .ieee then 2 else 1) - (f.bias : Int)
  emax < e || (f.kind = .e4m3 && e = emax && (if top < 3 then q <<< (3 - top) else q >>> (top - 3)) = 15)

/-- Round(f, mode, x): the exact value rounded once to the format, and its flags (R241 to R243). -/
def FFmt.round (f : FFmt) (c : RndCtx) (neg : Bool) (m : Nat) (e : Int) (sticky : Bool) : Nat × Flags :=
  if m = 0 then (f.zero neg, 0)
  else
    let top : Int := e + Nat.log2 m
    let emin : Int := 1 - (f.bias : Int)
    let full := top - (f.fb : Int)
    let (qf, _, _) := roundGrid c.mode neg c.g m e sticky full
    let tiny := top < emin && !(top = emin - 1 && qf = 2 ^ (f.fb + 1))
    let u := max full (emin - (f.fb : Int))
    let (q, inexact, up) := roundGrid c.mode neg c.g m e sticky u
    if q ≠ 0 && f.overflows q u then
      let toInf := match c.mode with
        | 0 | 4 => true
        | 2 => !neg
        | 3 => neg
        | 5 => up
        | _ => false
      (if c.sat || !toInf then f.largest neg else f.inf neg, flagOF ||| flagNX)
    else if tiny && c.fzo then (f.zero neg, flagUF ||| flagNX)
    else
      (f.place neg q u, flagIf (tiny && inexact) flagUF ||| flagIf inexact flagNX)

/-! ## Exact arithmetic on values -/

/-- A signed mantissa. -/
def signed (neg : Bool) (m : Nat) : Int := if neg then -(m : Int) else m

/-- The exact sum of two finite values at their smaller exponent. -/
def exactAdd (n1 : Bool) (m1 : Nat) (e1 : Int) (n2 : Bool) (m2 : Nat) (e2 : Int) : Int × Int :=
  let e := min e1 e2
  (signed n1 m1 * (2 ^ (e1 - e).toNat : Nat) + signed n2 m2 * (2 ^ (e2 - e).toNat : Nat), e)

/-- The floor of the square root, one bit at a time from bit `k − 1`. -/
def isqrt : Nat → Nat → Nat → Nat
  | 0, _, r => r
  | k + 1, n, r => isqrt k n (if (r + 2 ^ k) * (r + 2 ^ k) ≤ n then r + 2 ^ k else r)

/-- The result of a float operation: bits and flags. -/
abbrev FRes := Nat × Flags

/-- NaN operand: NV when one is signalling (R238). -/
def FVal.isNaN : FVal → Bool
  | .nan _ => true
  | _ => false
def FVal.isSignalling : FVal → Bool
  | .nan s => s
  | _ => false

def FFmt.nanRes (f : FFmt) (invalid : Bool) : FRes := (f.canonNaN, flagIf invalid flagNV)

/-- The rounded sum; an exact zero sum is +0, or −0 under RD, unless both are zeros of one sign (R241). -/
def FFmt.addV (f : FFmt) (c : RndCtx) (a b : FVal) : FRes :=
  match a, b with
  | .nan s, y => f.nanRes (s || y.isSignalling)
  | _, .nan s => f.nanRes s
  | .inf x, .inf y => if x = y then (f.inf x, 0) else f.nanRes true
  | .inf x, .num _ _ _ => (f.inf x, 0)
  | .num _ _ _, .inf y => (f.inf y, 0)
  | .num n1 m1 e1, .num n2 m2 e2 =>
    let (z, e) := exactAdd n1 m1 e1 n2 m2 e2
    if z = 0 then
      (f.zero (if m1 = 0 && m2 = 0 && n1 == n2 then n1 else c.mode = 3), 0)
    else f.round c (z < 0) z.natAbs e false

def FVal.neg : FVal → FVal
  | .nan s => .nan s
  | .inf n => .inf (!n)
  | .num n m e => .num (!n) m e

/-- The exact product, none for an invalid one (0 × ∞) or NaN. -/
def FVal.mul : FVal → FVal → Option FVal
  | .nan _, _ => none
  | _, .nan _ => none
  | .inf a, .inf b => some (.inf (a != b))
  | .inf a, .num b m _ => if m = 0 then none else some (.inf (a != b))
  | .num a m _, .inf b => if m = 0 then none else some (.inf (a != b))
  | .num a m1 e1, .num b m2 e2 => some (.num (a != b) (m1 * m2) (e1 + e2))

/-- 0 × ∞ (R238). -/
def FVal.zeroTimesInf : FVal → FVal → Bool
  | .inf _, .num _ m _ => m = 0
  | .num _ m _, .inf _ => m = 0
  | _, _ => false

/-- Rounds a value that is no NaN. -/
def FFmt.roundV (f : FFmt) (c : RndCtx) : FVal → FRes
  | .nan s => f.nanRes s
  | .inf n => (f.inf n, 0)
  | .num n m e => f.round c n m e false

/-- The rounded product. -/
def FFmt.mulV (f : FFmt) (c : RndCtx) (a b : FVal) : FRes :=
  match a.mul b with
  | some v => f.roundV c v
  | none => f.nanRes (a.isSignalling || b.isSignalling || a.zeroTimesInf b)

/-- a × b + c with one rounding; 0 × ∞ is NaN with NV even when the addend is a quiet NaN (R334). -/
def FFmt.fmaV (f : FFmt) (c : RndCtx) (a b d : FVal) : FRes :=
  match a.mul b with
  | some p => f.addV c p d
  | none => f.nanRes (a.isSignalling || b.isSignalling || d.isSignalling || a.zeroTimesInf b)

/-- The rounded quotient (R334). -/
def FFmt.divV (f : FFmt) (c : RndCtx) (a b : FVal) : FRes :=
  match a, b with
  | .nan s, y => f.nanRes (s || y.isSignalling)
  | _, .nan s => f.nanRes s
  | .inf _, .inf _ => f.nanRes true
  | .inf x, .num y _ _ => (f.inf (x != y), 0)
  | .num x _ _, .inf y => (f.zero (x != y), 0)
  | .num x m1 e1, .num y m2 e2 =>
    if m2 = 0 then (if m1 = 0 then f.nanRes true else (f.inf (x != y), flagDZ))
    else
      let k := bitLen m2 + 150
      f.round c (x != y) ((m1 <<< k) / m2) (e1 - e2 - k) ((m1 <<< k) % m2 ≠ 0)

/-- √(m × 2^e): mantissa, exponent, remainder mark. -/
def rootMag (m : Nat) (e : Int) : Nat × Int × Bool :=
  let k : Nat := 300 + (e % 2).toNat
  let n := m <<< k
  let r := isqrt ((bitLen n + 1) / 2 + 1) n 0
  (r, (e - k) / 2, r * r ≠ n)

/-- The rounded square root (R334). -/
def FFmt.sqrtV (f : FFmt) (c : RndCtx) (a : FVal) : FRes :=
  match a with
  | .nan s => f.nanRes s
  | .inf n => if n then f.nanRes true else (f.inf false, 0)
  | .num n m e =>
    if m = 0 then (f.zero n, 0)
    else if n then f.nanRes true
    else
      let (r, e', s) := rootMag m e
      f.round c false r e' s

/-! ## Comparison, minimum and maximum (R254, R336) -/

/-- The order of two finite or infinite values. -/
def FVal.cmp (a b : FVal) : Ordering :=
  match a, b with
  | .inf x, .inf y => if x = y then .eq else if x then .lt else .gt
  | .inf x, _ => if x then .lt else .gt
  | _, .inf y => if y then .gt else .lt
  | .num n1 m1 e1, .num n2 m2 e2 =>
    let (z, _) := exactAdd n1 m1 e1 (!n2) m2 e2
    compare z 0
  | _, _ => .eq

def FVal.isNeg : FVal → Bool
  | .nan _ => false
  | .inf n => n
  | .num n _ _ => n

/-- The bits of an operand after any FZI flush. -/
def FFmt.flushed (f : FFmt) (fzi : Bool) (x : Nat) : Nat :=
  match f.decodeFzi fzi x with
  | .num n m _ => if m = 0 then f.zero n else x % 2 ^ (1 + f.eb + f.fb)
  | _ => x % 2 ^ (1 + f.eb + f.fb)

/-- Float minimum (`wantMax` false) or maximum (R254). -/
def FFmt.minMax (f : FFmt) (fzi wantMax : Bool) (x y : Nat) : FRes :=
  let a := f.decodeFzi fzi x
  let b := f.decodeFzi fzi y
  let nv := flagIf (a.isSignalling || b.isSignalling) flagNV
  let ax := f.flushed fzi x
  let bx := f.flushed fzi y
  if a.isNaN && b.isNaN then (f.canonNaN, nv)
  else if a.isNaN then (bx, nv)
  else if b.isNaN then (ax, nv)
  else
    let less := match a.cmp b with
      | .lt => true
      | .gt => false
      | .eq => a.isNeg && !b.isNeg
    (if less != wantMax then ax else bx, nv)

/-- The conditions of FSETP (R336) and their flags. -/
def fcond (c : Nat) (a b : FVal) : Bool × Flags :=
  let nan := a.isNaN || b.isNaN
  let ordered := 2 ≤ c && c ≤ 5
  let nv := flagIf (a.isSignalling || b.isSignalling || (nan && ordered)) flagNV
  let o := a.cmp b
  let r := match c with
    | 0 => !nan && o == .eq
    | 1 => nan || o != .eq
    | 2 => !nan && o == .lt
    | 3 => !nan && o != .gt
    | 4 => !nan && o == .gt
    | 5 => !nan && o != .lt
    | 6 => nan
    | _ => !nan
  (r, nv)

/-- The one-hot class of an encoding (R339). -/
def FFmt.classify (f : FFmt) (x : Nat) : Nat :=
  match f.decode x with
  | .nan s => if s then 0x100 else 0x200
  | .inf n => if n then 0x001 else 0x080
  | .num n m _ =>
    if m = 0 then (if n then 0x008 else 0x010)
    else if m < 2 ^ f.fb then (if n then 0x004 else 0x020)
    else if n then 0x002 else 0x040

/-! ## Conversions (R244) -/

/-- The bounds of an integer format. -/
def intLo (isSigned : Bool) (w : Nat) : Int := if isSigned then -(2 ^ (w - 1) : Nat) else 0
def intHi (isSigned : Bool) (w : Nat) : Int := if isSigned then (2 ^ (w - 1) : Nat) - 1 else (2 ^ w : Nat) - 1

/-- Clamps a number to an integer format. -/
def clampInt (isSigned : Bool) (w : Nat) (z : Int) : Int := max (intLo isSigned w) (min (intHi isSigned w) z)

/-- A finite value rounded to an integer, which may be out of range. -/
def roundInt (c : RndCtx) (neg : Bool) (m : Nat) (e : Int) (sticky : Bool) : Int × Bool :=
  let (q, inexact, _) := roundGrid c.mode neg c.g m e sticky 0
  (signed neg q, inexact)

/-- A float value converted to an integer format: NaN to 0, out of range to the bound of its sign, with NV. -/
def toInteger (c : RndCtx) (isSigned : Bool) (w : Nat) (v : FVal) : FRes :=
  match v with
  | .nan _ => (0, flagNV)
  | .inf n => (wrap w (if n then intLo isSigned w else intHi isSigned w), flagNV)
  | .num n m e =>
    let (z, inexact) := roundInt c n m e false
    if z < intLo isSigned w || intHi isSigned w < z then (wrap w (clampInt isSigned w z), flagNV)
    else (wrap w z, flagIf inexact flagNX)

/-- A float value converted to a float format (R244). -/
def FFmt.convert (f : FFmt) (c : RndCtx) (v : FVal) : FRes :=
  match v with
  | .nan s => if f.kind = .e2m1 then (0, flagNV) else (f.canonNaN, flagIf s flagNV)
  | .inf n =>
    match f.kind with
    | .ieee => (f.inf n, 0)
    | .e4m3 => if c.sat then (f.largest n, flagOF ||| flagNX) else (f.inf n, flagOF)
    | .e2m1 => (f.largest n, flagNV)
  | .num n m e => if m = 0 then (f.zero n, 0) else f.round c n m e false

/-- An integer as a value; zero is +0. -/
def intVal (z : Int) : FVal := .num (z < 0) z.natAbs 0

/-- A conversion between two integer formats (R244 last row). -/
def intToInt (sat isSigned : Bool) (w : Nat) (z : Int) : FRes :=
  if z < intLo isSigned w || intHi isSigned w < z then
    if sat then (wrap w (clampInt isSigned w z), flagSO) else (wrap w z, 0)
  else (wrap w z, 0)

/-- The value of an element of a plain integer or float format, with FZI for float inputs. -/
def elemVal (code : Nat) (fz : Bool) (x : Nat) : FVal :=
  match floatOf code with
  | some f => f.decodeFzi fz x
  | none => intVal (if fmtSigned code then toSigned (fmtBits code) x else (x % 2 ^ fmtBits code : Nat))

/-- The conversion of an element between plain formats, source code first (R244, R358). -/
def convertElem (src dst : Nat) (fz : Bool) (c : RndCtx) (x : Nat) : FRes :=
  match floatOf dst with
  | some f => f.convert c (elemVal src fz x)
  | none =>
    if fmtInteger src then
      intToInt c.sat (fmtSigned dst) (fmtBits dst)
        (if fmtSigned src then toSigned (fmtBits src) x else (x % 2 ^ fmtBits src : Nat))
    else toInteger c (fmtSigned dst) (fmtBits dst) (elemVal src fz x)

end Sys2Proof.Machine
end

