-- ==== Sys2Proof/Machine/Mesh.lean ====
section
/-! DEFINITION. The on-die mesh and the die bridge: where routers stand, how packets are routed, entered, and forwarded by
an egress (spec 07 R167 to R172). -/

namespace Sys2Proof.Machine

/-- Column and row of a cluster's router on the north die (R167). -/
def clusterAt : Nat → Nat × Nat
  | 0 => (2, 0) | 1 => (3, 0) | 2 => (1, 1) | 3 => (2, 1) | 4 => (3, 1)
  | 5 => (1, 2) | 6 => (2, 2) | 7 => (3, 2) | 8 => (2, 3) | _ => (3, 3)

/-- Column and row of a stack's router on the north die (R167). -/
def stackAt : Nat → Nat × Nat
  | 0 => (0, 0) | 1 => (0, 1) | 2 => (0, 2) | 3 => (0, 3) | 4 => (1, 0) | _ => (1, 3)

/-- A router of the north die, or its mirror image on the south die. -/
def mirrored (die : Nat) (at_ : Nat × Nat) : Nat × Nat × Nat := if die = 0 then (0, at_.1, at_.2) else (1, 5 - at_.1, at_.2)

/-- The die of an end point: the host port is on the north die only (R14, R17, R38). -/
def Node.die : Node → Nat
  | .core c => dieOf c
  | .stack t => if t < 6 then 0 else 1
  | .walker d | .cp d | .mgmt d => if d = 0 then 0 else 1
  | .host => 0
  | .sxl p => if p < 4 then 0 else 1

/-- The router of an end point: die, column, row (R15, R17, R167). The spec puts a die's walkers at no router: they stand at its command
processor's (DESIGN CHOICE, log entry 78). -/
def Node.router (n : Node) : Nat × Nat × Nat :=
  match n with
  | .core c => mirrored n.die (clusterAt (clusterOf c % 10))
  | .stack t => mirrored n.die (stackAt (t % 6))
  | .sxl p => mirrored n.die (if p % 4 < 2 then (4, 0) else (4, 3))
  | .walker _ | .cp _ | .host => mirrored n.die (4, 1)
  | .mgmt _ => mirrored n.die (4, 2)

/-- The unit number of an end point (R35); a die's walkers act as its command processor. -/
def Node.unit : Node → Nat
  | .core c => c
  | .stack t => 0xA0 + t
  | .walker d | .cp d => 0xB0 + d
  | .mgmt d => 0xB2 + 2 * d
  | .sxl p => 0xC0 + p
  | .host => 0xC8

/-- The column of a die's bridge routers (R167). -/
def bridgeCol (die : Nat) : Nat := if die = 0 then 5 else 0

/-- The egress towards a target: along the row, then along the column; a packet for the other die goes along its row to
the bridge first (R167). -/
def routeOut (die col row : Nat) (dst : Node) : Port :=
  let (d, x, y) := dst.router
  let goal := if d = die then x else bridgeCol die
  if col < goal then .east
  else if goal < col then .west
  else if d ≠ die then .bridge
  else if row < y then .south
  else if y < row then .north
  else .here

/-- The router and input port that a packet reaches through an egress. -/
def nextHop (die col row : Nat) : Port → Nat × Nat × Nat × Port
  | .east => (die, col + 1, row, .west)
  | .west => (die, col - 1, row, .east)
  | .south => (die, col, row + 1, .north)
  | .north => (die, col, row - 1, .south)
  | .bridge => (1 - die, bridgeCol (1 - die), row, .bridge)
  | .here => (die, col, row, .here)

/-- The class of what a packet carries (R168); write-backs are sent as BULK by their sender. -/
def Msg.cls : Msg → VClass
  | .req _ | .lock _ | .gather _ => .lat
  | .gatherFwd _ => .bulk
  | .resp _ _ _ | .fill _ _ _ _ | .ack _ | .grant _ _ | .gatherRet _ | .gatherDone _ | .dropAck _ => .rsp
  | .cloveAck _ _ | .gatherElem _ _ => .rsp
  | .clove _ _ | .release _ | .drop _ _ _ => .ctl

namespace State

/-- A packet enters the mesh at its source's router (R168, R170). -/
def sendCls (s : State) (cls : VClass) (src dst : Node) (m : Msg) : State :=
  let (d, x, y) := src.router
  s.setMs fun ms =>
    { ms with packets := ms.packets ++ [{ die := d, col := x, row := y, inPort := .here, cls := cls, since := s.ck,
                                          ts := s.ts, src := s.source src.unit, dst := dst, msg := m }] }

def send (s : State) (src dst : Node) (m : Msg) : State := s.sendCls m.cls src dst m

end State

def VClass.next : VClass → VClass
  | .lat => .bulk | .bulk => .rsp | .rsp => .ctl | .ctl => .lat

def portIdx : Port → Nat
  | .here => 0 | .north => 1 | .east => 2 | .south => 3 | .west => 4 | .bridge => 5

/-- The weight of a class (R171). -/
def Platform.weight (p : Platform) : VClass → Nat
  | .lat => p.meshLat | .bulk => p.meshBulk | .rsp => p.meshRsp | .ctl => p.meshCtl

/-- Whether a packet stands at a router. -/
def Packet.at_ (p : Packet) (die col row : Nat) : Bool := p.die == die && p.col == col && p.row == row

/-- The packets that head their input queues at a router and want an egress, with their places in the list. A Clove
marker waits behind the LAT and BULK packets of its core on its input (R172). -/
def headPackets (ps : List Packet) (die col row : Nat) (out : Port) : List (Nat × Packet) :=
  let here := (ps.zipIdx.map fun (p, i) => (i, p)).filter fun x => x.2.at_ die col row
  here.filter fun x =>
    routeOut die col row x.2.dst == out &&
      !here.any (fun y => y.1 < x.1 && y.2.inPort == x.2.inPort &&
        (y.2.cls == x.2.cls ||
          (match x.2.msg with
            | .clove _ _ => (y.2.cls == .lat || y.2.cls == .bulk) && y.2.src == x.2.src
            | _ => false)))

/-- The egress record of a router's port. -/
def MemSys.egressOf (ms : MemSys) (die col row : Nat) (out : Port) : Egress :=
  (ms.egress.find? fun e => e.die == die && e.col == col && e.row == row && e.out == out).getD
    { die := die, col := col, row := row, out := out, turn := .lat, credits := 0, last := .bridge }

def MemSys.setEgress (ms : MemSys) (x : Egress) : MemSys :=
  { ms with egress := x :: ms.egress.filter fun e =>
      !(e.die == x.die && e.col == x.col && e.row == x.row && e.out == x.out) }

/-- The class that sends and the credits after it (R169 steps 2 and 3): the turn's class while it has a packet and a
credit, else the next class that has one. -/
def nextTurn (w : VClass → Nat) (has : VClass → Bool) (e : Egress) : Nat → Egress
  | 0 => e
  | n + 1 =>
    if has e.turn && 0 < e.credits then { e with credits := e.credits - 1 }
    else nextTurn w has { e with turn := e.turn.next, credits := w e.turn.next } n

/-- The packet that an egress sends: a saturated one, the older timestamp and then the lower source first; else one of the
class whose turn it is, input ports in round robin (R169). -/
def pickPacket (p : Platform) (ck : Nat) (e : Egress) (cands : List (Nat × Packet)) : Option (Nat × Packet × Egress) :=
  match minBy (fun x : Nat × Packet => x.2.ts * 2 ^ 24 + x.2.src) (cands.filter fun x => x.2.since + 255 ≤ ck) with
  | some x => some (x.1, x.2, e)
  | none =>
    let e := nextTurn p.weight (fun c => cands.any fun x => x.2.cls == c) e 5
    match minBy (fun x : Nat × Packet => (portIdx x.2.inPort + 5 - portIdx e.last) % 6) (cands.filter fun x => x.2.cls == e.turn) with
    | some x => some (x.1, x.2, { e with last := x.2.inPort })
    | none => none

/-- Whether two packets stand in one input queue of a router: one port, one class (R169). -/
def Packet.sameQueue (p q : Packet) : Bool := p.at_ q.die q.col q.row && p.inPort == q.inPort && p.cls == q.cls

/-- After `p` left its queue, the packet behind it heads the queue: its ageing counter starts (R170). -/
def headAt (ck : Nat) (p : Packet) : List Packet → List Packet
  | [] => []
  | q :: t => if q.sameQueue p then { q with since := ck } :: t else q :: headAt ck p t

/-- MESH_PACKET_FORWARD: one packet leaves a router by an egress; at its own router it reaches its target (R169). -/
def State.forwardPacket (s : State) (die col row : Nat) (out : Port) : State :=
  let ms := s.ms
  match pickPacket s.plat s.ck (ms.egressOf die col row out) (headPackets ms.packets die col row out) with
  | none => s
  | some (i, p, e) =>
    let rest := headAt s.ck p (dropAt ms.packets i)
    let ms := ms.setEgress e
    if out = .here then { s with ms := { ms with packets := rest, inbox := ms.inbox ++ [(p.dst, p.msg)] } }
    else
      let (d, x, y, inp) := nextHop die col row out
      { s with ms := { ms with packets := rest ++ [{ p with die := d, col := x, row := y, inPort := inp, since := s.ck }] } }

end Sys2Proof.Machine
end

