-- ==== Sys2Proof/Machine/L1.lean ====
section
/-! DEFINITION. The L1 of a core: its CACHE-mode banks as ways of 512 sets, lines with valid, dirty and writer masks, and
the write-back of dirty bytes (spec 07 R156 to R160; spec 08 R199, R200). -/

namespace Sys2Proof.Machine

/-- Bytes `o` to `o + n − 1` of a line's data. -/
def lineBytes (d : BitVec 512) (o n : Nat) : Nat := (d.toNat >>> (8 * o)) % 2 ^ (8 * n)

/-- The mask of bytes `o` to `o + n − 1`. -/
def byteMask (o n : Nat) : BitVec 64 := BitVec.ofNat 64 ((2 ^ n - 1) <<< o)

/-- The bits of the bytes that a byte mask selects. -/
def spread (m : BitVec 64) : Nat → Nat
  | 0 => 0
  | k + 1 => (if m.getLsbD k then 0xFF <<< (8 * k) else 0) + spread m k

/-- A line's data with the masked bytes taken from `x`. -/
def mergeLine (d x : BitVec 512) (m : BitVec 64) : BitVec 512 :=
  let w := BitVec.ofNat 512 (spread m 64)
  (d &&& ~~~w) ||| (x &&& w)

/-- `n` bytes of `v` at offset `o` of a line. -/
def atOffset (o v : Nat) : BitVec 512 := BitVec.ofNat 512 (v <<< (8 * o))

namespace Core

/-- The ways of the L1: the CACHE-mode banks, lowest first (R156). -/
def l1Ways (c : Core) : List Nat := (List.range 32).filter fun b => c.banks[b]? == some .cache

/-- The L1 line of a physical address. -/
def l1Find (c : Core) (pa : Nat) : Option L1Line := c.l1.find? fun l => l.line == pa / 64

/-- The value of `n` bytes if every one is valid in L1. -/
def l1Read (c : Core) (pa n : Nat) : Option Nat :=
  match c.l1Find pa with
  | some l =>
    if byteMask (pa % 64) n &&& ~~~l.valid = 0 then some (lineBytes l.data (pa % 64) n) else none
  | none => none

/-- Changes the line of an address, if it is present. -/
def l1Upd (c : Core) (pa : Nat) (f : L1Line → L1Line) : Core :=
  { c with l1 := mapIf (fun l => l.line == pa / 64) f c.l1 }

/-- The next use stamp of the L1: greater than every line's. -/
def l1Stamp (c : Core) : Nat := c.l1.foldl (fun m l => max m l.use) 0 + 1

/-- Whether any of `n` bytes is an uncorrectable dirty byte of L1 (R58). -/
def l1Bad (c : Core) (pa n : Nat) : Bool :=
  match c.l1Find pa with
  | some l => l.bad &&& byteMask (pa % 64) n != 0
  | none => false

/-- Marks a line most recently used. -/
def l1Touch (c : Core) (pa : Nat) : Core := c.l1Upd pa fun l => { l with use := c.l1Stamp }

/-- Makes room for the line of an address: the lowest invalid way of the set, else the least recently used, whose line
leaves (R156). A way whose line has no valid byte is invalid. The line that leaves is the second answer. -/
def l1Alloc (c : Core) (pa : Nat) : Core × Option L1Line :=
  if (c.l1Find pa).any (·.valid != 0) then (c, none)
  else
    let set := pa / 64 % 512
    let kept := c.l1.filter fun l => !(l.line % 512 == set && l.valid == 0)
    let inSet := kept.filter fun l => l.line % 512 == set
    let new := fun (w : Nat) => ({ way := w, line := pa / 64, valid := 0, dirty := 0, data := 0, writers := 0, use := c.l1Stamp } : L1Line)
    match c.l1Ways.find? (fun w => !inSet.any fun l => l.way == w) with
    | some w => ({ c with l1 := new w :: kept }, none)
    | none =>
      match minBy (fun l => l.use) inSet with
      | some v => ({ c with l1 := new v.way :: c.l1.filter fun l => l.line != v.line }, some v)
      | none => (c, none)

/-- A CORE-scope store of hart-in-core `h` into its line: bytes valid and dirty, the writer's bit set (R157, R199). -/
def l1Store (c : Core) (h pa n v : Nat) : Core :=
  c.l1Upd pa fun l =>
    let m := byteMask (pa % 64) n
    { l with
      data := mergeLine l.data (atOffset (pa % 64) v) m, valid := l.valid ||| m, dirty := l.dirty ||| m
      writers := l.writers ||| (1 <<< h), use := c.l1Stamp, bad := l.bad &&& ~~~m }

/-- A DEVICE-scope store's bytes written into a line that is present: valid, not dirty (R157). -/
def l1Through (c : Core) (pa n v : Nat) : Core :=
  c.l1Upd pa fun l =>
    let m := byteMask (pa % 64) n
    { l with
      data := mergeLine l.data (atOffset (pa % 64) v) m, valid := l.valid ||| m, dirty := l.dirty &&& ~~~m, bad := l.bad &&& ~~~m }

/-- A line is written back: clean, no writer; its readable bytes stay valid (R199 step 2, R417). -/
def l1Clean (c : Core) (pa : Nat) : Core :=
  c.l1Upd pa fun l => { l with valid := l.valid &&& ~~~l.bad, dirty := 0, writers := 0, bad := 0, seen := 0 }

/-- The masked bytes of a line become invalid. -/
def l1Invalidate (c : Core) (pa : Nat) (m : BitVec 64) : Core :=
  c.l1Upd pa fun l => { l with valid := l.valid &&& ~~~m, dirty := l.dirty &&& ~~~m, bad := l.bad &&& ~~~m }

/-- Invalidates every clean byte (R200). -/
def l1InvalidateClean (c : Core) : Core :=
  { c with l1 := c.l1.map (fun l => { l with valid := l.dirty }), acquires := c.acquires + 1 }

/-- A fill's bytes enter, but for uncorrectable ones, where the core has not written since the request left: neither dirty bytes nor
those of `newer` (R158, R58). Bytes that were valid and clean take the fill's value too, so that no aligned read mixes values of two
instants (R189, R191, R13; log entry 23). -/
def l1Fill (c : Core) (pa : Nat) (d : BitVec 512) (bad over_ : BitVec 64) : Core :=
  c.l1Upd pa fun l =>
    let m := ~~~l.dirty &&& ~~~bad &&& ~~~over_
    { l with data := mergeLine l.data d m, valid := l.valid ||| m, use := c.l1Stamp }

/-- The value of a DEVICE-scope read with the dirty bytes of L1 merged in (R159). -/
def mergeDirty (c : Core) (pa n v : Nat) : Nat :=
  match c.l1Find pa with
  | some l =>
    lineBytes (mergeLine (atOffset (pa % 64) v) l.data (l.dirty &&& byteMask (pa % 64) n)) (pa % 64) n
  | none => v % 2 ^ (8 * n)

/-- A DEVICE-scope read refreshes the valid and clean bytes of a line that it returned (R194), but for those of `newer`, which the core
has written since (R193). Where a byte changes, the other clean bytes of its aligned 8-byte word become invalid, so that no aligned read
mixes values of two instants (R189, R191; log entry 23). -/
def l1Refresh (c : Core) (over_ : BitVec 64) (pa n v : Nat) : Core :=
  c.l1Upd pa fun l =>
    let got := byteMask (pa % 64) n
    let m := got &&& l.valid &&& ~~~l.dirty &&& ~~~over_
    let data := mergeLine l.data (atOffset (pa % 64) v) m
    let words := byteMask (pa % 64 / 8 * 8) ((pa % 8 + n + 7) / 8 * 8)
    { l with
      data := data, valid := if data = l.data then l.valid else l.valid &&& ~~~(words &&& ~~~got &&& ~~~l.dirty) }

/-- A hart reads bytes of a line: where dirty bytes are among them it has observed another hart's write (R201). -/
def l1See (c : Core) (h pa n : Nat) : Core :=
  c.l1Upd pa fun l => if l.dirty &&& byteMask (pa % 64) n = 0 then l else { l with seen := l.seen ||| (1 <<< h) }

end Core

/-- Whether a request writes at its home. -/
def HomeOp.writes : HomeOp → Bool
  | .read _ | .fill => false
  | .write _ _ _ | .amo _ _ _ _ | .frame _ _ _ | .patch _ => true

/-- The bytes from its address on that a request writes. -/
def HomeOp.mask : HomeOp → Nat
  | .read _ | .fill => 0
  | .write _ m _ => m
  | .amo _ n _ _ => 2 ^ n - 1
  | .frame _ _ _ | .patch _ => 0xFF

/-- Whether a load in flight reads a 64-byte line of memory. -/
def PendLoad.onLine (p : PendLoad) (line : Nat) : Bool :=
  if p.elems.isEmpty then homeAddr p.pa / 64 == line else p.elems.any fun e => homeAddr e.2.1 / 64 == line

/-- Whether a copy's request reads a 64-byte line of memory. -/
def EngReq.onLine (r : EngReq) (line : Nat) : Bool :=
  r.parts.any fun p => homeAddr p.2.1 / 64 ≤ line && line ≤ (homeAddr p.2.1 + p.2.2 - 1) / 64

/-- The bytes of a 64-byte line that the core has written since a request left. -/
def overOf (l : List (Nat × BitVec 64)) (line : Nat) : BitVec 64 := l.foldl (fun m e => if e.1 == line then m ||| e.2 else m) 0

/-- Whether a load in flight reads any of `n` bytes at an address. -/
def PendLoad.covers (p : PendLoad) (pa n : Nat) : Bool :=
  match p.dest with
  | .icache _ _ => false
  | _ =>
    let hit := fun (a m : Nat) => pa < a + m && a < pa + n
    if p.elems.isEmpty then hit p.pa p.n else p.elems.any fun e => hit e.2.1 p.n

namespace State

/-- Takes the first message of the inbox that `f` accepts, with what `f` makes of it; `before` are the messages ahead. -/
def takeMsg {α : Type} (f : List (Node × Msg) → Node × Msg → Option α) :
    List (Node × Msg) → List (Node × Msg) → Option (α × List (Node × Msg))
  | _, [] => none
  | before, m :: t =>
    match f before m with
    | some x => some (x, before.reverse ++ t)
    | none => takeMsg f (m :: before) t

/-- Takes a message from the inbox. -/
def pickMsg {α : Type} (s : State) (f : List (Node × Msg) → Node × Msg → Option α) : Option (α × State) :=
  (takeMsg f [] s.ms.inbox).map fun x => (x.1, s.setMs fun m => { m with inbox := x.2 })

/-- Core `c` has sent request `q` to a home (R203). -/
def noteHome (s : State) (c stack q : Nat) : State := s.updCore c fun x => { x with homes := aset x.homes stack q }

/-- Core `c` has written bytes of a 64-byte line, at their home or on the way there: the answers to its earlier reads of the line are older
in those bytes (R158, R193). -/
def noteWrite (s : State) (c line : Nat) (m : BitVec 64) : State :=
  let s := s.updCore c fun x => { x with prefs := mapIf (fun p => p.line == line) (fun p => { p with newer := p.newer ||| m }) x.prefs }
  { s with blocks := s.blocks.map fun (e : Nat × Block) =>
      (e.1, if coreOf e.1 == c then
        { e.2 with
          pend := mapIf (fun p => p.onLine line) (fun p => { p with newer := (line, m) :: p.newer }) e.2.pend
          trecs := e.2.trecs.map fun t => { t with out := mapIf (fun r => r.onLine line) (fun r => { r with newer := (line, m) :: r.newer }) t.out } }
      else e.2) }

/-- The same of the bytes at `pa` that a mask selects, of the 64-byte lines in which `n` bytes from there lie. -/
def noteBytes (s : State) (c pa mask n : Nat) : State :=
  let a := homeAddr pa
  (List.range ((a + n - 1) / 64 + 1 - a / 64)).foldl (fun (s : State) i =>
    s.noteWrite c (a / 64 + i) (BitVec.ofNat 64 ((mask <<< (a % 64)) >>> (64 * i)))) s

/-- The vector clock that a write of a die to `pa` carries when its home is on the other die, and the count it adds (R198). -/
def stampCross (s : State) (d pa : Nat) (op : HomeOp) : Option (Nat × Nat) × State :=
  if op.writes && stackOf pa / 6 != d then
    let n := (s.ms.crossSent[d]?.getD 0) + 1
    (some (n, s.ms.crossDone[1 - d]?.getD 0), s.setMs fun m => { m with crossSent := m.crossSent.setIfInBounds d n })
  else (none, s)

/-- Puts a request on its way to its home (R168). The transfers of a lock holder carry no clock: they never wait behind a plain write that
waits for the holder's lock (R185; log entry 24). -/
def sendReq (s : State) (cls : VClass) (r : HomeReq) : State :=
  let (q, s) := s.fresh
  let s := match r.src with
    | .core c =>
      let s := s.noteHome c (stackOf r.pa) q
      if r.op.writes then s.noteBytes c r.pa r.op.mask (max 1 (bitLen r.op.mask)) else s
    | _ => s
  let (clk, s) := if r.holder.isSome then (none, s) else s.stampCross r.src.die r.pa r.op
  s.sendCls cls r.src (.stack (stackOf r.pa)) (.req { r with seq := q, clock := clk })

/-- Sends a request of core `c` for hart `h` to the home of `pa`; BULK when it is a write-back (R168). -/
def sendHome (s : State) (cls : VClass) (c h id pa : Nat) (op : HomeOp) : State :=
  s.sendReq cls { id := id, hart := h, src := .core c, pa := pa, op := op }

/-- The addresses of the masked bytes of a line. -/
def maskedBytes (line : Nat) (m : BitVec 64) : List Nat := ((List.range 64).filter m.getLsbD).map (64 * line + ·)

/-- Writes a line's dirty bytes back as one masked DEVICE-scope write (R160); id 0 wants no acknowledgement. Uncorrectable bytes are not
written: their home has no correct value either (R58; log entry 69). -/
def sendWriteBack (s : State) (c h id : Nat) (l : L1Line) : State :=
  if l.dirty = 0 then s
  else
    let s := if l.bad = 0 then s
      else s.setMs fun m => { m with bad := m.bad ++ (maskedBytes l.line l.bad).filter fun a => !m.bad.contains a }
    s.sendHome .bulk c h id (l.line * 64) (.write l.data.toNat (l.dirty &&& ~~~l.bad).toNat 64)

/-- Whether a write-back of core `c` for the line of an address is on its way: a later request of the core to the line
follows it (R193; log entry 14). -/
def wbInFlight (s : State) (c pa : Nat) : Bool :=
  let hit := fun (m : Msg) => match m with
    | .req r => r.src == .core c && !r.engine && r.pa / 64 == homeAddr pa / 64 &&
        (match r.op with
          | .write _ _ n => n == 64
          | _ => false)
    | _ => false
  s.ms.packets.any (fun p => hit p.msg) || s.ms.inbox.any (fun m => hit m.2)

/-- Allocates the line of an address in a core's L1, writing the line that leaves back (R156, R160). -/
def l1Allocate (s : State) (c pa : Nat) : State :=
  let (x, out) := (s.core c).l1Alloc pa
  let s := s.setCore c x
  match out with
  | some l => s.sendWriteBack c 0 0 l
  | none => s

/-- Writes the dirty bytes of the line of an address back and leaves it clean. -/
def l1WriteBack (s : State) (c h id pa : Nat) : State :=
  match (s.core c).l1Find pa with
  | some l => (s.sendWriteBack c h id l).updCore c fun x => x.l1Clean pa
  | none => s

end State

end Sys2Proof.Machine
end

