-- ==== Sys2Proof/Machine/Translate.lean ====
section
/-! DEFINITION. Address translation: the TLB lookup of a waiting instruction, permissions, the miss table, walks and what
their completion installs (spec 07 R173 to R181, R183). -/

namespace Sys2Proof.Machine

/-- What an access does, for R175 and R176. -/
inductive AKind where
  | load | store | amo | fetch
  deriving DecidableEq, Repr

/-- Whether D must be set: a store or an AMO (R176). -/
def AKind.writes : AKind → Bool
  | .store | .amo => true
  | _ => false

/-- Whether an address is canonical: bits 63..53 equal bit 52 (R173). -/
def canonical (va : Nat) : Bool := va / 2 ^ 52 % 2 ^ 12 == 0 || va / 2 ^ 52 % 2 ^ 12 == 4095

/-- Whether a page maps a virtual address. -/
def Xlat.maps (x : Xlat) (va : Nat) : Bool := x.page == va % 2 ^ 53 / 2 ^ x.log2 * 2 ^ x.log2

/-- The physical address of a virtual address on the page. -/
def Xlat.phys (x : Xlat) (va : Nat) : Nat := x.pa + va % 2 ^ x.log2

/-- Whether the page's permissions allow the access at a level (R175, R260). -/
def Xlat.allows (x : Xlat) (lvl : Level) (k : AKind) : Bool :=
  (lvl == .s || !x.s) &&
    (match k with
      | .load => x.r
      | .store => x.w
      | .amo => x.r && x.w
      | .fetch => x.x)

/-- A translation's outcome: an address, a cause, or a walk that is needed. -/
inductive XRes where
  | ok (x : Xlat) (pa : Nat)
  | fail (c : Cause)
  | miss
  deriving DecidableEq, Repr

/-- The TLB entry of a context for an address. -/
def Core.tlbFind (c : Core) (ctx va : Nat) : Option Xlat := c.tlb.find? fun x => x.ctx == ctx && x.maps va

/-- What a walk gave for an address: none when no walk has answered. -/
def bufFind (buf : List XEntry) (va : Nat) (write : Bool) : Option (Option Xlat) :=
  (buf.find? fun e =>
    (e.write || !write) &&
      (match e.res with
        | some x => x.maps va
        | none => e.page == va % 2 ^ 53 / 8192 * 8192)).map (·.res)

/-- Whether the walk of an address for this instruction read uncorrectable data (R58). -/
def bufBad (buf : List XEntry) (va : Nat) : Bool := buf.any fun e => e.bad && e.page == va % 2 ^ 53 / 8192 * 8192

/-- Looks an address up in what walks gave this instruction, then in the TLB (R125). A TLB entry with D = 0 is walked
again at a write (R176). None asks for a walk; `some none` is a failed walk. -/
def findPage (tlb : Core) (buf : List XEntry) (ctx : Nat) (write : Bool) (va : Nat) : Option (Option Xlat) :=
  if !canonical va then some none
  else
    match bufFind buf va write with
    | some r => some r
    | none =>
      match tlb.tlbFind ctx va with
      | some x => if write && !x.d then none else some (some x)
      | none => none

/-- The cause of a failed walk (R175, R58). -/
def walkCause (buf : List XEntry) (va : Nat) : Cause := if bufBad buf va && canonical va then .uncorr else .xlate

/-- Translates an address and checks the page (R175, R150). -/
def lookup (tlb : Core) (scr : Vector Nat 12) (buf : List XEntry) (ctx : Nat) (lvl : Level) (k : AKind) (va : Nat) : XRes :=
    match findPage tlb buf ctx k.writes va with
    | none => .miss
    | some none => .fail (walkCause buf va)
    | some (some x) =>
      if !x.allows lvl k then .fail .perm
      else if !paExists scr (x.phys va) then .fail .perm
      else .ok x (x.phys va)

/-- Waiters of the miss table: a hart by its number, its copy instructions 2,000 above, its prefetches 4,000 above. -/
def engineWaiter (h : Nat) : Nat := 2000 + h
def prefetchWaiter (h : Nat) : Nat := 4000 + h

namespace State

/-- Translates an address for the hart in focus (R125). -/
def translate (s : State) (k : AKind) (va : Nat) : XRes :=
  lookup (s.core s.myCore) s.plat.scrReach s.blk.xbuf s.blk.ctx s.blk.level k va

/-- A TLB miss of a core is to be looked up in its die's translation cache; it joins a miss of its key that is under way (R181). -/
def enterMiss (s : State) (c ctx va : Nat) (write : Bool) (waiter : Nat) : State :=
  let vpn := va % 2 ^ 53 / 8192
  let key := fun (m : Miss) => m.die == dieOf c && m.ctx == ctx && m.vpn == vpn
  if s.ms.misses.any key then
    s.setMs fun ms =>
      { ms with misses := mapIf key (fun m =>
          { m with write := m.write || (write && !m.done && m.leaf.isNone)
                   waiters := if m.waiters.contains waiter then m.waiters else m.waiters ++ [waiter] }) ms.misses }
  else
    s.setMs fun ms =>
      { ms with misses := ms.misses ++
          [{ die := dieOf c, ctx := ctx, vpn := vpn, va := va, write := write, waiters := [waiter], core := c }] }

/-- The instruction at the PC waits for a walk of `va` (R125). -/
def awaitWalk (s : State) (k : AKind) (va : Nat) : State := (s.enterMiss s.myCore s.blk.ctx va k.writes s.cur).waitFor .walk

/-- The `n`-th miss is replaced. -/
def setMiss (s : State) (n : Nat) (m : Miss) : State := s.setMs fun ms => { ms with misses := ms.misses.set n m }

/-- DIE_CACHE_LOOKUP: a miss is looked up in the die's translation cache; one that misses there enters the table of 4,096 keys, or
waits while it is full (R181). -/
def dieLookup (s : State) (n : Nat) : State :=
  match s.ms.misses[n]? with
  | none => s
  | some m =>
    if m.looked then s
    else
      match s.ms.dieCache.find? (fun e => e.1 == m.die && e.2.ctx == m.ctx && e.2.maps m.va && (!m.write || e.2.d)) with
      | some (_, x) => s.setMiss n { m with looked := true, done := true, res := some x }
      | none =>
        if 4096 ≤ (s.ms.misses.filter fun x => x.die == m.die && x.looked).length then s
        else s.setMs fun ms => { ms with misses := dropAt ms.misses n ++ [{ m with looked := true }] }

/-- The walk's next address: table and index at a level (R173). -/
def pteAddr (m : Miss) : Nat := m.table + 8 * (m.va / 2 ^ (13 + 10 * m.level) % 1024)

/-- Whether an entry is one that the walk may not use (R174, R175): invalid, reserved bits, fields that must be 0, a leaf
or table at the wrong level, a reserved format. -/
def badPte (e level : Nat) : Bool :=
  let leaf := e.testBit 1
  let fmt := field e 58 6
  !e.testBit 0 || field e 46 10 != 0 || field e 8 5 != 0 ||
    (if leaf then
      level == 3 || (fmt != 0 && fmtReserved fmt) || (level == 1 && field e 13 10 != 0) || (level == 2 && field e 13 20 != 0)
    else level == 0 || fmt != 0 || field e 56 2 != 0 || e.testBit 7)
where
  /-- A format code that R225 reserves; the accumulator and metadata formats are listed there. -/
  fmtReserved (c : Nat) : Bool :=
    !((1 ≤ c && c ≤ 6) || (9 ≤ c && c ≤ 14) || (0x10 ≤ c && c ≤ 0x16) || (0x18 ≤ c && c ≤ 0x1E) || c == 0x20 ||
      c == 0x21 || c == 0x23)

/-- A leaf entry as a translation. -/
def leafXlat (m : Miss) (e : Nat) : Xlat :=
  let log2 := 13 + 10 * m.level
  { ctx := m.ctx, page := m.va % 2 ^ 53 / 2 ^ log2 * 2 ^ log2, log2 := log2, pa := field e 13 33 * 8192
    fmt := field e 58 6, srgn := field e 56 2, d := e.testBit 7, s := e.testBit 5, x := e.testBit 4, w := e.testBit 3
    r := e.testBit 2, pte := pteAddr m }

/-- The entry of the walk's level that the die's upper-level cache holds (R181). -/
def upperEntry (s : State) (m : Miss) : Option Nat :=
  if 2 ≤ m.level then
    (s.ms.upper.find? fun u => u.1 == m.die && u.2.ctx == m.ctx && u.2.level == m.level &&
      u.2.index == m.va % 2 ^ 53 / 2 ^ (13 + 10 * m.level)).map (·.2.entry)
  else none

/-- A level-3 or level-2 table entry enters the die's upper-level cache of 256 entries (R181, R183). -/
def upperInsert (s : State) (m : Miss) (e : Nat) : State :=
  if 2 ≤ m.level && (s.upperEntry m).isNone && !m.stale then
    s.setMs fun ms =>
      { ms with upper := (ms.upper.filter fun u => u.1 != m.die) ++
          (((m.die, { ctx := m.ctx, level := m.level, index := m.va % 2 ^ 53 / 2 ^ (13 + 10 * m.level), entry := e }) ::
            ms.upper.filter fun u => u.1 == m.die).take 256) }
  else s

/-- A walk's first table is the context's (R173). -/
def walkBegin (s : State) (m : Miss) : Miss :=
  if m.started then m else { m with started := true, level := 3, table := ((s.context m.ctx).map (·.root)).getD 0 }

/-- Whether the walk's next entry lies in device memory (R175). -/
def pteThere (m : Miss) : Bool := match aperture (pteAddr m) with
  | .device _ => true
  | _ => false

/-- The bits that a walk sets in its leaf: A, and D for a write (R176). -/
def pteBits (m : Miss) : Nat := 0x40 + (if m.write then 0x80 else 0)

/-- A walk uses the entry of its level: it fails, goes down a level, or has its leaf, whose A and D bits are to be set (R175, R176). -/
def walkUse (s : State) (m : Miss) (e : Nat) : State × Miss :=
  if badPte e m.level then (s, { m with req := none, done := true, res := none })
  else if e.testBit 1 then (s, { m with req := none, leaf := some e })
  else (s.upperInsert m e, { m with req := none, level := m.level - 1, table := field e 13 33 * 8192 })

/-- A walker sends a request of 8 bytes at the entry to its home. -/
def walkSend (s : State) (m : Miss) (op : HomeOp) : State × Miss :=
  let (id, s) := s.fresh
  let d := ((s.core m.core).l1Find (pteAddr m)).map fun l =>
    (lineBytes l.data (pteAddr m % 64) 8, (l.dirty.toNat >>> (pteAddr m % 64)) % 2 ^ 8)
  (s.sendReq .lat { id := id, hart := 0, src := .walker m.die, pa := pteAddr m, op := op },
   { m with req := some id, dirtyV := (d.getD (0, 0)).1, dirtyM := (d.getD (0, 0)).2 })

/-- The walker's answer to a miss's request, if it is there. -/
def walkAnswer (s : State) (m : Miss) : Option ((Nat × Nat) × State) :=
  s.pickMsg fun _ x => match x with
    | (.walker d, .resp id v bad) => if d == m.die && m.req == some id then some (v, bad) else none
    | _ => none

/-- Sets A and D of a leaf with an AMOOR.64 at its home; the reading core first writes back and invalidates what its L1 has of the entry
(R176, R189). -/
def walkMark (s : State) (m : Miss) : State × Miss :=
  let a := pteAddr m
  let dirty := ((s.core m.core).l1Find a).any fun l => l.dirty != 0
  if s.wbInFlight m.core a then (s, m)
  else if dirty then (s.l1WriteBack m.core 0 0 a, m)
  else
    let s := s.updCore m.core fun c => c.l1Invalidate a (byteMask (a % 64) 8)
    s.walkSend m (.amo .or 8 (pteBits m) 0)

/-- A step of a walk: its next entry is read at the entry's home, with the dirty bytes of the reading core's L1, or taken from the
upper-level cache; then its leaf is marked (R159, R175, R176, R181). -/
def walkLevel (s : State) (m : Miss) : State × Miss :=
  let m := s.walkBegin m
  match m.req with
  | none =>
    if m.leaf.isSome then s.walkMark m
    else if !pteThere m then (s, { m with done := true, res := none })
    else
      match s.upperEntry m with
      | some e => s.walkUse m e
      | none => s.walkSend m (.read 8)
  | some _ =>
    match s.walkAnswer m with
    | none => (s, m)
    | some ((v, bad), s) =>
      let keep := spread (BitVec.ofNat 64 m.dirtyM) 8
      match m.leaf with
      | some e =>
        if bad ≠ 0 then (s, { m with req := none, done := true, res := none, bad := true })
        else (s, { m with req := none, done := true, res := some (leafXlat m (e ||| pteBits m)) })
      | none =>
        if BitVec.ofNat 64 bad &&& ~~~(BitVec.ofNat 64 m.dirtyM) ≠ 0 then (s, { m with req := none, done := true, res := none, bad := true })
        else s.walkUse m ((m.dirtyV &&& keep) ||| (v - (v &&& keep)))

/-- PAGE_WALK: a step of one of at most 64 walks of a die, which start in the order of their misses (R181). -/
def walkStep (s : State) (n : Nat) : State :=
  match s.ms.misses[n]? with
  | none => s
  | some m =>
    let mine := fun (x : Miss) => x.die == m.die && x.looked && !x.done
    let walks := (s.ms.misses.filter fun x => mine x && x.started).length
    let first := !(s.ms.misses.take n).any fun x => mine x && !x.started
    if !m.looked || m.done || (!m.started && (64 ≤ walks || !first)) then s
    else
      let (s, m) := s.walkLevel m
      s.setMiss n m

/-- Puts a translation into a TLB of 512 entries, dropping the least recently used (R180). -/
def tlbInsert (s : State) (c : Nat) (x : Xlat) : State :=
  let s := s.setMs fun ms => { ms with useClock := ms.useClock + 1 }
  s.updCore c fun k =>
    let rest := k.tlb.filter fun y => !(y.ctx == x.ctx && y.page == x.page && y.log2 == x.log2)
    let rest := if 512 ≤ rest.length then
        match minBy (fun y : Xlat => y.use) rest with
        | some v => rest.filter fun y => !(y.ctx == v.ctx && y.page == v.page && y.log2 == v.log2)
        | none => rest
      else rest
    { k with tlb := { x with use := s.ms.useClock } :: rest }

/-- Marks the TLB entry of an address most recently used (R180). -/
def tlbTouch (s : State) (va : Nat) : State :=
  let s := s.setMs fun ms => { ms with useClock := ms.useClock + 1 }
  s.updCore s.myCore fun k =>
    { k with tlb := mapIf (fun y => y.ctx == s.blk.ctx && y.maps va) (fun y => { y with use := s.ms.useClock }) k.tlb }

/-- A prefetch through a page that allows it: PREF.l1 fetches the line's invalid bytes, PREF.slice brings the line into its
home slice (R418). -/
def prefetch (s : State) (c h : Nat) (x : Xlat) (lvl : Level) (va : Nat) (slice : Bool) : State :=
  let pa := x.phys va
  if !x.allows lvl .load || !paExists s.plat.scrReach pa || !cacheable pa || s.wbInFlight c pa then s
  else
    let (id, s) := s.fresh
    if slice then s.sendHome .lat c h id pa (.read 1)
    else if (s.core c).l1Ways.isEmpty || ((s.core c).l1Read (pa / 64 * 64) 64).isSome then s
    else (s.updCore c fun k => { k with prefs := k.prefs ++ [{ id := id, before := k.acquires, line := pa / 64 }] }).sendHome .lat c h id pa .fill

/-- The prefetches of a core that waited for the walk of a page are made, or dropped when it failed. -/
def prefetchAnswer (s : State) (c vpn : Nat) (r : Option Xlat) : State :=
  let mine := (s.core c).prefWait.filter fun p => p.2.1 % 2 ^ 53 / 8192 == vpn
  let s := s.updCore c fun k => { k with prefWait := k.prefWait.filter fun p => p.2.1 % 2 ^ 53 / 8192 != vpn }
  match r with
  | some x => mine.foldl (fun s p => s.prefetch c p.1 x (s.blkAt p.1).level p.2.1 p.2.2) s
  | none => s

/-- A walk's answer reaches one waiter: its core's TLB, and the buffer that its instruction or copy reads (R181). -/
def answerWaiter (s : State) (m : Miss) (w : Nat) : State :=
  let h := if 4000 ≤ w then w - 4000 else if 2000 ≤ w then w - 2000 else w
  let s := match m.res with
    | some x => if m.stale then s else s.tlbInsert (coreOf h) x
    | none => s
  let e : XEntry := { page := m.vpn * 8192, write := m.write, res := m.res, bad := m.bad }
  if 4000 ≤ w then s.prefetchAnswer (coreOf h) m.vpn m.res
  else s.updBlkAt h fun b =>
    if 2000 ≤ w then { b with ebuf := b.ebuf ++ [e] }
    else { b with xbuf := b.xbuf ++ [e], wait := if b.wait == some .walk then none else b.wait }

/-- Puts a translation into its die's cache of 16,384 entries: 1,024 sets of 16 by the low bits of the page number, the oldest of a full
set leaving (R181; the index and the choice are the model's, log entry 79). -/
def dieInsert (s : State) (die : Nat) (x : Xlat) : State :=
  let set := fun (y : Xlat) => y.page / 2 ^ y.log2 % 1024
  let same := fun (e : Nat × Xlat) => e.1 == die && e.2.ctx == x.ctx && e.2.page == x.page && e.2.log2 == x.log2
  let rest := s.ms.dieCache.filter fun e => !same e
  let inSet := fun (e : Nat × Xlat) => e.1 == die && set e.2 == set x
  let rest := if (rest.filter inSet).length < 16 then rest
    else
      match firstIdx inSet rest.reverse with
      | some i => dropAt rest (rest.length - 1 - i)
      | none => rest
  s.setMs fun ms => { ms with dieCache := (die, x) :: rest }

/-- Answers every waiter of a finished miss and fills the die's translation cache (R181). -/
def finishMiss (s : State) (m : Miss) : State :=
  let s := m.waiters.foldl (fun s w => s.answerWaiter m w) s
  match m.res with
  | some x => if m.stale then s else s.dieInsert m.die x
  | none => s

/-- PAGE_WALK_COMPLETE: a finished miss answers its waiters and leaves the table. -/
def walkDone (s : State) (n : Nat) : State :=
  match s.ms.misses[n]? with
  | none => s
  | some m =>
    if m.done then (s.setMs fun ms => { ms with misses := dropAt ms.misses n }).finishMiss m else s

end State

def execDieCacheLookup (n : Nat) (s : State) : Out := .next (s.dieLookup n)
def execPageWalk (n : Nat) (s : State) : Out := .next (s.walkStep n)
def execPageWalkComplete (n : Nat) (s : State) : Out := .next (s.walkDone n)

end Sys2Proof.Machine
end

