-- ==== Sys2Proof/Machine/Access.lean ====
section
/-! DEFINITION. One memory access of a hart: the checks of an address, loads through the store queue and L1 or at the
home, stores and AMOs into the store queue, releases and acquires (spec 08; spec 16 R411 to R414; R125, R157, R282). -/

namespace Sys2Proof.Machine

/-- The scope of a field (R313). -/
def scopeOf (n : Nat) : Scope :=
  match n with
  | 0 => .core
  | 1 => .device
  | _ => .system

/-! ## Halting a hart (R278, R279) -/

/-- HALTSTAT with HALTED and HALTREQ set and a REASON (R279). -/
def haltedStat (v : Word) (reason : Nat) : Word :=
  (v &&& ~~~(0xFF00 : Word)) ||| 0x9 ||| (BitVec.ofNat 64 reason <<< 8)

namespace State

/-- Hart `h` halts with a reason (R279). -/
def haltHart (s : State) (h reason : Nat) : State :=
  let b := s.blkAt h
  let s := s.trace (coreOf h) 4 h b.pc (BitVec.ofNat 64 reason)
  s.setBlkAt h { b with ctl := { b.ctl with haltstat := haltedStat b.ctl.haltstat reason }, skipBp := true }

end State

/-- The first watch register that an access of `n` bytes matches, of those that have not stopped element `elem` already, as `skip` has it
(R281, R282). -/
def Block.watchHit (b : Block) (skip : List (Nat × Nat)) (elem va n : Nat) (rd wr tile : Bool) : Option Nat :=
  (List.range 4).find? fun i => !skip.contains (elem, i) &&
    let l := (b.ctl.wpl[i]?.getD 0).toNat
    let a := (b.ctl.wpa[i]?.getD 0).toNat
    let len := field l 8 32
    len != 0 && (!tile || l.testBit 2) && ((wr && l.testBit 1) || (rd && l.testBit 0)) && va < a + len && a < va + n

/-! ## The store queue as a load sees it (R157, R367, R414, R417) -/

/-- What a load finds in the store queue. -/
inductive SqHit where
  | none
  | forward (v : Nat)
  | wait
  deriving DecidableEq, Repr

def overlap (a n b m : Nat) : Bool := a < b + m && b < a + n

/-- One entry against a load of `n` bytes. -/
def SqOp.hit (e : SqOp) (pa n : Nat) : SqHit :=
  match e with
  | .store elems _ vector =>
    match elems.find? (fun x => overlap pa n x.1 x.2.1) with
    | some (a, m, v) =>
      if !vector && a ≤ pa && pa + n ≤ a + m then .forward ((v >>> (8 * (pa - a))) % 2 ^ (8 * n)) else .wait
    | none => .none
  | .amo _ _ a m _ _ => if overlap pa n a m then .wait else .none
  | .frame _ a _ _ _ => if overlap pa n a 8 then .wait else .none
  | .writeBack line _ _ => if pa / 64 = line then .wait else .none
  | .gather g => if g.elems.any (fun x => overlap pa n x.2.1 g.n) then .wait else .none
  | .amoSeq es m _ _ => if es.any (fun x => overlap pa n x.2.1 m) then .wait else .none
  | .release _ w _ _ _ =>
    match w with
    | some (a, m, _) => if overlap pa n a m then .wait else .none
    | none => .none

/-- The youngest older entry that overlaps a load (R157). -/
def sqSearch : List SqOp → Nat → Nat → SqHit
  | [], _, _ => .none
  | e :: t, pa, n =>
    match e.hit pa n with
    | .none => sqSearch t pa n
    | h => h

/-- The store queue's answer to a load, and AMOs whose result has not returned (R414). -/
def Block.searchStores (b : Block) (pa n : Nat) : SqHit :=
  if b.pend.any (fun p => p.amo && overlap pa n p.pa p.n) then .wait else sqSearch b.sq.reverse pa n

/-! ## Checking an address (R266 item 5, R411) -/

/-- What the checks of an address find: the physical address, a walk to wait for, a trap, a watch register that halts. -/
inductive ProbeRes where
  | ok (pa : Nat) (x : Xlat)
  | miss
  | trap (r : FaultRec)
  | halt (reg : Nat)
  deriving DecidableEq, Repr

/-- What checking an address gives: the physical address, or the state in which the hart trapped, halted or waits. -/
inductive AddrRes where
  | ok (pa : Nat) (x : Xlat)
  | stop (s : State)

/-- The peer device and address of an offset in the peer aperture; none for an invalid window (R42). -/
def Fabric.peerTarget (f : Fabric) (off : Nat) : Option (Nat × Nat) :=
  let e := ((aget f.peerWin (off / 2 ^ 36)).getD 0).toNat
  if e.testBit 63 then some (e % 65536, field e 20 10 * 2 ^ 36 + off % 2 ^ 36) else none

namespace State

/-- The PASID of the context of the block in focus (R37). -/
def myPasid (s : State) : Option Nat := (s.context s.blk.ctx).map (·.pasid)

/-- Checks one access of the instruction at the PC, in the order ALIGN, WATCH, XLATE, PERM, and UNCORR of dirty L1 bytes (R411, R366, R58).
`elem` is the element for ESTART. For an invalid peer window the fault record holds the peer address (R43). -/
def probe (s : State) (k : AKind) (acc : Access) (va n elem : Nat) : ProbeRes :=
  let bad := fun (c : Cause) (d : Nat) =>
    ProbeRes.trap { cause := c, access := acc, va := BitVec.ofNat 64 va, estart := elem, detail := d }
  if va % n ≠ 0 then bad .align 0
  else
    match s.blk.watchHit s.blk.skipWatch elem va n (k == .load || k == .amo) k.writes false with
    | some i => if (s.blk.ctl.wpl[i]?.getD 0).getLsbD 3 then .halt i else bad .watch i
    | none =>
      match s.translate k va with
      | .miss => .miss
      | .fail c => bad c 0
      | .ok x pa =>
        match aperture pa with
        | .host a =>
          if k = .amo then bad .perm 0
          else if (s.ms.hostXlat s.myPasid a).isNone then bad .xlate 0
          else .ok pa x
        | .peer off =>
          if k ≠ .store && (s.fab.peerTarget off).isNone then
            .trap { cause := .perm, access := acc, va := BitVec.ofNat 64 pa, estart := elem }
          else .ok pa x
        | _ =>
          if k = .load && (s.core s.myCore).l1Bad pa n && s.blk.searchStores pa n == .none then bad .uncorr 0 else .ok pa x

/-- The hart halts at an element that register `i` watches (R279, R282). -/
def watchHalt (s : State) (elem i : Nat) : State :=
  (s.updBlk fun b => { b with estart := BitVec.ofNat 64 elem, skipWatch := (elem, i) :: b.skipWatch }).haltHart s.cur 3

/-- Checks one access and acts on what stops it. -/
def checkAddr (s : State) (k : AKind) (acc : Access) (va n elem : Nat) (lit : Option Word) : AddrRes :=
  match s.probe k acc va n elem with
  | .ok pa x => .ok pa x
  | .miss => .stop (s.awaitWalk k va)
  | .trap r => .stop (s.takeTrap r lit.isSome)
  | .halt i => .stop (s.watchHalt elem i)

/-! ## Peer messages (R38 to R43) -/

end State

namespace Fabric

/-- The route entry of a device; 0xF where none was written (R41). -/
def routeTo (f : Fabric) (dev : Nat) : Nat := (aget f.routes dev).getD 0xF

/-- The port in service that a message for a device leaves by; none when the device is unreachable. -/
def portFor (f : Fabric) (rank dev : Nat) : Option Nat :=
  let p := f.routeTo dev
  let x := (aget f.ports p).getD {}
  if rank != 0xFFFF && p < 8 && x.trained && x.up then some p else none

/-- The channel of a message (R39). -/
def channelOf (m : SxlMsg) : Channel :=
  match m.body with
  | .resp _ _ _ | .ack _ => .rsp
  | .stagger _ | .timeAsk _ | .timeTell _ _ _ => .ctl
  | _ => .req

/-- The bytes of a message: a header of 16 and what it carries (R39, R44; log entry 32). -/
def msgSize (m : SxlMsg) : Nat :=
  16 + match m.body with
    | .write _ bs _ => 16 + bs.length
    | .atomic _ _ _ _ _ => 16
    | .signal _ _ _ => 8
    | .resp _ n _ => n
    | .stagger _ | .timeTell _ _ _ => 24
    | .timeAsk _ => 8
    | .read _ _ | .clove | .ack _ => 0

/-- The messages of a channel that a flit takes, in their order, of those that wait at a port, while they fit into `room`; and the rest. -/
def takeFlit (p : Nat) (c : Channel) : Nat → List (Nat × SxlMsg) → List SxlMsg × List (Nat × SxlMsg)
  | _, [] => ([], [])
  | room, (q, m) :: t =>
    if q = p && channelOf m = c then
      if msgSize m ≤ room then
        let r := takeFlit p c (room - msgSize m) t
        (m :: r.1, r.2)
      else
        let r := takeFlit p c 0 t
        (r.1, (q, m) :: r.2)
    else
      let r := takeFlit p c room t
      (r.1, (q, m) :: r.2)

/-- A flit leaves by a port, if a message waits there and the retry buffer has room: the oldest message's channel, with as many whole
messages as fit into 240 bytes (R38, R39). -/
def pumpPort (f : Fabric) (p : Nat) : Fabric :=
  let x := (aget f.ports p).getD {}
  match f.queued.find? fun q => q.1 == p with
  | none => f
  | some (_, m) =>
    if 512 ≤ x.buf.length || !x.trained || !x.up then f
    else
      let (ms, rest) := takeFlit p (channelOf m) 240 f.queued
      let flit : Flit := { seq := x.txSeq, ack := x.rxSeq, channel := channelOf m, crcOk := true, msgs := ms }
      { f with
        queued := rest, outbox := f.outbox ++ [(p, flit)]
        ports := aset f.ports p { x with txSeq := (x.txSeq + 1) % 4096, buf := x.buf ++ [flit] } }

/-- Every port sends what waits at it; a device without a rank sends nothing (R36). -/
def pumpAll (f : Fabric) (rank : Nat) : Fabric :=
  if rank = 0xFFFF then f else f.queued.foldl (fun (g : Fabric) q => g.pumpPort q.1) f

/-- The answer that tells a message's source that its target cannot be reached (R41); an answer has none. -/
def unreach (m : SxlMsg) : Option SxlMsg :=
  let back := fun (b : SxlBody) => some { src := m.dst, dst := m.src, tag := m.tag, hops := 0, body := b : SxlMsg }
  match m.body with
  | .read _ _ | .atomic _ _ _ _ _ => back (.resp 1 0 0)
  | .write _ _ _ | .signal _ _ _ | .clove => back (.ack 1)
  | .resp _ _ _ | .ack _ | .stagger _ | .timeAsk _ | .timeTell _ _ _ => none

/-- A message leaves on its next hop, or, when it has none, is discarded and its source is told (R41). -/
def route (f : Fabric) (rank : Nat) (m : SxlMsg) : Fabric :=
  let out := if m.hops < 4 then f.portFor rank m.dst else none
  match out with
  | some p => { f with queued := f.queued ++ [(p, { m with hops := m.hops + 1 })] }
  | none =>
    match unreach m with
    | none => f
    | some r =>
      if r.dst = rank then { f with inbox := f.inbox ++ [{ port := 8, at_ := 0, msg := r }] }
      else
        match f.portFor rank r.dst with
        | some p => { f with queued := f.queued ++ [(p, { r with hops := 1 })] }
        | none => f

/-- Sends a request of this device and records who waits for its answer. -/
def request (f : Fabric) (rank h dev addr : Nat) (posted : Bool) (body : SxlBody) : Fabric :=
  let tag := f.tags
  let w : PeerWait := { tag := tag, hart := h, posted := posted, dev := dev, addr := addr, clove := body == .clove }
  route { f with tags := tag + 1, waits := f.waits ++ [w] } rank { src := rank, dst := dev, tag := tag, hops := 0, body := body }

end Fabric

namespace State

/-- Sends a request to a peer's memory (R39). -/
def sendPeer (s : State) (h dev addr : Nat) (posted : Bool) (body : SxlBody) : State :=
  let s := { s with fab := s.fab.request s.plat.rank h dev addr posted body }
  if posted then
    s.updCore (coreOf h) fun c => if c.peers.contains dev then c else { c with peers := c.peers ++ [dev] }
  else s

/-- A write to the peer aperture: an invalid window fails it at the next SYSTEM-scope release (R43, R221, R222). -/
def peerWrite (s : State) (h pa off : Nat) (body : Nat → SxlBody) : State :=
  match s.fab.peerTarget off with
  | some (dev, a) => s.sendPeer h dev pa true (body a)
  | none => s.updBlkAt h fun b => { b with failedWrite := some (b.failedWrite.getD (s.fab.tags, pa)) }

end State

/-! ## Loads (R157 to R159, R412) -/

/-- The dirty L1 bytes of an access as a request leaves: value and mask (R159). -/
def Core.dirtyBytes (c : Core) (pa n : Nat) : Nat × Nat :=
  match c.l1Find pa with
  | some l => (lineBytes l.data (pa % 64) n, (l.dirty.toNat >>> (pa % 64)) % 2 ^ n)
  | none => (0, 0)

/-- The loads and AMOs in flight: what is pending but instruction fetches. -/
def Block.reads (b : Block) : List PendLoad := b.pend.filter fun p => match p.dest with
  | .icache _ _ => false
  | _ => true

/-- Whether the hart may start another memory access: no acquire of it is in flight (R200). -/
def Block.memReady (b : Block) : Bool := !b.pend.any fun p => p.acquire.isSome

/-- Whether a release of the hart stands in its store queue (R413). -/
def Block.releasing (b : Block) : Bool :=
  b.sq.any fun e => match e with
    | .release _ _ _ _ _ => true
    | _ => false

/-- The scope of an access: SYSTEM where it reaches the host or peer aperture (R188). -/
def effScope (pa : Nat) (sc : Scope) : Scope :=
  match aperture pa with
  | .host _ | .peer _ => .system
  | _ => sc

/-- A value as a destination takes it. -/
def destWord (signed : Bool) (bits v : Nat) : Word := if signed then sextWord bits v else zextWord bits v

/-- Element `e` of width `w` in a vector register (R292). -/
def vGet (v : BitVec 8192) (w e : Nat) : Nat := (v.toNat >>> (e * w)) % 2 ^ w
def vSet (v : BitVec 8192) (w e x : Nat) : BitVec 8192 :=
  let m := BitVec.ofNat 8192 ((2 ^ w - 1) <<< (e * w))
  (v &&& ~~~m) ||| BitVec.ofNat 8192 ((x % 2 ^ w) <<< (e * w))

namespace State

/-- A loaded value reaches its destination on the hart in focus. -/
def deliver (s : State) (d : Dest) (v : Nat) : State :=
  match d with
  | .x r sg bits => s.writeX r (destWord sg bits v)
  | .vel r w e => s.updBlk fun b => b.setV r (vSet (b.getV r) w e v)
  | .icache vl line =>
    s.updCore s.myCore fun c =>
      { c with icache := { ctx := s.blk.ctx, vline := vl, line := line, data := BitVec.ofNat 512 v } :: c.icache.take 511 }
  | .frame kind => s.updBlk fun b =>
    { b with frameAns := some (kind, v), wait := if b.wait == some .frameAmo then none else b.wait }
  | .word va => s.updBlk fun b => { b with words := (va, v) :: b.words }
  | .none => s

/-- The clean bytes of the core's L1 become invalid as an acquire returns (R200). -/
def acquireAt (s : State) (sc : Scope) : State :=
  if sc = .core then s else s.updCore s.myCore fun c => c.l1InvalidateClean

/-- Whether a CORE-scope tile-atomic copy of the core holds a 64-byte line of an access (R184, R209). -/
def coreLocked (s : State) (c pa n : Nat) : Bool :=
  (s.core c).l1Locks.any fun l => pa / 64 ≤ l.line && l.line ≤ (pa + n - 1) / 64

/-- Loads in flight of the hart but for AMOs that still stand in its queue: they order before a DEVICE-scope write (R196). -/
def readsOut (s : State) : Bool :=
  let b := s.blk
  b.reads.any fun p => !b.sq.any fun e => match e with
    | .amo id _ _ _ _ _ => id == p.id
    | .frame id _ _ _ _ => id == p.id
    | _ => false

/-- A write to host memory is posted through the host port of the north die (R14, R37). -/
def hostStore (s : State) (pa v n : Nat) : State :=
  let (q, s) := s.fresh
  (s.setMs fun m => m.sysWrite s.myPasid pa (leBytes n v)).updCore s.myCore fun c => { c with hostPorts := [(0, q)] }

/-- Fetches under way on a core are forgotten: their lines enter no instruction cache, and the harts fetch again (R218, R219). -/
def dropFetches (s : State) (c : Nat) (p : PendLoad → Bool) : State :=
  { s with blocks := s.blocks.map fun (e : Nat × Block) =>
      (e.1, if coreOf e.1 == c then
        { e.2 with pend := e.2.pend.filter fun q => !((match q.dest with
            | .icache _ _ => true
            | _ => false) && p q) }
      else e.2) }

/-- The hart in focus reads bytes of its core's L1 (R201). -/
def seeBytes (s : State) (c pa n : Nat) : State := s.updCore c fun k => k.l1See (s.cur % 8) pa n

/-- Records a load in flight and sends its request. -/
def pendLoad (s : State) (p : PendLoad) (op : HomeOp) (c : Nat) : State :=
  let (id, s) := s.fresh
  let (dv, dm) := if cacheable p.pa then (s.core c).dirtyBytes p.pa p.n else (0, 0)
  let s := s.seeBytes c p.pa p.n
  let p := { p with id := id, before := (s.core c).acquires, pc := s.blk.pc, lit := s.blk.pcLit, dirtyV := dv, dirtyM := dm }
  (s.updBlk fun b => { b with pend := b.pend ++ [p] }).sendHome .lat c s.cur id p.pa op

/-- What starting a load gave. -/
inductive LoadRes where
  /-- the value is delivered -/
  | done (s : State)
  /-- a request is under way -/
  | sent (s : State)
  /-- an older store or AMO must go first -/
  | wait

/-- Starts one load of the hart in focus (R157 to R159, R412). A hit in L1 lets the hart's older reads of its bytes return first (R193).
`acq`: the scope of an acquire load (R413). -/
def startLoad (s : State) (va pa n : Nat) (sc : Scope) (acq : Option Scope) (d : Dest) (elem : Nat) : LoadRes :=
  let c := s.myCore
  let p : PendLoad := { id := 0, dest := d, pa := pa, n := n, fill := false, acquire := acq, before := 0, va := va, elem := elem }
  let finish := fun (s : State) (v : Nat) =>
    let s := s.deliver d v
    match acq with
    | some a => s.acquireAt a
    | none => s
  match s.blk.searchStores pa n with
  | .wait => .wait
  | .forward v => .done (finish s v)
  | .none =>
    match aperture pa with
    | .host a => .done (finish s (ofLe (((s.ms.sysRead s.myPasid (0x300000000000 + a) n)).getD [])))
    | .peer off =>
      match s.fab.peerTarget off with
      | some (dev, a) =>
        let tag := s.fab.tags
        let s := s.sendPeer s.cur dev a false (.read a n)
        .sent (s.updBlk fun b => { b with pend := b.pend ++ [{ p with id := 2 ^ 60 + tag, pc := b.pc, lit := b.pcLit }] })
      | none => .wait
    | .uncached _ => if s.wbInFlight c pa then .wait else .sent (s.pendLoad p (.read n) c)
    | _ =>
      if sc = .core && !(s.core c).l1Ways.isEmpty then
        if s.coreLocked c pa n then .wait
        else
          match (s.core c).l1Read pa n with
          | some v =>
            if s.blk.pend.any (fun p => p.covers pa n) then .wait
            else .done (finish ((s.updCore c fun x => x.l1Touch pa).seeBytes c pa n) v)
          | none => if s.wbInFlight c pa then .wait else .sent (s.pendLoad { p with fill := true } .fill c)
      else if s.wbInFlight c pa then .wait
      else .sent (s.pendLoad p (.read n) c)

/-- Whether the store queue has room (R125). -/
def sqRoom (s : State) : Bool := s.blk.sq.length < 16

/-- Puts an entry into the store queue. -/
def sqPush (s : State) (e : SqOp) : State := s.updBlk fun b => { b with sq := b.sq ++ [e] }

/-! ## Releases (R199) -/

/-- The scatters and atomic adds of the hart whose completion has not returned: entry 99 of its unacknowledged writes (R199 step 1). -/
def scattersOut (s : State) : Bool := s.blk.unacked.any fun u => u.2 == 99

/-- Whether the hart wrote dirty bytes of a line or observed another hart's (R199 step 2, R201). -/
def ownsLine (h : Nat) (l : L1Line) : Bool := l.writers.getLsbD (h % 8) || l.seen.getLsbD (h % 8)

/-- Whether a release of the hart at a scope has nothing to wait for or to send. -/
def quiescent (s : State) (sc : Scope) : Bool :=
  let b := s.blk
  let c := s.core s.myCore
  b.reads.isEmpty && b.sq.isEmpty && !s.scattersOut &&
    (sc == .core || (c.homes.isEmpty && !c.l1.any (ownsLine s.cur))) &&
    (sc != .system || (c.hostPorts.isEmpty && c.peers.isEmpty && b.failedWrite.isNone))

/-- Runs `k` once a release of the hart at a scope has been performed; until then the hart waits (R199, R205). A failed
peer write raises PERM instead (R43, R204). -/
def afterRelease (s : State) (sc : Scope) (lit : Option Word) (k : State → State) : State :=
  if s.quiescent sc || s.blk.rel == .done then
    match s.blk.failedWrite with
    | some a =>
      if sc = .system then
        (s.updBlk fun b => { b with failedWrite := none }).takeTrap
          { cause := .perm, access := .store, va := BitVec.ofNat 64 a.2 } lit.isSome
      else k s
    | none => k s
  else if s.blk.rel == .none then
    ((s.sqPush (.release sc none false .drain true)).updBlk fun b => { b with rel := .pending }).waitFor .release
  else s.waitFor .release

end State

end Sys2Proof.Machine
end

