-- ==== Sys2Proof/Machine/ScalarMem.lean ====
section
/-! DEFINITION. Group 4 but QFENCE: scalar loads and stores, atomics, fences, cache maintenance, prefetch, STPATCH and
IFENCE as they issue (spec 16 R410 to R420; spec 08 R199 to R202, R217 to R219). -/

namespace Sys2Proof.Machine

/-- EA of the address forms: X[base] + (X[index] << shift) + offset (R410). -/
def State.eaM (s : State) (f : FmtM) : Nat :=
  (s.getX f.base + s.getX f.index <<< f.shift.toNat + f.lit.getD (f.off.signExtend 64)).toNat

/-- EA of an AMO: X[base] + offset (R410). -/
def State.eaAmo (s : State) (f : FmtM) : Nat := (s.getX f.base + f.lit.getD (f.off.signExtend 64)).toNat

/-- What every access instruction does before its access: no acquire of the hart may be in flight (R200), then the
checks of R411; `k` goes on with the physical address. -/
def State.access (s : State) (k : AKind) (acc : Access) (va n : Nat) (lit : Option Word) (go : State → Nat → State) : State :=
  if !s.blk.memReady then s.waitFor .retry
  else
    match s.checkAddr k acc va n 0 lit with
    | .stop s => s
    | .ok pa _ => go (s.tlbTouch va) pa

/-- After a load is started: its hart goes on, but waits for the answer of a peer (R43). -/
def State.afterLoad (s : State) (pa : Nat) (lit : Option Word) (r : State.LoadRes) : State :=
  match r with
  | .done s => s.advance lit
  | .sent s =>
    match aperture pa with
    | .peer _ => s.waitFor .peer
    | _ => s.advance lit
  | .wait => s.waitFor .retry

/-- A load of `n` bytes (R195, R412); `acq`: LDA (R413). -/
def scalarLoad (n : Nat) (signed acq : Bool) (f : FmtM) (s : State) : Out :=
  guarded f.gm f.lit [f.base, f.index] (some f.d) (fun s =>
    if acq && s.blk.releasing then s.waitFor .retry
    else
      s.access .load .load (s.eaM f) n f.lit fun s pa =>
        let sc := effScope pa (scopeOf f.scope.toNat)
        s.afterLoad pa f.lit
          (s.startLoad (s.eaM f) pa n sc (if acq then some sc else none) (.x f.d signed (8 * n)) 0)) s

def execLds8 (f : FmtM) (s : State) : Out := scalarLoad 1 true false f s
def execLds16 (f : FmtM) (s : State) : Out := scalarLoad 2 true false f s
def execLds32 (f : FmtM) (s : State) : Out := scalarLoad 4 true false f s
def execLdz8 (f : FmtM) (s : State) : Out := scalarLoad 1 false false f s
def execLdz16 (f : FmtM) (s : State) : Out := scalarLoad 2 false false f s
def execLdz32 (f : FmtM) (s : State) : Out := scalarLoad 4 false false f s
def execLd64 (f : FmtM) (s : State) : Out := scalarLoad 8 false false f s
def execLda (dbl : Bool) (f : FmtM) (s : State) : Out := scalarLoad (if dbl then 8 else 4) false true f s

/-- A store of the low `n` bytes of X[d] (R412). -/
def scalarStore (n : Nat) (f : FmtM) (s : State) : Out :=
  guarded f.gm f.lit [f.base, f.index, f.d] none (fun s =>
    if !s.sqRoom then s.waitFor .retry
    else
      s.access .store .store (s.eaM f) n f.lit fun s pa =>
        (s.sqPush (.store [(pa, n, (s.getX f.d).toNat % 2 ^ (8 * n))] (effScope pa (scopeOf f.scope.toNat)) false)).advance
          f.lit) s

def execSt8 (f : FmtM) (s : State) : Out := scalarStore 1 f s
def execSt16 (f : FmtM) (s : State) : Out := scalarStore 2 f s
def execSt32 (f : FmtM) (s : State) : Out := scalarStore 4 f s
def execSt64 (f : FmtM) (s : State) : Out := scalarStore 8 f s

/-- Whether writes of the hart to peer memory may still fail (R43). -/
def State.peerWrites (s : State) : Bool :=
  s.blk.failedWrite.isSome || s.fab.waits.any (fun w => w.posted && w.hart == s.cur) ||
    s.blk.sq.any fun e => match e with
      | .store es _ _ => es.any fun x => match aperture x.1 with
        | .peer _ => true
        | _ => false
      | _ => false

/-- STL: a release store at the scope of its field, wherever its write goes (R222); its hart goes on but for a SYSTEM-scope release whose
peer writes may fail, which waits (R413, R43, R204). -/
def execStl (dbl : Bool) (f : FmtM) (s : State) : Out :=
  let n := if dbl then 8 else 4
  guarded f.gm f.lit [f.base, f.index, f.d] none (fun s =>
    if (s.blk.releasing && s.blk.rel == .none) || !s.sqRoom then s.waitFor .retry
    else
      s.access .store .store (s.eaM f) n f.lit fun s pa =>
        let sc := scopeOf f.scope.toNat
        let push := fun (s : State) =>
          (s.sqPush (.release sc (some (pa, n, (s.getX f.d).toNat % 2 ^ (8 * n))) false .drain false)).advance f.lit
        if sc = .system && (s.peerWrites || s.blk.rel != .none) then s.afterRelease .system f.lit push else push s) s

/-- An AMO of `n` bytes: an entry of the store queue and a result in flight (R414). AMOCAS compares with X[d]. -/
def scalarAmo (op : AmoOp) (n : Nat) (f : FmtM) (s : State) : Out :=
  guarded f.gm f.lit ([f.base, f.index] ++ if op = .cas then [f.d] else []) (some f.d) (fun s =>
    if !s.sqRoom then s.waitFor .retry
    else
      s.access .amo .atomic (s.eaAmo f) n f.lit fun s pa =>
        let v := (s.getX f.index).toNat % 2 ^ (8 * n)
        let cmp := (s.getX f.d).toNat % 2 ^ (8 * n)
        let (id, s) := s.fresh
        let p : PendLoad :=
          { id := id, dest := .x f.d false (8 * n), pa := pa, n := n, fill := false, acquire := none, before := 0
            pc := s.blk.pc, lit := f.lit.isSome, va := s.eaAmo f, amo := true }
        let s := (s.sqPush (.amo id op pa n v cmp)).updBlk fun b => { b with pend := b.pend ++ [p] }
        match aperture pa with
        | .peer _ => s.waitFor .peer
        | _ => s.advance f.lit) s

def execAmoadd (dbl : Bool) (f : FmtM) (s : State) : Out := scalarAmo .add (if dbl then 8 else 4) f s
def execAmoand (dbl : Bool) (f : FmtM) (s : State) : Out := scalarAmo .and (if dbl then 8 else 4) f s
def execAmoor (dbl : Bool) (f : FmtM) (s : State) : Out := scalarAmo .or (if dbl then 8 else 4) f s
def execAmoxor (dbl : Bool) (f : FmtM) (s : State) : Out := scalarAmo .xor (if dbl then 8 else 4) f s
def execAmomin (dbl : Bool) (f : FmtM) (s : State) : Out := scalarAmo .min (if dbl then 8 else 4) f s
def execAmomax (dbl : Bool) (f : FmtM) (s : State) : Out := scalarAmo .max (if dbl then 8 else 4) f s
def execAmominn (dbl : Bool) (f : FmtM) (s : State) : Out := scalarAmo .minn (if dbl then 8 else 4) f s
def execAmomaxn (dbl : Bool) (f : FmtM) (s : State) : Out := scalarAmo .maxn (if dbl then 8 else 4) f s
def execAmoswp (dbl : Bool) (f : FmtM) (s : State) : Out := scalarAmo .swp (if dbl then 8 else 4) f s
def execAmocas (dbl : Bool) (f : FmtM) (s : State) : Out := scalarAmo .cas (if dbl then 8 else 4) f s
def execAmofadd (f : FmtM) (s : State) : Out := scalarAmo .faddF32 4 f s

/-! ## Fences (R415, R202) -/

/-- Every earlier read has returned, then the invalidation of R200. -/
def State.afterAcquire (s : State) (sc : Scope) (k : State → State) : State :=
  if s.blk.reads.isEmpty then k (s.acquireAt sc) else s.waitFor .retry

/-- A release store of the hart that another instruction must wait for (R413). -/
def State.olderRelease (s : State) : Bool := s.blk.releasing && s.blk.rel == .none

/-- FENCE.acq: earlier reads return, then the invalidation of R200. -/
def execFenceAcq (f : FmtM) (s : State) : Out :=
  guarded f.gm f.lit [] none (fun s =>
    if s.olderRelease then s.waitFor .retry
    else s.afterAcquire (scopeOf f.scope.toNat) fun s => s.advance f.lit) s

/-- FENCE.rel: steps 1 to 4 of R199; no later instruction issues before it completes (R415; log entry 99). -/
def execFenceRel (f : FmtM) (s : State) : Out :=
  guarded f.gm f.lit [] none (fun s =>
    if s.olderRelease then s.waitFor .retry
    else s.afterRelease (scopeOf f.scope.toNat) f.lit fun s => s.advance f.lit) s

/-- FENCE.ar: the conditions of both. -/
def execFenceAr (f : FmtM) (s : State) : Out :=
  guarded f.gm f.lit [] none (fun s =>
    if s.olderRelease then s.waitFor .retry
    else s.afterRelease (scopeOf f.scope.toNat) f.lit fun s =>
      s.afterAcquire (scopeOf f.scope.toNat) fun s => s.advance f.lit) s

/-- IFENCE: steps 1 to 3 of R199 at DEVICE scope, then the core's instruction cache is empty (R218). -/
def execIfence (f : FmtM) (s : State) : Out :=
  guarded f.gm f.lit [] none (fun s =>
    if s.olderRelease then s.waitFor .retry
    else s.afterRelease .device f.lit fun s =>
      ((s.updCore s.myCore fun c => { c with icache := [] }).dropFetches s.myCore fun _ => true).advance f.lit) s

/-! ## Cache maintenance and prefetch (R417, R418) -/

/-- The physical address of a cache-maintenance instruction, which checks no permission: XLATE, a walk, or `go`. -/
def State.lineAccess (s : State) (f : FmtM) (go : State → Nat → State) : State :=
  if !s.blk.memReady then s.waitFor .retry
  else
    let va := s.eaM f
    match findPage (s.core s.myCore) s.blk.xbuf s.blk.ctx false va with
    | none => s.awaitWalk .load va
    | some none => s.raiseA (walkCause s.blk.xbuf va) .none va 0 f.lit
    | some (some x) => go (s.tlbTouch va) (x.phys va)

/-- CWB and CFLUSH take a store-queue entry (R417). -/
def lineWriteBack (flush : Bool) (f : FmtM) (s : State) : Out :=
  guarded f.gm f.lit [f.base, f.index] none (fun s =>
    if !s.sqRoom then s.waitFor .retry
    else s.lineAccess f fun s pa =>
      (if cacheable pa then s.sqPush (.writeBack (pa / 64) flush false) else s).advance f.lit) s

def execCwb (f : FmtM) (s : State) : Out := lineWriteBack false f s
def execCflush (f : FmtM) (s : State) : Out := lineWriteBack true f s

/-- CINV: the line's clean bytes become invalid (R417). -/
def execCinv (f : FmtM) (s : State) : Out :=
  guarded f.gm f.lit [f.base, f.index] none (fun s =>
    s.lineAccess f fun s pa =>
      (if cacheable pa then s.updCore s.myCore fun c => c.l1Upd pa fun l => { l with valid := l.dirty } else s).advance
        f.lit) s

/-- PREF never waits: on a TLB miss the prefetch is made when the walk has answered (R418). -/
def execPref (f : FmtM) (s : State) : Out :=
  guarded f.gm f.lit [f.base, f.index] none (fun s =>
    let va := s.eaM f
    let c := s.myCore
    let slice := f.d == 1
    let s := match findPage (s.core c) s.blk.xbuf s.blk.ctx false va with
      | some (some x) => s.prefetch c s.cur x s.blk.level va slice
      | some none => s
      | none =>
        (s.enterMiss c s.blk.ctx va false (prefetchWaiter s.cur)).updCore c fun k => { k with prefWait := k.prefWait ++ [(s.cur, va, slice)] }
    s.advance f.lit) s

/-! ## STPATCH (R419, R219) -/

/-- Every core is asked to drop a line from its instruction cache for a STPATCH of the hart in focus (R219 steps 1 and 2). -/
def State.sendDrops (s : State) (from_ : Node) (line core hart : Nat) : State :=
  (List.range 160).foldl (fun (s : State) c => s.send from_ (.core c) (.drop line core hart)) s

/-- STPATCH: one DEVICE-scope write whose performance drops the line from every instruction cache; the hart waits for the
acknowledgements. An older store of the hart to the same bytes, and its older DEVICE-scope reads, go first (R193, R196). Where the word
lies in host or peer memory no home of the device performs the write: the core posts it and sends the drop requests (log entry 80). -/
def execStpatch (f : FmtM) (s : State) : Out :=
  guarded f.gm f.lit [f.base, f.index, f.d] none (fun s =>
    s.access .store .store (s.eaM f) 8 f.lit fun s pa =>
      let v := (s.getX f.d).toNat
      let c := s.myCore
      if s.blk.searchStores pa 8 != .none || s.wbInFlight c pa || s.readsOut then s.waitFor .retry
      else
        match aperture pa with
        | .host _ => ((s.hostStore pa v 8).sendDrops (.core c) (pa / 64) c s.cur).issueWait (.patch 160)
        | .peer off =>
          ((s.peerWrite s.cur pa off fun a => .write a (leBytes 8 v) (List.replicate 8 true)).sendDrops (.core c) (pa / 64) c s.cur).issueWait
            (.patch 160)
        | _ =>
          let (id, s) := s.fresh
          let s := s.updCore c fun k => k.l1Through pa 8 v
          (s.sendHome .lat c s.cur id pa (.patch v)).issueWait (.patch 160)) s

end Sys2Proof.Machine
end

