-- ==== Sys2Proof/Machine/Home.lean ====
section
/-! DEFINITION. The homes: plain accesses and AMOs, slice fills, line locks, gather units, Clove markers, and the answers
that return to a core (spec 07 R152, R158, R159, R161, R162, R165, R184, R185; spec 08 R203, R219; R58, R112). -/

namespace Sys2Proof.Machine

/-! ## AMO results (R414) -/

/-- AMOFADD.f32: rounded to nearest even, subnormals kept, no flags. -/
def faddRNE (x y : Nat) : Nat :=
  (fmtF32.addV { mode := 0, sat := false, fzo := false, g := 0 } (fmtF32.decode x) (fmtF32.decode y)).1

/-- The new value of an AMO of `n` bytes; none when AMOCAS does not compare equal. -/
def amoNew (op : AmoOp) (n old v cmp : Nat) : Option Nat :=
  let w := 8 * n
  match op with
  | .add => some ((old + v) % 2 ^ w)
  | .and => some (old &&& v)
  | .or => some (old ||| v)
  | .xor => some (old ^^^ v)
  | .min => some (if toSigned w v < toSigned w old then v else old)
  | .max => some (if toSigned w old < toSigned w v then v else old)
  | .minn => some (if v < old then v else old)
  | .maxn => some (if old < v then v else old)
  | .swp => some v
  | .cas => if old = cmp then some v else none
  | .faddF32 => some (faddRNE old v)

/-- The change of a frame's word 1 by FORK, SYNC and TASKEND (R110, R112, R449); `cont` is CONT. None writes nothing. -/
def frameNew (kind : Nat) (cont : Nat) (inplace : Bool) (w : Nat) : Option Nat :=
  let join := w % 4096
  match kind with
  | 0 => if join = 4095 then none else some (w + 1)
  | 1 =>
    if join = 0 then none
    else some (join + 4096 + (if inplace then 8192 else 0) + (cont % 2 ^ 50) <<< 14)
  | _ =>
    let j := (join + 4095) % 4096
    let w := w - join + j
    some (if j = 0 && w.testBit 12 then w - 4096 else w)

namespace State

/-! ## Bytes at a home -/

/-- The line of a device address is brought into its slice if it is absent (R161). -/
def ensureLine (s : State) (pa : Nat) : State :=
  match aperture pa with
  | .device a => s.setMs fun m => (m.sliceAlloc (s.plat.scrWays[stackOf pa]?.getD 0) a).touch a
  | _ => s

/-- A read of `n` bytes at the home. Through the uncached alias it goes to HBM4E: a free choice says whether the present
value has reached it (R152; log entry 10). -/
def homeLoad (s : State) (pa n : Nat) : Nat × State :=
  match aperture pa with
  | .uncached a =>
    (if Config.aliasReadsCurrent s.free then s.ms.homeRead a n else s.ms.hbmRead a n, { s with free := s.free + 1 })
  | _ => (s.ms.homeRead pa n, s)

/-- A masked write of `n` bytes at the home (R152, R161). -/
def homeStore (s : State) (pa v mask n : Nat) : State :=
  match aperture pa with
  | .uncached a => s.setMs fun m => m.aliasWrite a v mask n
  | _ => s.setMs fun m => m.homeWriteMask pa v mask n

/-- Bit i is 1 when byte `a + i` is uncorrectable (R58). -/
def badMask (s : State) (a : Nat) : Nat → Nat
  | 0 => 0
  | n + 1 => badMask s a n + (if s.ms.bad.contains (a + n) then 2 ^ n else 0)

/-! ## Performing a request (R162, R189) -/

/-- The home performs a request and sends its answer; the far die learns that a write across the bridge has been applied (R198). An AMO
on uncorrectable data changes nothing (R58, R411). -/
def performReq (s : State) (r : HomeReq) : State :=
  let s := match r.clock with
    | some (n, _) => s.setMs fun m => { m with crossDone := m.crossDone.setIfInBounds r.src.die n }
    | none => s
  let here := Node.stack (stackOf r.pa)
  let s := match r.op with
    | .frame _ _ _ | .amo _ _ _ _ => s.ensureLine (homeAddr r.pa)
    | _ => s.ensureLine r.pa
  let a := homeAddr r.pa
  match r.op with
  | .read n =>
    let bad := s.badMask a n
    let (v, s) := s.homeLoad r.pa n
    s.send here r.src (.resp r.id v bad)
  | .fill =>
    let l := r.pa / 64 * 64
    s.send here r.src (.fill r.id l (s.ms.homeRead l 64) (s.badMask l 64))
  | .write v mask n =>
    let s := s.homeStore r.pa v mask n
    if r.id = 0 then s else s.send here r.src (.ack r.id)
  | .amo op n v cmp =>
    let bad := s.badMask a n
    let old := s.ms.homeRead a n
    let s := match amoNew op n old v cmp with
      | some w => if bad = 0 then s.homeStore r.pa w (2 ^ n - 1) n else s
      | none => s
    s.send here r.src (.resp r.id old bad)
  | .frame kind cont inplace =>
    let bad := s.badMask a 8
    let old := s.ms.homeRead a 8
    let s := match frameNew kind cont inplace old with
      | some w => if bad = 0 then s.homeStore r.pa w 0xFF 8 else s
      | none => s
    s.send here r.src (.resp r.id old bad)
  | .patch v => (s.homeStore r.pa v 0xFF 8).sendDrops here (a / 64) (coreOf r.hart) r.hart

/-! ## What holds an access (R61, R163) -/

/-- Whether the row of a device address is being copied to a spare: its home holds accesses (R61). -/
def rowHeld (s : State) (a : Nat) : Bool :=
  s.plat.rows.any fun r => r.copying && r.stack == stackOf a && Config.rowOf r.stack (stackOffset a) == r.row

/-- Whether a home holds an access to an address: its row is being copied to a spare (R61), its scratch is being changed (R163). -/
def held (s : State) (pa : Nat) : Bool :=
  match aperture pa with
  | .device a | .uncached a => s.rowHeld a
  | .scratch t off => s.plat.scrHeld t off
  | _ => false

/-! ## Gather units: one element (R165) -/

/-- A unit performs one element at its home: the value written or read, and whether it is uncorrectable (R58). -/
def gatherOne (s : State) (g : GatherReq) (pa v : Nat) : Nat × Bool × State :=
  let s := s.ensureLine pa
  if g.write then (v, false, s.homeStore pa v (2 ^ g.n - 1) g.n)
  else
    let bad := s.ms.anyBad (homeAddr pa) g.n
    let (v, s) := s.homeLoad pa g.n
    (v, bad, s)

/-- The lowest of two elements, if any. -/
def lowest (a b : Option Nat) : Option Nat :=
  match a, b with
  | some a, some b => some (min a b)
  | some a, none => some a
  | none, b => b

/-- The first element of a unit's work is performed. -/
def workElem (s : State) (w : GatherWork) : State × GatherWork :=
  match w.todo with
  | [] => (s, w)
  | (e, pa, v) :: t =>
    let (x, bad, s) := s.gatherOne w.req pa v
    (s, { w with
      todo := t, waits := false, done := w.done ++ [(e, pa, x)]
      req := { w.req with bad := lowest w.req.bad (if bad then some e else none) } })

/-- Which work of a unit a waiting element belongs to. -/
def isWork (stack id : Nat) (fwd : Bool) (w : GatherWork) : Bool := w.stack == stack && w.req.id == id && w.fwd == fwd

/-- A waiting element is performed when its line's queue comes to it (R185). -/
def serveElem (s : State) (stack id : Nat) (fwd : Bool) : State :=
  match s.ms.gathers.find? (isWork stack id fwd) with
  | some w =>
    let (s, w) := s.workElem w
    s.setMs fun m => { m with gathers := mapIf (isWork stack id fwd) (fun _ => w) m.gathers }
  | none => s

/-! ## Line locks (R184, R185) -/

/-- Puts a waiter into the queue of a locked line. -/
def joinQueue (s : State) (line : Nat) (m : Msg) : State :=
  s.setMs fun ms => { ms with locks := mapIf (fun k => k.line == line) (fun k => { k with waiters := k.waiters ++ [m] }) ms.locks }

/-- A lock request takes its lines in ascending order; a line that is held makes it join that line's queue. -/
def lockLines (s : State) (stack : Nat) (r : LockReq) : List Nat → State
  | [] => s.send (.stack stack) (.core r.core) (.grant r.hart r.seq)
  | l :: t =>
    match s.ms.lockOf l with
    | some _ => s.joinQueue l (.lock { r with lines := l :: t })
    | none =>
      lockLines (s.setMs fun m => { m with locks := { line := l, holder := r.hart, seq := r.seq, waiters := [] } :: m.locks })
        stack r t

/-- Serves a freed line's queue: plain accesses in order until a lock request stands at the front, which takes the line. While the home
holds the line they wait as at their arrival (R61). -/
def serveWaiters (s : State) (stack line : Nat) : List Msg → State
  | [] => s
  | .lock r :: t =>
    let s := s.setMs fun m => { m with locks := { line := line, holder := r.hart, seq := r.seq, waiters := t } :: m.locks }
    s.lockLines stack r r.lines.tail
  | .req r :: t =>
    if s.held r.pa then s.setMs fun m => { m with inbox := (.req r :: t).map (fun x => (.stack stack, x)) ++ m.inbox }
    else serveWaiters (s.performReq r) stack line t
  | .gatherElem id fwd :: t => serveWaiters (s.serveElem stack id fwd) stack line t
  | _ :: t => serveWaiters s stack line t

/-- A release frees the lines of one granule at once and serves their queues (R184 step 4). -/
def unlockLines (s : State) (stack : Nat) (lines : List Nat) : State :=
  let freed := s.ms.locks.filter fun k => lines.contains k.line
  let s := s.setMs fun m => { m with locks := m.locks.filter fun k => !lines.contains k.line }
  freed.foldl (fun s k => s.serveWaiters stack k.line k.waiters) s

/-- Plain accesses in the wait buffer of a home (R185). -/
def waitingAt (s : State) (stack : Nat) : Nat :=
  (s.ms.locks.filter fun k => stackOf k.line == stack).foldl (fun n k =>
    n + (k.waiters.filter fun m => match m with
      | .req _ | .gatherElem _ _ => true
      | _ => false).length) 0

/-- Whether a home takes plain accesses: its wait buffer has room (R185). -/
def accepts (s : State) (stack : Nat) : Bool := s.waitingAt stack < 1024

/-! ## Picking what a home does next -/

/-- Whether the bytes of a request are ready at the home: a slice line (R161), and nothing holds them (R61, R163). -/
def lineReady (s : State) (r : HomeReq) : Bool :=
  !s.held r.pa && (match aperture r.pa with
    | .device a => (s.ms.sliceLine a).isSome
    | _ => true)

/-- The line of an element. -/
def elemLine (x : Nat × Nat × Nat) : Nat := lineOf (homeAddr x.2.1)

/-- Whether a message is a hart's access of a core to a 256-byte line that the core sent before its request `seq`. -/
def sentBefore (core line seq : Nat) (m : Msg) : Bool :=
  match m with
  | .req r => r.src == .core core && !r.engine && r.seq < seq && lineOf (homeAddr r.pa) == line
  | .gather g | .gatherFwd g => g.core == core && !g.engine && g.seq < seq && g.elems.any fun x => elemLine x == line
  | _ => false

/-- Whether the core's earlier requests for a line have all been performed: the home performs a core's requests for one line in the
order in which the core sent them (R193, R167; log entry 23). The engines' are unordered with them (R206). -/
def inOrder (s : State) (core line seq : Nat) : Bool :=
  !s.ms.packets.any (fun p => sentBefore core line seq p.msg) && !(s.ms.inbox.any fun m => sentBefore core line seq m.2) &&
    !s.ms.gathers.any fun w => w.req.core == core && !w.req.engine && w.req.seq < seq && w.todo.any fun x => elemLine x == line

/-- Whether every write that precedes a request in its die's vector clock has been applied (R198). -/
def clockDue (s : State) (r : HomeReq) : Bool :=
  match r.clock with
  | some (n, _) => n ≤ (s.ms.crossDone[r.src.die]?.getD 0) + 1
  | none => true

/-- Whether a request that reached its home is to be performed in its turn: not before what precedes it (R193, R198). -/
def inTurn (s : State) (r : HomeReq) : Bool :=
  s.clockDue r && (match r.src with
    | .core c => r.engine || s.inOrder c (lineOf (homeAddr r.pa)) r.seq
    | _ => true)

/-- Whether a message at a home is for a line, so that a later arrival for it waits: an access in its turn, or a lock request whose first
line it is (R162, R185). -/
def ahead (s : State) (stack line : Nat) (m : Node × Msg) : Bool :=
  match m with
  | (.stack t, .req r) => t == stack && lineOf (homeAddr r.pa) == line && s.inTurn r
  | (.stack t, .gather g) => t == stack && g.elems.any fun x => elemLine x == line
  | (.stack t, .gatherFwd g) => t == stack && g.elems.any fun x => elemLine x == line
  | (.stack t, .lock r) => t == stack && r.lines.head? == some line
  | _ => false

/-- Whether a gather unit has still to perform an element of a line. -/
def workAhead (s : State) (stack line : Nat) : Bool :=
  s.ms.gathers.any fun w => w.stack == stack && w.todo.any fun x => elemLine x == line

/-- The request that a home performs next: the first in its turn whose line is ready and for whose line nothing came before; the wait
buffer has room, but for the transfers of a lock holder (R162, R185). -/
def nextReq (s : State) (stack : Nat) : Option (HomeReq × State) :=
  s.pickMsg fun before m =>
    match m with
    | (.stack t, .req r) =>
      let line := lineOf (homeAddr r.pa)
      if t = stack && (s.accepts stack || r.holder.isSome) && s.inTurn r && !before.any (s.ahead stack line) && !s.workAhead stack line &&
          ((s.ms.lockOf line).isSome || s.lineReady r) then some r else none
    | _ => none

/-- Whether a request is a transfer of the copy that holds a lock (R184 step 3). -/
def LineLock.heldBy (k : LineLock) (r : HomeReq) : Bool := r.holder == some k.seq && k.holder == r.hart

/-- HOME_ACCESS: a home performs one request, or lets it join the queue of a locked line (R162, R185, R192,
R210). -/
def homeStep (s : State) (stack : Nat) : State :=
  match s.nextReq stack with
  | none => s
  | some (r, s) =>
    match s.ms.lockOf (lineOf (homeAddr r.pa)) with
    | some k => if LineLock.heldBy k r then s.performReq r else s.joinQueue k.line (.req r)
    | none => s.performReq r

/-- SLICE_MISS_FILL: the line that a request waits for enters the slice (R161). -/
def sliceFill (s : State) (stack line : Nat) : State :=
  let wanted := s.ms.inbox.any fun m => match m with
    | (.stack t, .req r) => t == stack && lineOf (homeAddr r.pa) == lineOf line
    | _ => false
  if wanted && stackOf line = stack && (s.ms.sliceLine line).isNone then s.ensureLine line else s

/-- MACE_LOCK_REQUEST: a home starts on a lock request (R184 step 2), after the plain accesses to its lines that arrived before it
(R162). -/
def lockStep (s : State) (stack : Nat) : State :=
  match s.pickMsg (fun before m => match m with
      | (.stack t, .lock r) =>
        if t == stack && !r.lines.any (fun l => (s.ms.lockOf l).isNone && (before.any (s.ahead stack l) || s.workAhead stack l)) then some r
        else none
      | _ => none) with
  | some (r, s) => s.lockLines stack r r.lines
  | none => s

/-! ## Clove markers (R203) -/

/-- Whether a home has performed every earlier request of a core: none before the marker, none waiting at a lock, none at its gather
unit. -/
def coreServed (s : State) (stack core : Nat) (before : List (Node × Msg)) : Bool :=
  !before.any (fun m => match m with
    | (.stack t, .req r) => t == stack && r.src == .core core
    | (.stack t, .gather g) => t == stack && g.core == core
    | (.stack t, .gatherFwd g) => t == stack && g.core == core
    | _ => false) &&
  !s.ms.locks.any (fun k => stackOf k.line == stack && k.waiters.any fun m => match m with
    | .req r => r.src == .core core
    | _ => false) &&
  !s.ms.gathers.any (fun g => g.stack == stack && g.req.core == core)

/-- CLOVE_MARKER: a home acknowledges a marker (R203 step 2). -/
def cloveStep (s : State) (stack : Nat) : State :=
  match s.pickMsg (fun before m => match m with
      | (.stack t, .clove c h) => if t == stack && s.coreServed stack c before then some (c, h) else none
      | _ => none) with
  | some ((c, h), s) => s.send (.stack stack) (.core c) (.cloveAck stack h)
  | none => s

/-! ## Answers that return to a core (R125, R158, R194, R200, R58) -/

/-- The hart of a core and its load that an answer is for. -/
def loadOf (s : State) (core id : Nat) : Option (Nat × PendLoad) :=
  s.blocks.findSome? fun (e : Nat × Block) =>
    if coreOf e.1 == core then (e.2.pend.find? fun p => p.id == id).map fun p => (e.1, p) else none

/-- UNCORR at the instruction that consumes the data: its launch is aborted (R58, R265). -/
def uncorrLoad (s : State) (h : Nat) (p : PendLoad) : State :=
  let fetch := match p.dest with
    | .icache _ _ => true
    | _ => false
  s.onHart h fun s =>
    (s.updBlk fun b => { b with pc := p.pc }).takeTrap
      { cause := .uncorr, access := if fetch then .fetch else if p.amo then .atomic else .load, va := BitVec.ofNat 64 p.va
        estart := p.elem } p.lit

/-- A load of hart `h` ends with a value: its destination, then the invalidation of an acquire (R200). -/
def endLoad (s : State) (h : Nat) (p : PendLoad) (v : Nat) : State :=
  s.onHart h fun s =>
    let s := s.updBlk fun b => { b with pend := b.pend.filter fun q => q.id != p.id }
    let s := s.deliver p.dest v
    match p.acquire with
    | some sc => s.acquireAt sc
    | none => s

/-- The value of a home read of `n` bytes with the dirty L1 bytes merged that were noted as its request left (R158, R159). -/
def mergedValue (dv dm n v : Nat) : Nat :=
  let m := spread (BitVec.ofNat 64 dm) n
  (dv &&& m) ||| (v - (v &&& m))

/-- The write of a hart of a core with this request has been performed (R198). -/
def acked_ (s : State) (core id : Nat) : State :=
  { s with blocks := s.blocks.map fun (e : Nat × Block) =>
      (e.1, if coreOf e.1 == core then { e.2 with unacked := e.2.unacked.filter fun u => u.1 != id } else e.2) }

/-- The value of a DEVICE-scope read or AMO reaches the load of a hart. -/
def loadAnswer (s : State) (core h : Nat) (p : PendLoad) (v bad : Nat) : State :=
  if BitVec.ofNat 64 bad &&& ~~~(BitVec.ofNat 64 p.dirtyM) ≠ 0 then s.uncorrLoad h p
  else
    match p.dest with
    | .icache _ _ => s.endLoad h p v
    | _ =>
      if p.amo || !cacheable p.pa then s.endLoad h p v
      else
        (s.updCore core fun c => c.l1Refresh (overOf p.newer (homeAddr p.pa / 64)) p.pa p.n v).endLoad h p
          (mergedValue p.dirtyV p.dirtyM p.n v)

/-- L1_FILL_ARRIVAL: a fill reaches a core. It installs bytes that the core has not written since it left; one that crossed an acquire
serves its read and installs nothing (R158, R193). -/
def fillStep (s : State) (core : Nat) : State :=
  match s.pickMsg (fun _ m => match m with
      | (.core c, .fill id l d bad) => if c == core then some (id, l, d, bad) else none
      | _ => none) with
  | none => s
  | some ((id, l, d, bad), s) =>
    let data := BitVec.ofNat 512 d
    let badM := BitVec.ofNat 64 bad
    let install := fun (s : State) (before : Nat) (over_ : BitVec 64) =>
      if (s.core core).l1Ways.isEmpty || before ≠ (s.core core).acquires then s
      else (s.l1Allocate core l).updCore core fun c => c.l1Fill l data badM over_
    match s.loadOf core id with
    | none =>
      match (s.core core).prefs.find? (fun p => p.id == id) with
      | some p => install (s.updCore core fun c => { c with prefs := c.prefs.filter fun p => p.id != id }) p.before p.newer
      | none => s
    | some (h, p) =>
      let over_ := overOf p.newer (l / 64)
      let here := match (s.core core).l1Find l with
        | some x => (x.data, x.dirty ||| (x.valid &&& over_), x.bad)
        | none => (0, 0, 0)
      let m := byteMask (p.pa % 64) p.n
      let own := BitVec.ofNat 64 (p.dirtyM <<< (p.pa % 64))
      if m &&& ((badM &&& ~~~here.2.1 &&& ~~~own) ||| here.2.2) ≠ 0 then s.uncorrLoad h p
      else
        let data' := mergeLine data (atOffset (p.pa % 64) p.dirtyV) own
        let v := lineBytes (mergeLine data' here.1 here.2.1) (p.pa % 64) p.n
        ((install s p.before over_).updCore core fun c => c.l1See (h % 8) p.pa p.n).endLoad h p v

/-- ICACHE_DROP_REQUEST: a core drops a line from its instruction cache and acknowledges (R219 step 2). A fetch of the line under way is
made again. -/
def dropStep (s : State) (core : Nat) : State :=
  match s.pickMsg (fun _ m => match m with
      | (.core c, .drop l p h) => if c == core then some (l, p, h) else none
      | _ => none) with
  | none => s
  | some ((l, p, h), s) =>
    let s := s.dropFetches core fun q => match q.dest with
      | .icache _ line => line == l
      | _ => false
    (s.updCore core fun c => { c with icache := c.icache.filter fun x => x.line != l }).send (.core core) (.core p) (.dropAck h)

/-- ICACHE_DROP_ACK: an acknowledgement reaches the issuing core; the last one completes the STPATCH (R219 step 3). -/
def dropAckStep (s : State) (core : Nat) : State :=
  match s.pickMsg (fun _ m => match m with
      | (.core c, .dropAck h) => if c == core then some h else none
      | _ => none) with
  | none => s
  | some (h, s) =>
    match (s.blkAt h).wait with
    | some (.patch (n + 1)) =>
      s.onHart h fun s => if n = 0 then s.finishOp else s.waitFor (.patch n)
    | _ => s

/-! ## Gather units: requests (R165, R166) -/

/-- Whether the first element of a unit's work may be performed now. -/
def elemFree (s : State) (w : GatherWork) (x : Nat × Nat × Nat) : Bool :=
  !s.held x.2.1 && (w.req.engine || s.inOrder w.req.core (elemLine x) w.req.seq)

/-- A unit goes on with a work: it performs its elements in order up to one whose line is locked, which joins that line's queue, or that
is held (R165, R185). -/
def workGo (s : State) (w : GatherWork) : Nat → State × GatherWork
  | 0 => (s, w)
  | n + 1 =>
    match w.todo with
    | [] => (s, w)
    | x :: _ =>
      if w.waits || !s.elemFree w x then (s, w)
      else if (s.ms.lockOf (elemLine x)).isSome then
        if s.accepts w.stack then (s.joinQueue (elemLine x) (.gatherElem w.req.id w.fwd), { w with waits := true }) else (s, w)
      else
        let (s, w) := s.workElem w
        workGo s w n

/-- A work that is complete leaves its unit: the result goes to the core, a group back to the first unit (R165 steps 4 and 5). -/
def workEnd (s : State) (w : GatherWork) : State :=
  if !w.todo.isEmpty || w.missing ≠ 0 then s.setMs fun m => { m with gathers := mapIf (isWork w.stack w.req.id w.fwd) (fun _ => w) m.gathers }
  else
    let s := s.setMs fun m => { m with gathers := m.gathers.filter fun x => !isWork w.stack w.req.id w.fwd x }
    if w.fwd then s.send (.stack w.stack) (.stack w.req.first) (.gatherRet { w.req with elems := w.done })
    else s.send (.stack w.stack) (.core w.req.core) (.gatherDone { w.req with elems := w.done })

/-- A unit goes on with one of its works. -/
def workStep (s : State) (w : GatherWork) : State :=
  let (s, w) := s.workGo w w.todo.length
  s.workEnd w

/-- A work of a unit that is complete or has an element to perform. -/
def workReady (s : State) (stack : Nat) (fwd : Bool) : Option GatherWork :=
  s.ms.gathers.find? fun w => w.stack == stack && w.fwd == fwd && !w.waits && (match w.todo with
    | [] => w.missing == 0
    | x :: _ => s.elemFree w x)

/-- Whether a unit may start on elements: nothing for their lines that came before is still to be performed (R162), and it holds fewer
works than it may (R166). -/
def unitFree (s : State) (stack : Nat) (fwd : Bool) (limit : Nat) (before : List (Node × Msg)) (elems : List (Nat × Nat × Nat)) : Bool :=
  (s.ms.gathers.filter fun w => w.stack == stack && w.fwd == fwd).length < limit && s.accepts stack &&
    !elems.any fun x => before.any (s.ahead stack (elemLine x)) || s.workAhead stack (elemLine x)

/-- Forwards elements to the units of their stacks, one group to each (R165 step 3). -/
def forwardElems (s : State) (stack : Nat) (g : GatherReq) (rest : List (Nat × Nat × Nat)) : State :=
  (List.range 12).foldl (fun (s : State) t =>
    let part := rest.filter fun x => stackOf x.2.1 == t
    if part.isEmpty then s else s.send (.stack stack) (.stack t) (.gatherFwd { g with elems := part })) s

/-- GATHER_REQUEST: a unit goes on with a request, or starts on one: it forwards what lies in other stacks and performs its own elements;
it holds at most 32 requests of cores (R165 steps 2 and 3, R166). -/
def gatherStep (s : State) (stack : Nat) : State :=
  match s.workReady stack false with
  | some w => s.workStep w
  | none =>
    match s.pickMsg (fun before m => match m with
        | (.stack t, .gather g) =>
          if t == stack && s.unitFree stack false 32 before (g.elems.filter fun x => stackOf x.2.1 == stack) then some g else none
        | _ => none) with
    | none => s
    | some (g, s) =>
      let (own, rest) := g.elems.partition fun x => stackOf x.2.1 == stack
      let w : GatherWork := { stack := stack, fwd := false, req := g, todo := own, missing := rest.length, done := [] }
      ((s.setMs fun m => { m with gathers := m.gathers ++ [w] }).forwardElems stack g rest).workStep w

/-- A forwarded group's results reach the first unit (R165 step 5). -/
def groupReturn (s : State) (stack : Nat) (g : GatherReq) : State :=
  match s.ms.gathers.find? (isWork stack g.id false) with
  | none => s
  | some w => s.workEnd { w with req := { w.req with bad := lowest w.req.bad g.bad }, missing := w.missing - g.elems.length, done := w.done ++ g.elems }

/-- GATHER_FORWARD_GROUP: a unit goes on with a forwarded group, or starts on one, at most 64 of them; or the first unit takes a returned
one (R165 steps 4 and 5, R166). -/
def gatherFwdStep (s : State) (stack : Nat) : State :=
  match s.workReady stack true with
  | some w => s.workStep w
  | none =>
    match s.pickMsg (fun before m => match m with
        | (.stack t, .gatherFwd g) => if t == stack && s.unitFree stack true 64 before g.elems then some (g, true) else none
        | (.stack t, .gatherRet g) => if t == stack then some (g, false) else none
        | _ => none) with
    | none => s
    | some ((g, true), s) =>
      let w : GatherWork := { stack := stack, fwd := true, req := g, todo := g.elems, missing := 0, done := [] }
      (s.setMs fun m => { m with gathers := m.gathers ++ [w] }).workStep w
    | some ((g, false), s) => s.groupReturn stack g

end State

/-! ## The events -/

def execHomeAccess (stack : Nat) (s : State) : Out := .next (s.homeStep stack)
def execSliceMissFill (stack line : Nat) (s : State) : Out := .next (s.sliceFill stack line)
def execCloveMarker (stack : Nat) (s : State) : Out := .next (s.cloveStep stack)
def execL1FillArrival (core : Nat) (s : State) : Out := .next (s.fillStep core)
def execIcacheDropRequest (core : Nat) (s : State) : Out := .next (s.dropStep core)
def execIcacheDropAck (core : Nat) (s : State) : Out := .next (s.dropAckStep core)
def execGatherRequest (stack : Nat) (s : State) : Out := .next (s.gatherStep stack)
def execGatherForwardGroup (stack : Nat) (s : State) : Out := .next (s.gatherFwdStep stack)
def execMaceLockRequest (stack : Nat) (s : State) : Out := .next (s.lockStep stack)

/-- MACE_RELEASE: a release frees one granule's lines (R184 step 4, R185). -/
def execMaceRelease (stack : Nat) (s : State) : Out :=
  match s.pickMsg (fun _ m => match m with
      | (.stack t, .release r) => if t == stack then some r else none
      | _ => none) with
  | some (r, s) => .next (s.unlockLines stack r.lines)
  | none => .next s

end Sys2Proof.Machine
end

