-- ==== Sys2Proof/Machine/StoreQueue.lean ====
section
/-! DEFINITION. The store queue of a hart: its head entry performs in L1, leaves the core, or takes a step of a release
(spec 06 R125; spec 07 R157; spec 08 R189, R198 to R204; spec 16 R413, R414, R417). -/

namespace Sys2Proof.Machine

namespace State

/-- The entry at the head of the store queue in focus frees. -/
def sqPop (s : State) : State := s.updBlk fun b => { b with sq := b.sq.tail }

/-- The head entry is replaced. -/
def sqHead (s : State) (e : SqOp) : State := s.updBlk fun b => { b with sq := e :: b.sq.tail }

/-- Whether a DEVICE- or SYSTEM-scope write of the hart may leave the core (R196, R198): no read is out, no write-back of the line is
on its way, and writes to other homes are acknowledged; one bound for the other die waits for no other write bound there, which its
vector clock orders (log entry 24). -/
def mayLeave (s : State) (pa : Nat) : Bool :=
  let far := fun (t : Nat) => t < 12 && t / 6 != dieOf s.myCore
  !s.readsOut && s.blk.unacked.all (fun u => u.2 == stackOf pa || (far u.2 && far (stackOf pa))) && !s.wbInFlight s.myCore pa

/-- A masked write of `n` bytes leaves the core for its home; its acknowledgement is awaited. -/
def sendWrite (s : State) (pa v n : Nat) : State :=
  let (id, s) := s.fresh
  (s.updBlk fun b => { b with unacked := b.unacked ++ [(id, stackOf pa)] }).sendHome .lat s.myCore s.cur id pa
    (.write v (2 ^ n - 1) n)

/-- A store of `n` bytes performs; none while it is held. One that performs in L1 lets the hart's older reads of its bytes return first
(R193), and one to a line whose write-back is under way waits for it (R154). -/
def performStore (s : State) (pa n v : Nat) (sc : Scope) : Option State :=
  let c := s.myCore
  match aperture pa with
  | .host _ => if s.readsOut then none else some (s.hostStore pa v n)
  | .peer off =>
    if s.readsOut then none
    else some (s.peerWrite s.cur pa off fun a => .write a (leBytes n v) (List.replicate n true))
  | _ =>
    if sc = .core && cacheable pa && !(s.core c).l1Ways.isEmpty then
      if s.coreLocked c pa n || s.wbInFlight c pa || s.blk.pend.any (fun p => p.covers pa n) then none
      else some ((s.l1Allocate c pa).updCore c fun x => x.l1Store (s.cur % 8) pa n v)
    else if s.mayLeave pa then
      some ((if cacheable pa then s.updCore c fun x => x.l1Through pa n v else s).sendWrite pa v n)
    else none

/-- An AMO to device memory: the line is written back, then its bytes become invalid and the request leaves (R189); `left` is what becomes
of its entry then. -/
def leaveAmo (s : State) (id pa n : Nat) (op : HomeOp) (left : State → State) : State :=
  let c := s.myCore
  if cacheable pa && ((s.core c).l1Find pa).any (fun l => l.dirty != 0) then s.l1WriteBack c s.cur 0 pa
  else if s.mayLeave pa then
    (left (s.updCore c fun x => if cacheable pa then x.l1Invalidate pa (byteMask (pa % 64) n) else x)).sendHome .lat c s.cur id pa op
  else s

/-- An AMO at the head of the queue (R414, R43). -/
def performAmo (s : State) (id : Nat) (op : AmoOp) (pa n v cmp : Nat) : State :=
  match aperture pa with
  | .peer off =>
    match s.fab.peerTarget off with
    | some (dev, a) =>
      if s.readsOut then s
      else
        let tag := s.fab.tags
        let s := (s.sendPeer s.cur dev a false (.atomic a n op v cmp)).sqPop
        s.updBlk fun b => { b with pend := mapIf (fun p => p.id == id) (fun p => { p with id := 2 ^ 60 + tag }) b.pend }
    | none =>
      (s.updBlk fun b =>
        { b with pend := b.pend.filter fun p => p.id != id, wait := none, sq := b.sq.tail }).takeTrap
        { cause := .perm, access := .atomic, va := BitVec.ofNat 64 pa } s.blk.pcLit
  | _ => s.leaveAmo id pa n (.amo op n v cmp) sqPop

/-- Loads, atomics and atomic adds of the hart in peer memory that are out. -/
def peerOut (s : State) : Bool :=
  (s.blk.reads.any fun p => 2 ^ 60 ≤ p.id) || s.blk.sq.any fun e => match e with
    | .amoSeq es _ _ _ => !es.isEmpty
    | _ => false

/-- VAMOADD: the first element's atomic add leaves once the one before has been performed; in peer memory it travels as an SXL ATOMIC
(R369, R216, R39). The entry frees after the last; a hart that waits for its peers then goes on (R43). -/
def performAmoSeq (s : State) (es : List (Nat × Nat × Nat)) (n : Nat) (sent : Option Nat) (pc : Word) : State :=
  match es, sent with
  | [], _ =>
    let s := s.sqPop
    if s.blk.wait == some .peer && !s.peerOut && s.blk.peerBad.isNone then s.finishOp else s
  | _ :: t, some id => if s.blk.pend.any fun p => p.id == id then s else s.sqHead (.amoSeq t n none pc)
  | (e, pa, v) :: _, none =>
    let note := fun (s : State) (id : Nat) => s.updBlk fun b => { b with pend := b.pend ++
      [{ id := id, dest := .none, pa := pa, n := n, fill := false, acquire := none, before := 0, pc := pc, va := pa, amo := true, elem := e }] }
    match aperture pa with
    | .peer off =>
      match s.fab.peerTarget off with
      | some (dev, a) =>
        if s.readsOut then s
        else
          let tag := s.fab.tags
          note ((s.sendPeer s.cur dev a false (.atomic a n .add v 0)).sqHead (.amoSeq es n (some (2 ^ 60 + tag)) pc)) (2 ^ 60 + tag)
      | none => s.updBlk fun b => { b with peerBad := some (e, pa), sq := b.sq.tail }
    | _ =>
      let (id, s) := s.fresh
      s.leaveAmo id pa n (.amo .add n v 0) fun s => note (s.sqHead (.amoSeq es n (some id) pc)) id

/-- Sends a gather or scatter request of a core to the unit of its first element (R165 step 2, R203). -/
def sendGather (s : State) (g : GatherReq) : State :=
  match g.elems with
  | [] => s
  | x :: _ =>
    let (q, s) := s.fresh
    let s := g.elems.foldl (fun (s : State) x => s.noteHome g.core (stackOf x.2.1) q) s
    s.send (.core g.core) (.stack (stackOf x.2.1)) (.gather { g with first := stackOf x.2.1, seq := q })

/-- VSTX (R165, R366): elements in the host and peer apertures perform on their own, the others leave in one request, whose completion is
awaited. -/
def performGather (s : State) (g : GatherReq) : State :=
  let c := s.myCore
  let home := fun (x : Nat × Nat × Nat) => match aperture x.2.1 with
    | .host _ | .peer _ => false
    | _ => true
  let own := g.elems.filter home
  if s.readsOut || !s.blk.unacked.isEmpty || own.any (fun x => s.wbInFlight c x.2.1) then s
  else
    let s := (g.elems.filter fun x => !home x).foldl (fun (s : State) x =>
      match aperture x.2.1 with
      | .peer off => s.peerWrite s.cur x.2.1 off fun a => .write a (leBytes g.n x.2.2) (List.replicate g.n true)
      | _ => s.hostStore x.2.1 x.2.2 g.n) s.sqPop
    let s := own.foldl (fun (s : State) x =>
      (s.noteBytes c x.2.1 (2 ^ g.n - 1) g.n).updCore c fun k => if cacheable x.2.1 then k.l1Through x.2.1 g.n x.2.2 else k) s
    if own.isEmpty then s
    else (s.updBlk fun b => { b with unacked := b.unacked ++ [(g.id, 99)] }).sendGather { g with elems := own }

/-- CWB and CFLUSH: the dirty bytes go to the home; the entry frees at the acknowledgement (R417). -/
def performWriteBack (s : State) (line : Nat) (flush sent : Bool) : State :=
  let c := s.myCore
  let pa := line * 64
  if sent then (if s.blk.unacked.isEmpty then s.sqPop else s)
  else
    match (s.core c).l1Find pa with
    | none => s.sqPop
    | some l =>
      let drop := fun (s : State) => if flush then s.updCore c fun x => { x with l1 := x.l1.filter fun y => y.line != line } else s
      if l.dirty = 0 then (drop (s.updCore c fun x => x.l1Clean pa)).sqPop
      else if s.mayLeave pa then
        let (id, s) := s.fresh
        let s := (s.l1WriteBack c s.cur id pa).updBlk fun b => { b with unacked := b.unacked ++ [(id, stackOf pa)] }
        (drop s).sqHead (.writeBack line flush true)
      else s

/-- Step 2 of R199: every line that the hart has written is written back and stays valid and clean; so is every line of which it has read
another hart's dirty bytes, since R201 makes visible what it observed too (log entry 81). -/
def writeBackMine (s : State) : State :=
  let c := s.myCore
  (s.core c).l1.foldl (fun (s : State) l => if ownsLine s.cur l then s.l1WriteBack c s.cur 0 (l.line * 64) else s) s

/-- A release at the head of the queue is complete: an instruction that waits for it goes on. -/
def releaseDone (s : State) (waiting : Bool) : State :=
  let s := s.sqPop
  if waiting then s.updBlk fun b => { b with rel := .done, wait := if b.wait == some .release then none else b.wait } else s

/-- A release has done steps 1 to 4: its write leaves, if it has one (R199 step 5, R455). Its entry frees once the write has been performed
(R413). -/
def releaseReady (s : State) (sc : Scope) (w : Option (Nat × Nat × Nat)) (add : Bool) (waiting : Bool) : State :=
  match w with
  | none => s.releaseDone waiting
  | some (pa, n, v) =>
    let sent := fun (id : Nat) => SqOp.release sc none false (.sent id) waiting
    match aperture pa, add with
    | .peer off, _ => (s.peerWrite s.cur pa off fun a => .signal a (BitVec.ofNat 64 v) add).releaseDone waiting
    | _, true =>
      let (id, s) := s.fresh
      s.leaveAmo id pa n (.amo .add n v 0) fun s =>
        (s.sqHead (sent id)).updBlk fun b => { b with unacked := b.unacked ++ [(id, stackOf pa)] }
    | _, false =>
      match s.performStore pa n v sc with
      | none => s
      | some t =>
        if t.blk.unacked.length = s.blk.unacked.length then t.releaseDone waiting
        else t.sqHead (sent ((t.blk.unacked.getLast?.map (·.1)).getD 0))

/-- The homes, or host ports, of a core's set to which it has sent nothing since number `upTo` leave the set. The rule clears the set;
requests sent after the marker stay in it, since no marker covers them (R203, R201; log entry 15). -/
def coveredUpTo (upTo : Nat) (l : List (Nat × Nat)) : List (Nat × Nat) := l.filter fun x => upTo < x.2

/-- A step of a release at the head of the queue (R199, R203, R204). When a CLOVE failed and no write did, the PERM has address 0 (R43; log
entry 93). -/
def performRelease (s : State) (sc : Scope) (w : Option (Nat × Nat × Nat)) (add : Bool) (ph : RelPhase) (waiting : Bool) :
    State :=
  let c := s.myCore
  let last := s.ms.nextId - 1
  let goOn := fun (s : State) (ph : RelPhase) => s.sqHead (.release sc w add ph waiting)
  let flush := fun (s : State) =>
    if sc = .system then
      let x := s.core c
      let s := x.peers.foldl (fun (s : State) dev => s.sendPeer s.cur dev 0 true .clove) s
      goOn s (.flush (x.hostPorts.map (·.1)) x.peers last)
    else goOn s .ready
  match ph with
  | .drain =>
    if s.readsOut || s.scattersOut then s
    else if sc = .core then goOn s .ready
    else
      let s := s.writeBackMine
      let homes := (s.core c).homes.map (·.1)
      let upTo := s.ms.nextId - 1
      let s := homes.foldl (fun (s : State) t => s.send (.core c) (.stack t) (.clove c s.cur)) s
      if homes.isEmpty then flush s else goOn s (.marked homes upTo)
  | .marked homes upTo => if homes.isEmpty then flush (s.updCore c fun x => { x with homes := coveredUpTo upTo x.homes }) else s
  | .flush hosts peers _ => if hosts.isEmpty && peers.isEmpty then goOn s .ready else s
  | .ready => s.releaseReady sc w add waiting
  | .sent id => if s.blk.unacked.any fun u => u.1 == id then s else s.releaseDone waiting

/-- STORE_PERFORM_L1: the head of the store queue in focus takes its next step. -/
def performHead (s : State) : State :=
  match s.blk.sq with
  | [] => s
  | .store [] _ _ :: _ => s.sqPop
  | .store ((pa, n, v) :: t) sc vec :: _ =>
    match s.performStore pa n v sc with
    | some s => if t.isEmpty then s.sqPop else s.sqHead (.store t sc vec)
    | none => s
  | .amo id op pa n v cmp :: _ => s.performAmo id op pa n v cmp
  | .frame id pa kind cont inplace :: _ => s.leaveAmo id pa 8 (.frame kind cont inplace) sqPop
  | .gather g :: _ => s.performGather g
  | .amoSeq es n sent pc :: _ => s.performAmoSeq es n sent pc
  | .writeBack line flush sent :: _ => s.performWriteBack line flush sent
  | .release sc w add ph waiting :: _ => s.performRelease sc w add ph waiting

/-- CLOVE_ACK_ARRIVAL: a home's acknowledgement reaches the release that sent the marker (R203 step 3). -/
def cloveAckStep (s : State) (core : Nat) : State :=
  match s.pickMsg (fun _ m => match m with
      | (.core c, .cloveAck t h) => if c == core then some (t, h) else none
      | _ => none) with
  | none => s
  | some ((t, h), s) =>
    s.updBlkAt h fun b =>
      match b.sq with
      | .release sc w add (.marked homes upTo) waiting :: rest =>
        { b with sq := .release sc w add (.marked (homes.filter (· != t)) upTo) waiting :: rest }
      | _ => b

/-- The number that stands for a queue's command where a hart's could stand: in what waits for a peer or for the host port. -/
def queueWaiter (n : Nat) : Nat := 9000 + n

/-- HOST_FLUSH_READ_COMPLETE: the zero-length reads of a SYSTEM-scope release have completed: a hart's, or the one that completes a queue's
command (R37, R72, R204). -/
def hostFlushed (s : State) (h : Nat) : State :=
  if 9000 ≤ h then s.updQueue (h - 9000) fun q => { q with flush := q.flush && q.status.isNone }
  else
  match (s.blkAt h).sq with
  | .release sc w add (.flush (_ :: _) peers upTo) waiting :: rest =>
    (s.updBlkAt h fun b => { b with sq := .release sc w add (.flush [] peers upTo) waiting :: rest }).updCore (coreOf h) fun c =>
      { c with hostPorts := coveredUpTo upTo c.hostPorts }
  | _ => s

end State

def execStorePerformL1 (h : Nat) (s : State) : Out := .next (s.onHart h State.performHead)
def execCloveAckArrival (core : Nat) (s : State) : Out := .next (s.cloveAckStep core)
def execHostFlushReadComplete (h : Nat) (s : State) : Out := .next (s.hostFlushed h)

end Sys2Proof.Machine
end

