-- ==== Sys2Proof/Machine/Fetch.lean ====
section
/-! DEFINITION. Instruction fetch: the word at an address through the instruction cache, and a word of memory that an instruction reads
for itself (spec 06 R124, R125; spec 08 R217, R218; spec 12 R307; spec 04 R88). -/

namespace Sys2Proof.Machine

/-- What a fetch gives: the word, or the state in which the hart trapped or waits. -/
inductive FetchRes where
  | ok (w : Word) (s : State)
  | stop (s : State)

/-- The word at an address of an instruction-cache line. -/
def ICLine.word (l : ICLine) (va : Nat) : Word := BitVec.ofNat 64 (lineBytes l.data (va % 64) 8)

/-- The number of the 64-byte line of a virtual address. -/
def vlineOf (va : Nat) : Nat := va % 2 ^ 53 / 64

/-- The instruction-cache line of a context's address. -/
def Core.icFind (c : Core) (ctx va : Nat) : Option ICLine :=
  c.icache.find? fun l => l.ctx == ctx && l.vline == vlineOf va

/-- A line enters a core's instruction cache of 512 lines (R124). -/
def Core.icInsert (c : Core) (l : ICLine) : Core := { c with icache := l :: c.icache.take 511 }

namespace State

/-- A fetch of hart in focus that waits for its line: what it leaves in flight. -/
def fetchPend (s : State) (va base id : Nat) (lit : Bool) : PendLoad :=
  { id := id, dest := .icache (vlineOf va) (homeAddr base / 64), pa := base, n := 64, fill := false, acquire := none, before := 0
    pc := s.blk.pc, lit := lit, va := va }

/-- Fetches the word at `va` for the hart in focus. A miss asks the home of the line for it, or the host or peer whose memory it is, and
the hart is not ready until the line arrives (R124, R125, R217, R307). `lit`: bit L of the instruction at the PC, for TCAUSE. -/
def fetchWord (s : State) (va : Nat) (lit : Bool) : FetchRes :=
  let c := s.myCore
  let fail := fun (s : State) (k : Cause) (a : Nat) =>
    FetchRes.stop (s.takeTrap { cause := k, access := .fetch, va := BitVec.ofNat 64 a } lit)
  match s.translate .fetch va with
  | .miss => .stop (s.awaitWalk .fetch va)
  | .fail k => fail s k va
  | .ok _ pa =>
    let s := s.tlbTouch va
    match (s.core c).icFind s.blk.ctx va with
    | some l => .ok (l.word va) s
    | none =>
      let base := pa / 64 * 64
      let out := s.blk.pend.any fun p => match p.dest with
        | .icache vl _ => vl == vlineOf va
        | _ => false
      let wait := fun (s : State) (p : PendLoad) => FetchRes.stop ((s.updBlk fun b => { b with pend := b.pend ++ [p] }).waitFor .retry)
      if out then .stop (s.waitFor .retry)
      else
        match aperture pa with
        | .host _ =>
          match s.ms.sysRead s.myPasid base 64 with
          | some bs =>
            let l : ICLine := { ctx := s.blk.ctx, vline := vlineOf va, line := homeAddr base / 64, data := BitVec.ofNat 512 (ofLe bs) }
            .ok (l.word va) (s.updCore c fun k => k.icInsert l)
          | none => fail s .xlate va
        | .peer off =>
          match s.blk.peerBad, s.fab.peerTarget (off / 64 * 64) with
          | some (_, a), _ => fail (s.updBlk fun b => { b with peerBad := none }) .perm a
          | none, none => fail s .perm pa
          | none, some (dev, a) => wait (s.sendPeer s.cur dev a false (.read a 64)) (s.fetchPend va base (2 ^ 60 + s.fab.tags) lit)
        | _ =>
          let (id, s) := s.fresh
          wait (s.sendHome .lat c s.cur id base (.read 64)) (s.fetchPend va base id lit)

/-- Goes on with the word at a virtual address, which the instruction at the PC reads with a DEVICE-scope read of its own; the hart waits
for it first. -/
def withWord (s : State) (va : Nat) (lit : Option Word) (k : Nat → State → State) : State :=
  let have_ := fun (s : State) => (s.blk.words.find? fun w => w.1 == va).map (·.2)
  match have_ s with
  | some v => k v s
  | none =>
    if s.blk.pend.any fun p => p.dest == .word va then s.waitFor .retry
    else
      match s.blk.peerBad with
      | some (_, a) => (s.updBlk fun b => { b with peerBad := none }).raiseA .perm .load a 0 lit
      | none =>
        if !s.blk.memReady then s.waitFor .retry
        else
          match s.checkAddr .load .load va 8 0 lit with
          | .stop s => s
          | .ok pa _ =>
            match (s.tlbTouch va).startLoad va pa 8 .device none (.word va) 0 with
            | .done s =>
              match have_ s with
              | some v => k v s
              | none => s
            | .sent s => s.waitFor .retry
            | .wait => s.waitFor .retry

end State

end Sys2Proof.Machine
end

