-- ==== Sys2Proof/Machine/Scalar.lean ====
section
/-! DEFINITION. Group 1: scalar integer and predicate instructions (spec 13 R327 to R332). None of them traps. -/

namespace Sys2Proof.Machine

/-- The second operand of format A: X[b] + sext(imm32), or + literal (R310). -/
def State.yA (s : State) (f : FmtA) : Word := s.getX f.b + f.lit.getD (f.imm.signExtend 64)

/-- The second operand of format A.f: X[b] + sext(imm28), or + literal (R310). -/
def State.yF (s : State) (f : FmtF) : Word := s.getX f.b + f.lit.getD (f.imm.signExtend 64)

/-- w32 of R328: the low 32 bits, sign-extended. -/
def w32 (v : Word) : Word := (v.setWidth 32).signExtend 64

/-- A format A instruction X[d] := op(X[a], y) (R327). -/
def scalarBin (f : FmtA) (op : Word → Word → Word) (s : State) : Out :=
  guarded f.gm f.lit [f.a, f.b] (some f.d) (fun s => (s.writeX f.d (op (s.getX f.a) (s.yA f))).advance f.lit) s

/-- A unary format A instruction X[d] := op(y) (R327). -/
def scalarUn (f : FmtA) (op : Word → Word) (s : State) : Out :=
  guarded f.gm f.lit [f.b] (some f.d) (fun s => (s.writeX f.d (op (s.yA f))).advance f.lit) s

/-! ## Results (R328) -/

/-- Signed quotient truncated towards zero; all ones for y = 0, −2^63 for −2^63 ÷ −1 (R247). -/
def divS (a y : Word) : Word := if y = 0 then BitVec.allOnes 64 else BitVec.ofInt 64 (a.toInt.tdiv y.toInt)
/-- Unsigned quotient; all ones for y = 0. -/
def divU (a y : Word) : Word := if y = 0 then BitVec.allOnes 64 else BitVec.ofNat 64 (a.toNat / y.toNat)
/-- Signed remainder with the sign of the dividend; the dividend for y = 0 (R247). -/
def remS (a y : Word) : Word := if y = 0 then a else BitVec.ofInt 64 (a.toInt.tmod y.toInt)
/-- Unsigned remainder; the dividend for y = 0. -/
def remU (a y : Word) : Word := if y = 0 then a else BitVec.ofNat 64 (a.toNat % y.toNat)

/-- The low six bits of a count. -/
def cnt6 (y : Word) : Nat := y.toNat % 64

/-- SEXT and ZEXT take n = y.bits(6..0), 64 when it is 0 or above 64. -/
def extWidth (y : Word) : Nat := if y.toNat % 128 = 0 || 64 < y.toNat % 128 then 64 else y.toNat % 128

/-! ## The bit fields of R329 -/

/-- The control word: position and length. -/
def bfPos (y : Word) : Nat := y.toNat % 64
def bfLen (y : Word) : Nat := y.toNat / 64 % 64 + 1

def bfxValue (a y : Word) : Word := sextWord (bfLen y) (a.toNat >>> bfPos y)
def bfxnValue (a y : Word) : Word := zextWord (bfLen y) (a.toNat >>> bfPos y)
def bfiValue (d a y : Word) : Word :=
  let mask := BitVec.ofNat 64 ((2 ^ bfLen y - 1) <<< bfPos y)
  (d &&& ~~~mask) ||| (BitVec.ofNat 64 ((a.toNat % 2 ^ bfLen y) <<< bfPos y) &&& mask)

/-! ## Conditions (R331) -/

/-- Condition code `c` on a and y. -/
def cond (c : Nat) (a y : Word) : Bool :=
  match c with
  | 0 => a == y
  | 1 => a != y
  | 2 => a.slt y
  | 3 => a.sle y
  | 4 => y.slt a
  | 5 => y.sle a
  | 6 => a.ult y
  | 7 => a.ule y
  | 8 => y.ult a
  | 9 => y.ule a
  | 10 => (a &&& y) != 0
  | _ => (a &&& y) == 0

/-! ## The instructions -/

def execAdd (w : Bool) (f : FmtA) (s : State) : Out := scalarBin f (fun a y => if w then w32 (a + y) else a + y) s
def execSub (w : Bool) (f : FmtA) (s : State) : Out := scalarBin f (fun a y => if w then w32 (a - y) else a - y) s
def execMul (w : Bool) (f : FmtA) (s : State) : Out := scalarBin f (fun a y => if w then w32 (a * y) else a * y) s
def execMulh (f : FmtA) (s : State) : Out :=
  scalarBin f (fun a y => BitVec.ofInt 64 ((a.toInt * y.toInt).shiftRight 64)) s
def execMulhn (f : FmtA) (s : State) : Out := scalarBin f (fun a y => BitVec.ofNat 64 (a.toNat * y.toNat / 2 ^ 64)) s
def execDiv (f : FmtA) (s : State) : Out := scalarBin f divS s
def execDivn (f : FmtA) (s : State) : Out := scalarBin f divU s
def execRem (f : FmtA) (s : State) : Out := scalarBin f remS s
def execRemn (f : FmtA) (s : State) : Out := scalarBin f remU s
def execAnd (f : FmtA) (s : State) : Out := scalarBin f (fun a y => a &&& y) s
def execOr (f : FmtA) (s : State) : Out := scalarBin f (fun a y => a ||| y) s
def execXor (f : FmtA) (s : State) : Out := scalarBin f (fun a y => a ^^^ y) s
def execAndn (f : FmtA) (s : State) : Out := scalarBin f (fun a y => a &&& ~~~y) s
def execOrn (f : FmtA) (s : State) : Out := scalarBin f (fun a y => a ||| ~~~y) s
def execShl (w : Bool) (f : FmtA) (s : State) : Out :=
  scalarBin f (fun a y => if w then w32 (a <<< (y.toNat % 32)) else a <<< cnt6 y) s
def execShr (w : Bool) (f : FmtA) (s : State) : Out :=
  scalarBin f (fun a y => if w then w32 (((a.setWidth 32) >>> (y.toNat % 32)).setWidth 64) else a >>> cnt6 y) s
def execSar (w : Bool) (f : FmtA) (s : State) : Out :=
  scalarBin f (fun a y => if w then w32 ((w32 a).sshiftRight (y.toNat % 32)) else a.sshiftRight (cnt6 y)) s
def execRol (f : FmtA) (s : State) : Out := scalarBin f (fun a y => a.rotateLeft (cnt6 y)) s
def execRor (f : FmtA) (s : State) : Out := scalarBin f (fun a y => a.rotateRight (cnt6 y)) s
def execMin (f : FmtA) (s : State) : Out := scalarBin f (fun a y => if a.slt y then a else y) s
def execMax (f : FmtA) (s : State) : Out := scalarBin f (fun a y => if a.slt y then y else a) s
def execMinn (f : FmtA) (s : State) : Out := scalarBin f (fun a y => if a.ult y then a else y) s
def execMaxn (f : FmtA) (s : State) : Out := scalarBin f (fun a y => if a.ult y then y else a) s
def execClz (f : FmtA) (s : State) : Out := scalarUn f (fun y => BitVec.ofNat 64 (clzN 64 y.toNat)) s
def execCtz (f : FmtA) (s : State) : Out := scalarUn f (fun y => BitVec.ofNat 64 (ctzN 64 y.toNat)) s
def execPopc (f : FmtA) (s : State) : Out := scalarUn f (fun y => BitVec.ofNat 64 (popCount 64 y.toNat)) s
def execBrev (f : FmtA) (s : State) : Out := scalarUn f (fun y => BitVec.ofNat 64 (revBits 64 y.toNat)) s
def execBswap (f : FmtA) (s : State) : Out :=
  scalarUn f (fun y => BitVec.ofNat 64 (ofLe (leBytes 8 y.toNat).reverse)) s
def execSext (f : FmtA) (s : State) : Out := scalarBin f (fun a y => sextWord (extWidth y) a.toNat) s
def execZext (f : FmtA) (s : State) : Out := scalarBin f (fun a y => zextWord (extWidth y) a.toNat) s
def execMov (f : FmtA) (s : State) : Out := scalarUn f (fun y => y) s
def execAbs (f : FmtA) (s : State) : Out := scalarUn f (fun y => if y.msb then -y else y) s
def execBfx (f : FmtA) (s : State) : Out := scalarBin f bfxValue s
def execBfxn (f : FmtA) (s : State) : Out := scalarBin f bfxnValue s

/-- BFI: X[d] is also a source (R329). -/
def execBfi (f : FmtA) (s : State) : Out :=
  guarded f.gm f.lit [f.a, f.b, f.d] (some f.d)
    (fun s => (s.writeX f.d (bfiValue (s.getX f.d) (s.getX f.a) (s.yA f))).advance f.lit) s

/-- LEA: X[a] + (X[b] << s) + offset (R330). -/
def execLea (f : FmtF) (s : State) : Out :=
  guarded f.gm f.lit [f.a, f.b] (some f.d)
    (fun s => (s.writeX f.d (s.getX f.a + s.getX f.b <<< f.fn.toNat + f.lit.getD (f.imm.signExtend 64))).advance f.lit) s

/-- SEL: X[a] when (P[n] xor negate) = 1, else y (R330). -/
def execSel (f : FmtF) (s : State) : Out :=
  guarded f.gm f.lit [f.a, f.b] (some f.d)
    (fun s => (s.writeX f.d (if s.blk.getP (f.fn.toNat % 8) != f.fn.getLsbD 3 then s.getX f.a else s.yF f)).advance f.lit) s

/-- SETP: P[d] := condition (R331). -/
def execSetp (f : FmtF) (s : State) : Out :=
  guarded f.gm f.lit [f.a, f.b] none
    (fun s => (s.writeP f.d.toNat (cond f.fn.toNat (s.getX f.a) (s.yF f))).advance f.lit) s

/-- SETX: X[d] := 1 or 0 (R331). -/
def execSetx (f : FmtF) (s : State) : Out :=
  guarded f.gm f.lit [f.a, f.b] (some f.d)
    (fun s => (s.writeX f.d (if cond f.fn.toNat (s.getX f.a) (s.yF f) then 1 else 0)).advance f.lit) s

/-- PLOG: a truth table of two predicates (R332). -/
def execPlog (f : FmtF) (s : State) : Out :=
  guarded f.gm f.lit [] none
    (fun s => (s.writeP f.d.toNat
      (f.fn.getLsbD (2 * (s.blk.getP f.a.toNat).toNat + (s.blk.getP f.b.toNat).toNat))).advance f.lit) s

end Sys2Proof.Machine
end

