-- ==== Sys2Proof/Machine/Control.lean ====
section
/-! DEFINITION. Group 3 but REP and EXIT: branches, calls, yields, traps and waits (spec 13 R340 to R350). -/

namespace Sys2Proof.Machine

/-- A taken transfer to a computed target; a misaligned one raises ALIGN at the transfer, and `link` is not made (R306,
R340). The PC is ready again two ck after issue. -/
def State.transfer (s : State) (target : Word) (lit : Option Word) (link : State → State) : State :=
  if target.toNat % 8 ≠ 0 then s.takeTrap { cause := .align, access := .fetch, va := target } lit.isSome
  else ((link s).jumpTo target).updBlk fun b => { b with bubble := true }

/-- The address of the next instruction (R340). -/
def State.linkOf (s : State) (lit : Option Word) : Word := s.blk.pc + BitVec.ofNat 64 (sizeOf lit)

/-- The target of format B (R341). -/
def State.targetB (s : State) (f : FmtB) : Word := s.blk.pc + f.off.signExtend 64

/-- BR (R341). -/
def execBr (f : FmtB) (s : State) : Out :=
  guarded f.gm none [] none (fun s => s.transfer (s.targetB f) none id) s

/-- CALL: the link, then the target (R341). -/
def execCall (f : FmtB) (s : State) : Out :=
  guarded f.gm none [] (some f.a) (fun s => s.transfer (s.targetB f) none fun s => s.writeX f.a (s.linkOf none)) s

/-- LOOP: counts X[a] down and goes to the target unless it is 0; on X0 it is always taken (R341). -/
def execLoop (f : FmtB) (s : State) : Out :=
  guarded f.gm none [f.a] (some f.a) (fun s =>
    let v := s.getX f.a - 1
    if v ≠ 0 then s.transfer (s.targetB f) none fun s => s.writeX f.a v else (s.writeX f.a v).advance none) s

/-- JMP (R342). -/
def execJmp (f : FmtA) (s : State) : Out :=
  guarded f.gm f.lit [f.b] none (fun s => s.transfer (s.yA f) f.lit id) s

/-- CALLR: the target is read before the link is written (R342, R340). -/
def execCallr (f : FmtA) (s : State) : Out :=
  guarded f.gm f.lit [f.b] (some f.d) (fun s => s.transfer (s.yA f) f.lit fun s => s.writeX f.d (s.linkOf f.lit)) s

/-- RET (R342). -/
def execRet (f : FmtA) (s : State) : Out :=
  guarded f.gm f.lit [f.b] none (fun s => s.transfer (s.yA f) f.lit id) s

/-- The address of entry `i` of the FUNCS section of a block's object; none when there is no such entry (R343, R88). -/
def State.funcEntry (s : State) (i : Nat) : Option Nat :=
  (s.launchOf s.blk.launch).bind fun l =>
    match l.obj.sections[3]? with
    | some (off, size) => if size ≠ 0 && i < l.obj.nfunc then some (l.obj.base + off + 8 * i) else none
    | none => none

/-- CALLT (R343): an entry that is not valid is served by the management cores (R91). -/
def execCallt (f : FmtA) (s : State) : Out :=
  guarded f.gm f.lit [f.b] (some f.d) (fun s =>
    let i := (s.yA f).toNat
    match s.funcEntry i with
    | none => s.mgmtAbort s.cur i 8
    | some va =>
      s.withWord va f.lit fun e s =>
        if e.testBit 0 then
          ((s.writeX f.d (s.linkOf f.lit)).jumpTo (BitVec.ofNat 64 (e / 8 * 8))).updBlk fun b => { b with bubble := true }
        else (s.updBlk fun b => { b with words := [] }).waitFor (.translate i)) s

/-- BRX: the entry of index min(X[a], y) of the table that follows (R344). -/
def execBrx (f : FmtA) (s : State) : Out :=
  guarded f.gm f.lit [f.a, f.b] none (fun s =>
    let i := min (s.getX f.a).toNat (s.yA f).toNat
    s.transfer (s.linkOf f.lit + BitVec.ofNat 64 (8 * i)) f.lit id) s

/-- YIELD: under GTO its hart becomes the youngest and no hart is current (R117 step 5). -/
def execYield (f : FmtA) (s : State) : Out :=
  guarded f.gm f.lit [] none (fun s =>
    let c := s.core s.myCore
    let s := if c.schedPol then s
      else (s.setCore s.myCore { c with nextAge := c.nextAge + 1, current := none }).updBlk fun b => { b with age := c.nextAge }
    s.advance f.lit) s

/-- NOP (R346). -/
def execNop (f : FmtA) (s : State) : Out := guarded f.gm f.lit [] none (fun s => s.advance f.lit) s

/-- TRAP: SOFTTRAP with the low 32 bits of y (R348). -/
def execTrap (f : FmtA) (s : State) : Out :=
  guarded f.gm f.lit [f.b] none (fun s =>
    if s.flawedX [f.b] then s.raise .uncorr f.lit else s.raiseD .softtrap ((s.yA f).toNat % 2 ^ 32) f.lit) s

/-- BRK: halts when DBGCTL.BRKH is set, else raises BREAK (R348, R279). -/
def execBrk (f : FmtA) (s : State) : Out :=
  guarded f.gm f.lit [] none (fun s =>
    if s.blk.ctl.brkh then ((s.haltHart s.cur 6).advance f.lit).updBlk fun b => { b with skipBp := true }
    else s.raise .breakc f.lit) s

/-- WFE: completes at once when the wake latch is set, else waits for it or for y ck (R349). -/
def execWfe (f : FmtA) (s : State) : Out :=
  guarded f.gm f.lit [f.b] none (fun s =>
    let y := (s.yA f).toNat
    if s.blk.wake then (s.updBlk fun b => { b with wake := false }).advance f.lit
    else s.issueWait (.wfe (if y = 0 then none else some (s.ck + y)))) s

/-- WFE_WAKE: a waiting WFE completes and clears the latch (R349). -/
def execWfeWake (h : Nat) (s : State) : Out :=
  match (s.blkAt h).wait with
  | some (.wfe deadline) =>
    if (s.blkAt h).wake || (match deadline with
        | some d => d ≤ s.ck
        | none => false) then
      .next (s.onHart h fun s => (s.updBlk fun b => { b with wake := false }).finishOp)
    else .next s
  | _ => .next s

/-- LEND in a hart's own stream raises ILLOP (R350). -/
def execLend (f : FmtA) (s : State) : Out := .next (s.raise .illop f.lit)

end Sys2Proof.Machine
end

