-- ==== Sys2Proof/Machine/Sfu.lean ====
section
/-! DEFINITION. The functions of VSFU, correctly rounded (spec 14 R357). A transcendental value is computed in fixed
point with 288 fraction bits, far more than any float operand of at most 24 significand bits needs to be told from a
rounding boundary; what is left below is marked. Exact cases are taken apart first. -/

namespace Sys2Proof.Machine

/-- Fraction bits of the fixed-point numbers. -/
def fxP : Nat := 288

/-- 1.0 in fixed point. -/
def fxOne : Int := (2 ^ fxP : Nat)

def fxMul (a b : Int) : Int := (a * b) / fxOne
def fxDiv (a b : Int) : Int := (a * fxOne) / b

/-- m × 2^e in fixed point, truncated. -/
def fxOf (m : Int) (e : Int) : Int :=
  let s := e + (fxP : Int)
  if 0 ≤ s then m * (2 ^ s.toNat : Nat) else m / (2 ^ (-s).toNat : Nat)

/-- atan(1/k) for a natural number k at `p` fraction bits: alternating series with `n` terms left. -/
def atanInv (k2 : Int) : Nat → Int → Int → Bool → Int → Int
  | 0, _, _, _, acc => acc
  | n + 1, pow, d, plus, acc =>
    let t := pow / d
    atanInv k2 n (pow / k2) (d + 2) (!plus) (if plus then acc + t else acc - t)

/-- π at `p` fraction bits, by Machin's formula. -/
def piAt (p : Nat) : Int :=
  let one : Int := (2 ^ p : Nat)
  4 * (4 * atanInv 25 (p / 4 + 8) (one / 5) 1 true 0 - atanInv 57121 (p / 15 + 8) (one / 239) 1 true 0)

/-- Σ x^n ÷ n!, from term `i`. -/
def expSeries (x : Int) : Nat → Nat → Int → Int → Int
  | 0, _, _, acc => acc
  | n + 1, i, t, acc => expSeries x n (i + 1) (fxMul t x / (i : Int)) (acc + t)

/-- e^x for a fixed-point x of magnitude below 1. -/
def fxExp (x : Int) : Int := expSeries x 70 1 fxOne 0

/-- 2 × atanh z = ln((1 + z) ÷ (1 − z)), from the odd power `t` and denominator `i`. -/
def atanhSeries (z2 : Int) : Nat → Nat → Int → Int → Int
  | 0, _, _, acc => acc
  | n + 1, i, t, acc => atanhSeries z2 n (i + 2) (fxMul t z2) (acc + t / (i : Int))

/-- ln of a fixed-point number between 1 and 2. -/
def fxLn (y : Int) : Int :=
  let z := fxDiv (y - fxOne) (y + fxOne)
  2 * atanhSeries (fxMul z z) 100 1 z 0

def fxLn2 : Int := fxLn (2 * fxOne)

/-- sin and cos series from a term and its index. -/
def trigSeries (x2 : Int) : Nat → Nat → Int → Int → Int
  | 0, _, _, acc => acc
  | n + 1, i, t, acc => trigSeries x2 n (i + 2) (-(fxMul t x2) / ((i * (i + 1) : Nat) : Int)) (acc + t)

def fxSin (x : Int) : Int := trigSeries (fxMul x x) 40 2 x 0
def fxCos (x : Int) : Int := trigSeries (fxMul x x) 40 1 fxOne 0

/-- A fixed-point number, times 2^k, as a magnitude to be rounded; never exact. -/
def fxRound (f : FFmt) (c : RndCtx) (v : Int) (k : Int) : FRes :=
  f.round c (v < 0) v.natAbs (k - (fxP : Int)) true

/-- Just below (`below`) or above m × 2^e. -/
def nearRound (f : FFmt) (c : RndCtx) (neg : Bool) (m : Nat) (e : Int) (below : Bool) : FRes :=
  f.round c neg (if below then (m <<< 80) - 1 else m <<< 80) (e - 80) true

/-- e^x × 2^0 for a fixed-point exponent x: reduced by multiples of ln 2. -/
def expParts (x : Int) : Int × Int :=
  let k := (x + fxLn2 / 2) / fxLn2
  (fxExp (x - k * fxLn2), k)

/-- Whether |m × 2^e| < 2^b. -/
def magBelow (m : Nat) (e b : Int) : Bool := m = 0 || e + (Nat.log2 m : Int) < b

/-- Rounds e^(m × 2^e) for a non-zero argument. -/
def expRes (f : FFmt) (c : RndCtx) (neg : Bool) (m : Nat) (e : Int) : FRes :=
  if magBelow m e (-100) then
    -- 1 + x and a little more: x² ÷ 2 lies below the last bit of x
    let one := 2 ^ (-e).toNat
    f.round c false (if neg then one - m else one + m) e true
  else if neg && !magBelow m e 12 then f.round c false 1 (-4000) true
  else
    -- beyond the range the significand still counts: D of R245 is taken from it; the exponent need only be as large
    let (v, k) := expParts (fxOf (signed neg m) e)
    fxRound f c v (min k 4000)

/-- Rounds 2^(m × 2^e) for a non-zero argument that is no integer. -/
def exp2Res (f : FFmt) (c : RndCtx) (neg : Bool) (m : Nat) (e : Int) : FRes :=
  if magBelow m e (-100) then
    -- 1 ± x ln 2, whose first 100 bits below 1 are all 0 or all 1
    nearRound f c false 1 0 neg
  else if neg && !magBelow m e 12 then f.round c false 1 (-4000) true
  else
    let x := fxOf (signed neg m) e
    let k := x / fxOne
    fxRound f c (fxExp (fxMul (x - k * fxOne) fxLn2)) (min k 4000)

/-- ln of m × 2^e, m > 0, in fixed point. -/
def lnFx (m : Nat) (e : Int) : Int :=
  let top := Nat.log2 m
  fxLn (fxOf m (-(top : Int))) + (e + top) * fxLn2

/-- sin or cos of m × 2^e: reduced modulo π ÷ 2 with enough bits of π for the argument. -/
def trigRes (f : FFmt) (c : RndCtx) (cosine : Bool) (neg : Bool) (m : Nat) (e : Int) : FRes :=
  if magBelow m e (-60) then
    if cosine then nearRound f c false 1 0 true else nearRound f c neg m e true
  else
    let p := fxP + 140
    let halfPi := piAt p / 2
    let x : Int := if 0 ≤ e + (p : Int) then (m : Int) * (2 ^ (e + (p : Int)).toNat : Nat)
      else (m : Int) / (2 ^ (-(e + (p : Int))).toNat : Nat)
    let k := (x + halfPi / 2) / halfPi
    -- the remainder at p bits of an argument times 2^128 keeps 160 good bits and more
    let piWide := piAt (p + 200)
    let xw := x * (2 ^ 200 : Nat)
    let r := (xw - k * (piWide / 2)) / (2 ^ 340 : Nat)
    let q := (k + (if cosine then 1 else 0)) % 4
    let v := if q % 2 = 0 then fxSin r else fxCos r
    let v := if q < 2 then v else -v
    fxRound f c (if neg && !cosine then -v else v) 0

/-- tanh of a non-zero argument. -/
def tanhRes (f : FFmt) (c : RndCtx) (neg : Bool) (m : Nat) (e : Int) : FRes :=
  if magBelow m e (-60) then nearRound f c neg m e true
  else if !magBelow m e 6 then nearRound f c neg 1 0 true
  else
    let (v, k) := expParts (fxOf (2 * (m : Int)) e)
    let y := v * (2 ^ k.toNat : Nat)
    fxRound f c (signed neg (fxDiv (y - fxOne) (y + fxOne)).natAbs) 0

/-- 1 ÷ (1 + e^−x) of a non-zero argument. -/
def sigmRes (f : FFmt) (c : RndCtx) (neg : Bool) (m : Nat) (e : Int) : FRes :=
  if magBelow m e (-60) then nearRound f c false 1 (-1) neg
  else if !magBelow m e 7 then
    if neg then (if magBelow m e 9 then
        let (v, k) := expParts (fxOf (-(m : Int)) e)
        -- e^x (1 − e^x), the rest far below
        f.round c false (v.natAbs * 2 ^ 160 - 1) (k - (fxP : Int) - 160) true
      else f.round c false 1 (-4000) true)
    else nearRound f c false 1 0 true
  else
    let (v, k) := expParts (fxOf (m : Int) e)
    let y := v * (2 ^ k.toNat : Nat)
    -- y = e^|x|: 1 ÷ (1 + y) or y ÷ (1 + y)
    if neg then f.round c false (fxDiv (fxOne * (2 ^ 200 : Nat)) (fxOne + y)).natAbs (-(fxP : Int) - 200) true
    else fxRound f c (fxDiv y (fxOne + y)) 0

/-- The reciprocal square root of m × 2^e, m > 0. -/
def rsqrtRes (f : FFmt) (c : RndCtx) (m : Nat) (e : Int) : FRes :=
  let m' := if e % 2 = 0 then m else 2 * m
  let e' := if e % 2 = 0 then e else e - 1
  let k := 160 + bitLen m'
  let q := 2 ^ (2 * k) / m'
  let r := isqrt (k + 2) q 0
  f.round c false r (-(e' / 2) - k) (r * r * m' ≠ 2 ^ (2 * k))

/-- VSFU's function `fn` of a value: result and flags (R357). -/
def sfu (f : FFmt) (c : RndCtx) (fn : Nat) (a : FVal) : FRes :=
  match a with
  | .nan s => f.nanRes s
  | .inf n =>
    match fn with
    | 0 => (f.zero n, 0)
    | 1 => if n then f.nanRes true else (f.zero false, 0)
    | 2 | 4 => if n then (f.zero false, 0) else (f.inf false, 0)
    | 3 | 5 => if n then f.nanRes true else (f.inf false, 0)
    | 6 | 7 => f.nanRes true
    | 8 => f.round c n 1 0 false
    | _ => if n then (f.zero false, 0) else f.round c false 1 0 false
  | .num n m e =>
    match fn with
    | 0 => if m = 0 then (f.inf n, flagDZ) else f.divV c (.num false 1 0) (.num n m e)
    | 1 => if m = 0 then (f.inf n, flagDZ) else if n then f.nanRes true else rsqrtRes f c m e
    | 2 =>
      if m = 0 then f.round c false 1 0 false
      else
        -- an integer argument gives a power of two
        let int := 0 ≤ e || (e < 0 && m % 2 ^ (-e).toNat = 0)
        if int then
          let k : Int := if magBelow m e 12 then (if 0 ≤ e then m <<< e.toNat else m >>> (-e).toNat : Nat) else 4000
          f.round c false 1 (if n then -k else k) false
        else exp2Res f c n m e
    | 3 =>
      if m = 0 then (f.inf true, flagDZ)
      else if n then f.nanRes true
      else
        let top := Nat.log2 m
        if m = 2 ^ top then f.roundV c (intVal (e + top)) else fxRound f c (fxDiv (lnFx m e) fxLn2) 0
    | 4 => if m = 0 then f.round c false 1 0 false else expRes f c n m e
    | 5 =>
      if m = 0 then (f.inf true, flagDZ)
      else if n then f.nanRes true
      else if m = 2 ^ Nat.log2 m && e + (Nat.log2 m : Int) = 0 then (f.zero false, 0)
      else fxRound f c (lnFx m e) 0
    | 6 => if m = 0 then (f.zero n, 0) else trigRes f c false n m e
    | 7 => if m = 0 then f.round c false 1 0 false else trigRes f c true n m e
    | 8 => if m = 0 then (f.zero n, 0) else tanhRes f c n m e
    | _ => if m = 0 then f.round c false 1 (-1) false else sigmRes f c n m e

end Sys2Proof.Machine
end

