-- ==== Sys2Proof/Machine/Element.lean ====
section
/-! DEFINITION. Element operations of the vector unit, shared by vector instructions and lane-function bodies: one element
from up to three, with its flags (spec 14 R354 to R359; spec 09 R238, R244, R254). -/

namespace Sys2Proof.Machine

/-- The element-wise operations. -/
inductive EOp where
  | add | sub | adds | subs | mul | mulh | mulhn | mac | min | max | minn | maxn | abs | and | or | xor | andn
  | shl | shr | sar | popc | clz
  | fadd | fsub | fmul | fma | fdiv | fsqrt | fmin | fmax | cls
  | sfu (fn : Nat)
  | cvt (src : Nat)
  | cvtsr (src : Nat)
  | mov
  deriving DecidableEq, Repr

/-- A clamped integer with SO when the clamp acts (R354). -/
def clampRes (isSigned : Bool) (w : Nat) (z : Int) : FRes :=
  (wrap w (clampInt isSigned w z), flagIf (clampInt isSigned w z != z) flagSO)

/-- An integer of the format's signedness. -/
def asInt (fmt v : Nat) : Int := if fmtSigned fmt then toSigned (fmtBits fmt) v else (v % 2 ^ fmtBits fmt : Nat)

/-- Integer element operations at width w (R354). -/
def intElem (op : EOp) (fmt : Nat) (a b c : Nat) : FRes :=
  let w := fmtBits fmt
  let sa := toSigned w a
  let sb := toSigned w b
  match op with
  | .add => ((a + b) % 2 ^ w, 0)
  | .sub => (wrap w (a - b), 0)
  | .adds => clampRes (fmtSigned fmt) w (asInt fmt a + asInt fmt b)
  | .subs => clampRes (fmtSigned fmt) w (asInt fmt a - asInt fmt b)
  | .mul => (a * b % 2 ^ w, 0)
  | .mulh => (wrap w ((sa * sb).shiftRight w), 0)
  | .mulhn => (a * b / 2 ^ w % 2 ^ w, 0)
  | .mac => ((a * b + c) % 2 ^ w, 0)
  | .min => (if sb < sa then b else a, 0)
  | .max => (if sa < sb then b else a, 0)
  | .minn => (if b < a then b else a, 0)
  | .maxn => (if a < b then b else a, 0)
  | .abs => (wrap w sa.natAbs, 0)
  | .and => (a &&& b, 0)
  | .or => (a ||| b, 0)
  | .xor => (a ^^^ b, 0)
  | .andn => (a &&& (2 ^ w - 1 - b % 2 ^ w), 0)
  | .shl => ((a <<< (b % w)) % 2 ^ w, 0)
  | .shr => (a >>> (b % w), 0)
  | .sar => (wrap w (sa.shiftRight (b % w)), 0)
  | .popc => (popCount w a, 0)
  | .clz => (clzN w a, 0)
  | _ => (b, 0)

/-- Float element operations (R356, R357). -/
def floatElem (op : EOp) (f : FFmt) (r : RndCtx) (fz : Bool) (a b c : Nat) : FRes :=
  let va := f.decodeFzi fz a
  let vb := f.decodeFzi fz b
  match op with
  | .fadd => f.addV r va vb
  | .fsub => f.addV r va vb.neg
  | .fmul => f.mulV r va vb
  | .fma => f.fmaV r va vb (f.decodeFzi fz c)
  | .fdiv => f.divV r va vb
  | .fsqrt => f.sqrtV r va
  | .fmin => f.minMax fz false a b
  | .fmax => f.minMax fz true a b
  | .cls => (f.classify a, 0)
  | .sfu fn => Sys2Proof.Machine.sfu f r fn va
  | _ => (b, 0)

/-- One element of any operation in the format `fmt` (of a conversion, the destination). -/
def elemOp (op : EOp) (fmt : Nat) (r : RndCtx) (fz : Bool) (a b c : Nat) : FRes :=
  match op with
  | .cvt src => convertElem src fmt fz r (a % 2 ^ fmtBits src)
  | .cvtsr src => convertElem src fmt fz { r with mode := 5, g := b % 2 ^ 32 } (a % 2 ^ fmtBits src)
  | _ =>
    match floatOf fmt with
    | some f => floatElem op f r fz a b c
    | none => intElem op fmt a b c

/-- Bits of the carrier of a format: eight for narrower ones (R358). -/
def carrier (code : Nat) : Nat := Nat.max 8 (fmtBits code)

/-- The condition of VCMP at width w (R355, R331). -/
def intCond (cc w a b : Nat) : Bool :=
  let ext := fun (v : Nat) => if 2 ≤ cc && cc ≤ 5 then sextWord w v else zextWord w v
  match cc with
  | 0 => ext a == ext b
  | 1 => ext a != ext b
  | 2 => (ext a).slt (ext b)
  | 3 => (ext a).sle (ext b)
  | 4 => (ext b).slt (ext a)
  | 5 => (ext b).sle (ext a)
  | 6 => a < b
  | 7 => a ≤ b
  | 8 => b < a
  | 9 => b ≤ a
  | 10 => a &&& b != 0
  | _ => a &&& b == 0

/-- The condition of VCMP or VFCMP with its flags. -/
def elemCond (cc fmt : Nat) (fz : Bool) (a b : Nat) : Bool × Flags :=
  match floatOf fmt with
  | some f => fcond cc (f.decodeFzi fz a) (f.decodeFzi fz b)
  | none => (intCond cc (fmtBits fmt) a b, 0)

/-- Does elements `e` upwards, `n` of them: active ones give a value and flags; the first whose flags are enabled stops.
The answer is what was built, the flags of the elements done, and the element that raised with its flags (R238). -/
def runElems {α : Type} (act : Nat → Bool) (g : Nat → FRes) (raises : Flags → Bool) (put : α → Nat → Nat → α) :
    Nat → Nat → α → Flags → α × Flags × Option (Nat × Flags)
  | 0, _, acc, fl => (acc, fl, none)
  | n + 1, e, acc, fl =>
    if act e then
      let (x, f) := g e
      if raises f then (acc, fl, some (e, f)) else runElems act g raises put n (e + 1) (put acc e x) (fl ||| f)
    else runElems act g raises put n (e + 1) acc fl

/-- The exact sum of finite and infinite values rounded once: NaN for an invalid term or opposite infinities; an exact
zero of terms that are all zeros of one sign keeps the sign (R241, R365). -/
def sumRound (f : FFmt) (r : RndCtx) (ts : List (Option FVal)) (nv : Bool) : FRes :=
  if ts.any (fun t => match t with
      | none => true
      | some v => v.isNaN) then f.nanRes (nv || ts.any fun t => match t with
        | some v => v.isSignalling
        | none => false)
  else
    let vs := ts.filterMap id
    let infs := vs.filterMap fun v => match v with
      | .inf n => some n
      | _ => none
    match infs with
    | n :: rest => if rest.all (· == n) then (f.inf n, 0) else f.nanRes true
    | [] =>
      let step := fun (acc : Int × Int) (v : FVal) => match v with
        | .num n m e => exactAdd (acc.1 < 0) acc.1.natAbs acc.2 n m e
        | _ => acc
      let (z, e) := vs.foldl step (0, 0)
      if z = 0 then
        let allZero := fun (s : Bool) => vs.all fun v => match v with
          | .num n m _ => m == 0 && n == s
          | _ => false
        (f.zero (if allZero true then true else if allZero false then false else r.mode == 3), 0)
      else f.round r (z < 0) z.natAbs e false

end Sys2Proof.Machine
end

