-- ==== Sys2Proof/Machine/LaneFn.lean ====
section
/-! DEFINITION. Lane functions: the bodies that TMAP, TRED, TEW, TSCAN and TSCANC call, how they are fetched and checked,
and one call of a body on one element (spec 14 R373, R374; spec 11 R305; spec 15 R397). -/

namespace Sys2Proof.Machine

/-! ## Decoding and checking a body (R373, R374) -/

/-- The instruction of a body word: only groups 3 and 5 are looked up, since no other may stand in a body. -/
def bodyInstr (gen : Nat) (w lit : Word) : Option Instr :=
  let op := (wordOp w).toNat
  let op3 := if gen = 1 then (toG2fromG1 op).bind toG3fromG2 else if gen = 2 then toG3fromG2 op else some op
  let dec := op3.bind fun o =>
    if 0x60 ≤ o && o < 0x80 then ops3[o - 0x60]? else if 0xC0 ≤ o && o < 0x120 then ops5[o - 0xC0]? else none
  dec.bind fun f =>
    let i := f w (if wordL w then some lit else none)
    if (wordL w && noLiteral i w) || !fieldsOk i || !genOk gen i then none else some i

/-- The body form of an instruction of format V: E registers, masks M0 to M3, a literal as scalar operand. -/
def vBodyOk (f : FmtV) (maskD maskA maskB maskC : Bool) : Bool :=
  let r := fun (isMask : Bool) (v : BitVec 5) => if isMask then v < 4 else v < 16
  r maskD f.vd && r maskA f.va && r maskB f.vb && r maskC f.vc && (f.gm < 4 || f.gm == 15) && (f.s == 0 || f.lit.isSome)

/-- Whether a body may hold the instruction (R373). -/
def bodyOk (i : Instr) : Bool :=
  match i with
  | .vadd f | .vsub f | .vadds f | .vsubs f | .vmul f | .vmulh f | .vmulhn f | .vmac f | .vmin f | .vmax f | .vminn f
  | .vmaxn f | .vabs f | .vand f | .vor f | .vxor f | .vandn f | .vshl f | .vshr f | .vsar f | .vpopc f | .vclz f
  | .vfadd f | .vfsub f | .vfmul f | .vfma f | .vfdiv f | .vfsqrt f | .vfmin f | .vfmax f | .vclass f | .vsfu f
  | .vcvt f | .vcvtsr f | .vmov f => vBodyOk f false false false false
  | .vcmp f | .vfcmp f => vBodyOk f true false false false
  | .vsel f => vBodyOk f false false false true
  | .mlog f => vBodyOk f true true true false
  | .lend _ => true
  | _ => false

/-! ## One call (R374) -/

/-- The registers of one call: E0 to E15, M0 to M3, the flags set. -/
structure LaneEnv where
  e : List Word
  m : BitVec 4 := 0
  flags : Flags := 0
  deriving DecidableEq, Repr

/-- What a body reads of its caller: FCTL, SEED, and the counter of the destination element. -/
structure LaneCtx where
  fctl : Word
  seed : Word
  ctr : Word
  deriving DecidableEq, Repr

def LaneEnv.get (v : LaneEnv) (r : BitVec 5) : Nat := (v.e[r.toNat]?.getD 0).toNat

/-- Writes an element: In formats are sign-extended, all others zero-extended. -/
def laneWord (fmt v : Nat) : Word := if fmtSigned fmt then sextWord (fmtBits fmt) v else zextWord (fmtBits fmt) v

def LaneEnv.put (v : LaneEnv) (r : BitVec 5) (fmt : Nat) (x : FRes) : LaneEnv :=
  { v with e := v.e.set r.toNat (laneWord fmt x.1), flags := v.flags ||| x.2 }

def LaneEnv.putM (v : LaneEnv) (r : BitVec 5) (x : Bool) (fl : Flags) : LaneEnv :=
  { v with m := (v.m &&& ~~~(1#4 <<< r.toNat)) ||| ((BitVec.ofBool x).setWidth 4 <<< r.toNat), flags := v.flags ||| fl }

/-- The guarding mask bit of a body instruction. -/
def LaneEnv.on (v : LaneEnv) (gm : BitVec 4) : Bool := gm == 15 || v.m.getLsbD gm.toNat

/-- The second source of a body instruction at width w. -/
def LaneEnv.srcB (v : LaneEnv) (f : FmtV) (w : Nat) : Nat :=
  (if f.s = 1 then (f.lit.getD 0).toNat else v.get f.vb) % 2 ^ w

/-- The rounding of a body instruction (R246, R374). -/
def LaneCtx.rnd (c : LaneCtx) (f : FmtV) : RndCtx :=
  { mode := roundMode c.fctl f.rnd.toNat, sat := f.sat == 1, fzo := fzo c.fctl, g := (gen c.seed c.ctr).toNat % 2 ^ 32 }

/-- An element-wise instruction of a body. -/
def laneElem (op : EOp) (c : LaneCtx) (f : FmtV) (v : LaneEnv) : LaneEnv :=
  let w := fmtBits f.fmt.toNat
  v.put f.vd f.fmt.toNat
    (elemOp op f.fmt.toNat (c.rnd f) (fzi c.fctl) (v.get f.va % 2 ^ w) (v.srcB f w) (v.get f.vc % 2 ^ w))

/-- A conversion of a body. -/
def laneCvt (op : Nat → EOp) (c : LaneCtx) (f : FmtV) (v : LaneEnv) : LaneEnv :=
  let src := f.fn.toNat % 64
  v.put f.vd f.fmt.toNat
    (elemOp (op src) f.fmt.toNat (c.rnd f) (fzi c.fctl) (v.get f.va % 2 ^ fmtBits src) (v.get f.vb % 2 ^ 32) 0)

/-- A comparison of a body. -/
def laneCmp (c : LaneCtx) (f : FmtV) (v : LaneEnv) : LaneEnv :=
  let w := fmtBits f.fmt.toNat
  let r := elemCond f.fn.toNat f.fmt.toNat (fzi c.fctl) (v.get f.va % 2 ^ w) (v.srcB f w)
  v.putM f.vd r.1 r.2

/-- One body instruction whose mask bit is 1. -/
def laneStep (c : LaneCtx) (i : Instr) (v : LaneEnv) : LaneEnv :=
  match i with
  | .vadd f => laneElem .add c f v
  | .vsub f => laneElem .sub c f v
  | .vadds f => laneElem .adds c f v
  | .vsubs f => laneElem .subs c f v
  | .vmul f => laneElem .mul c f v
  | .vmulh f => laneElem .mulh c f v
  | .vmulhn f => laneElem .mulhn c f v
  | .vmac f => laneElem .mac c f v
  | .vmin f => laneElem .min c f v
  | .vmax f => laneElem .max c f v
  | .vminn f => laneElem .minn c f v
  | .vmaxn f => laneElem .maxn c f v
  | .vabs f => laneElem .abs c f v
  | .vand f => laneElem .and c f v
  | .vor f => laneElem .or c f v
  | .vxor f => laneElem .xor c f v
  | .vandn f => laneElem .andn c f v
  | .vshl f => laneElem .shl c f v
  | .vshr f => laneElem .shr c f v
  | .vsar f => laneElem .sar c f v
  | .vpopc f => laneElem .popc c f v
  | .vclz f => laneElem .clz c f v
  | .vfadd f => laneElem .fadd c f v
  | .vfsub f => laneElem .fsub c f v
  | .vfmul f => laneElem .fmul c f v
  | .vfma f => laneElem .fma c f v
  | .vfdiv f => laneElem .fdiv c f v
  | .vfsqrt f => laneElem .fsqrt c f v
  | .vfmin f => laneElem .fmin c f v
  | .vfmax f => laneElem .fmax c f v
  | .vclass f => laneElem .cls c f v
  | .vsfu f => laneElem (.sfu f.fn.toNat) c f v
  | .vcvt f => laneCvt .cvt c f v
  | .vcvtsr f => laneCvt .cvtsr c f v
  | .vcmp f | .vfcmp f => laneCmp c f v
  | .vsel f =>
    let w := fmtBits f.fmt.toNat
    v.put f.vd f.fmt.toNat (if v.m.getLsbD f.vc.toNat then v.get f.va % 2 ^ w else v.srcB f w, 0)
  | .vmov f => v.put f.vd f.fmt.toNat (v.srcB f (fmtBits f.fmt.toNat), 0)
  | .mlog f =>
    v.putM f.vd (f.fn.getLsbD (2 * (v.m.getLsbD f.va.toNat).toNat + (v.m.getLsbD f.vb.toNat).toNat)) 0
  | _ => v

/-- A body from its first instruction to its LEND. -/
def laneRun (c : LaneCtx) : List Instr → LaneEnv → LaneEnv
  | [], v => v
  | .lend _ :: _, v => v
  | i :: t, v =>
    laneRun c t (match vectorGm i with
      | some gm => if v.on gm then laneStep c i v else v
      | none => v)

/-- A call on inputs E0 upwards: all the E registers and the flags it ends with. -/
def laneCall (c : LaneCtx) (body : List Instr) (ins : List Word) : LaneEnv :=
  laneRun c body { e := (ins ++ List.replicate 16 0).take 16 }

/-! ## Fetching a body (R373) -/

/-- What fetching a body gives. -/
inductive BodyRes where
  | ok (body : List Instr) (s : State)
  | illegal
  | stop (s : State)

namespace State

/-- Fetches `n` instructions from `va` through the instruction cache, every word of the body before its checks; `gen` is the
block's generation. -/
def fetchBody (s : State) (gen : Nat) (lit : Bool) : Nat → Nat → List (Option Instr) → BodyRes
  | 0, _, acc =>
    match acc with
    | some (.lend _) :: _ =>
      if acc.all (fun i => match i with
        | some i => bodyOk i
        | none => false) then .ok (acc.reverse.filterMap id) s else .illegal
    | _ => .illegal
  | n + 1, va, acc =>
    match s.fetchWord va lit with
    | .stop s => .stop s
    | .ok w s =>
      if wordL w then
        match s.fetchWord (va + 8) lit with
        | .stop s => .stop s
        | .ok l s => fetchBody s gen lit n (va + 16) (bodyInstr gen w l :: acc)
      else fetchBody s gen lit n (va + 8) (bodyInstr gen w 0 :: acc)

/-- Lane function `i` of the block's object: its body, inputs and results; ILLOP when there is none (R397, R305). -/
def laneFn (s : State) (i : Nat) : Option (Nat × Nat × Nat × Nat) :=
  (s.launchOf s.blk.launch).bind fun l =>
    (l.obj.lanefns[i]?).map fun e => (l.obj.base + ((l.obj.sections[0]?).getD (0, 0)).1 + e.1, e.2.1, e.2.2.1, e.2.2.2)

end State

end Sys2Proof.Machine
end

