-- ==== Sys2Proof/Machine/Shape.lean ====
section
/-! DEFINITION. Shape records and the layout of a tile in its slot: fields, contradictions, where an element and a scale
lie, and the value an element stands for (spec 15 R377 to R379; spec 09 R231 to R234). -/

namespace Sys2Proof.Machine

/-! ## Fields of a shape record (R377) -/

/-- A shape record (R377). -/
abbrev Shape := BitVec 128

namespace Shape

def kax (d : Shape) : Bool := d.getLsbD 65
def sp (d : Shape) : Bool := d.getLsbD 64
def rows (d : Shape) : Nat := field d.toNat 52 12 + 1
/-- Columns; dense K for an SP tile. -/
def cols (d : Shape) : Nat := field d.toNat 40 12 + 1
def pitch (d : Shape) : Nat := field d.toNat 27 13
def fmt (d : Shape) : Nat := field d.toNat 21 6
/-- 0 ROW, 1 COL, 2 PLANE. -/
def layout (d : Shape) : Nat := field d.toNat 18 3
/-- The QI group length; 0 for none. -/
def group (d : Shape) : Nat :=
  match field d.toNat 16 2 with
  | 0 => 0
  | 1 => 32
  | 2 => 64
  | _ => 128
def dist (d : Shape) : Bool := d.getLsbD 15
/-- Columns that the slot stores (R377). -/
def stored (d : Shape) : Nat := if d.sp then d.cols / 2 else d.cols
/-- Elements that the slot stores. -/
def count (d : Shape) : Nat := d.rows * d.stored
def bits (d : Shape) : Nat := fmtBits d.fmt

/-- The record with another PITCH. -/
def withPitch (d : Shape) (p : Nat) : Shape := BitVec.ofNat 128 (setField d.toNat 27 13 p)

end Shape

/-- An X format (R231). -/
def fmtX (c : Nat) : Bool := 0x18 ≤ c && c ≤ 0x1B
/-- A QI format (R232). -/
def fmtQI (c : Nat) : Bool := c == 0x1C || c == 0x1D
/-- An accumulator format (R234, R235). -/
def fmtAcc (c : Nat) : Bool := c == 0x20 || c == 0x21

/-- The format of an element's own bits: the base of an X or QI format (R231, R232). -/
def fmtBase (c : Nat) : Nat :=
  match c with
  | 0x18 => 0x14 | 0x19 => 0x15 | 0x1A => 0x16 | 0x1B => 0x03 | 0x1C => 0x0A | 0x1D => 0x0B
  | c => c

/-- The A formats of R248, by class: 0 float, 1 integer, 2 X, 3 QI. -/
def classA (c : Nat) : Option Nat :=
  if 0x12 ≤ c && c ≤ 0x16 then some 0
  else if (1 ≤ c && c ≤ 3) || (9 ≤ c && c ≤ 11) then some 1
  else if fmtX c then some 2
  else if fmtQI c then some 3
  else none

/-- Planes of a format: significand bits of a float, width of an integer (R248). -/
def planes (c : Nat) : Nat :=
  match floatOf (fmtBase c) with
  | some f => f.fb + 1
  | none => fmtBits (fmtBase c)

def roundUp (n k : Nat) : Nat := cdiv n k * k

/-- Bytes of a PLANE column block before rounding, and Q (R378). -/
def planeContent (c : Nat) : Nat :=
  if (floatOf (fmtBase c)).isSome then 16 * planes c + 16 + 128 else 16 * planes c
def planeQ (c : Nat) : Nat := roundUp (planeContent c) 64

namespace Shape

/-- The element area in bytes (R378). -/
def area (d : Shape) : Nat :=
  match d.layout with
  | 0 => d.rows * d.pitch * d.bits / 8
  | 1 => d.cols * d.pitch * d.bits / 8
  | _ => d.stored * planeQ d.fmt

/-- Scale bytes (R378). -/
def scaleBytes (d : Shape) : Nat :=
  if fmtX d.fmt then (if d.kax then cdiv d.rows 128 * d.cols else d.rows * cdiv d.cols 128)
  else if fmtQI d.fmt && d.group ≠ 0 then 4 * (d.rows * cdiv d.cols d.group)
  else 0

/-- Where the scales begin. -/
def scaleBase (d : Shape) : Nat := roundUp d.area 64

/-- Element area and scales: the content of a slot (R378, R433). -/
def content (d : Shape) : Nat := if d.scaleBytes = 0 then d.area else d.scaleBase + d.scaleBytes

/-- The footprint in 4 KiB units (R129). -/
def units (d : Shape) : Nat := cdiv d.content 4096

/-- A contradictory record (R379). -/
def bad (gen : Nat) (d : Shape) : Bool :=
  let f := d.fmt
  let line := if d.layout = 0 then d.cols else d.rows
  -- 1
  field d.toNat 66 62 != 0 || field d.toNat 0 15 != 0 || 3 ≤ d.layout ||
  -- 2
  fmtBits f == 0 || !fmtIn gen (BitVec.ofNat 6 f) ||
  -- 3
  (d.layout < 2 && (d.pitch < line || d.pitch * d.bits % 8 != 0)) ||
  -- 4
  (d.layout == 2 && ((classA f).isNone || 128 < d.rows || d.pitch != d.cols || d.kax)) ||
  -- 5
  (d.sp && (d.layout != 2 || d.cols % 4 != 0 || fmtQI f)) ||
  -- 6
  (if fmtQI f then d.group == 0 || d.kax else d.group != 0) ||
  -- 7
  (f == 0x23 && (d.layout != 0 || d.kax || d.sp)) ||
  -- 8
  (fmtAcc f && (d.layout != 0 || d.pitch != d.cols || d.kax || d.sp ||
    (if d.dist then 384 < d.rows || 640 < d.cols else 128 < d.rows || 320 < d.cols))) ||
  -- 9
  (d.dist && !fmtAcc f) ||
  -- 10
  (!fmtAcc f && 262144 < d.content)

end Shape

/-! ## Elements in a slot (R378) -/

/-- The first bit of element (r, c) in ROW or COL. -/
def Shape.bitPos (d : Shape) (r c : Nat) : Nat :=
  if d.layout = 0 then (r * d.pitch + c) * d.bits else (c * d.pitch + r) * d.bits

/-- Plane `p` of a PLANE column at a row: one bit. -/
def planeBit (d : Shape) (r c p : Nat) : Nat := 8 * (c * planeQ d.fmt + 16 * p) + r

/-- The first bit of the exponent byte of a row in a PLANE column. -/
def planeExp (d : Shape) (r c : Nat) : Nat := 8 * (c * planeQ d.fmt + 16 * (planes d.fmt + 1) + r)

/-- Planes 0 to n − 1 of an element as a number. -/
def gatherPlanes (d : Shape) (x r c : Nat) : Nat → Nat
  | 0 => 0
  | n + 1 => gatherPlanes d x r c n + (field x (planeBit d r c n) 1) <<< n

/-- Element (r, c) of a slot's content `x`; `off` is the first bit of a view's window. -/
def slotElem (d : Shape) (x off r c : Nat) : Nat :=
  if d.layout = 2 then
    match floatOf (fmtBase d.fmt) with
    | some f =>
      gatherPlanes d x r c f.fb + (field x (planeExp d r c) 8 % 2 ^ f.eb) <<< f.fb +
        (field x (planeBit d r c (f.fb + 1)) 1) <<< (f.fb + f.eb)
    | none => gatherPlanes d x r c d.bits
  else field x (off + d.bitPos r c) d.bits

/-- Sets planes 0 to n − 1 of an element. -/
def putPlanes (d : Shape) (x r c v : Nat) : Nat → Nat
  | 0 => x
  | n + 1 => setField (putPlanes d x r c v n) (planeBit d r c n) 1 (v >>> n)

/-- The content with element (r, c) replaced; every bit of the element is kept in PLANE (R378). -/
def slotPut (d : Shape) (x r c v : Nat) : Nat :=
  if d.layout = 2 then
    match floatOf (fmtBase d.fmt) with
    | some f =>
      let e := field v f.fb f.eb
      let sig := v % 2 ^ f.fb + (if e = 0 then 0 else 2 ^ f.fb)
      let x := putPlanes d x r c sig (f.fb + 1)
      let x := setField x (planeBit d r c (f.fb + 1)) 1 (v >>> (f.fb + f.eb))
      setField x (planeExp d r c) 8 e
    | none => putPlanes d x r c v d.bits
  else setField x (d.bitPos r c) d.bits v

/-- The dense column of stored column `c` as far as its block needs it (R378). -/
def denseOf (d : Shape) (c : Nat) : Nat := if d.sp then c / 2 * 4 else c

/-- The number of the scale of element (r, c), and its bytes (R378). -/
def scaleIdx (d : Shape) (r c : Nat) : Nat :=
  if fmtX d.fmt then
    (if d.kax then r / 128 * d.cols + c else r * cdiv d.cols 128 + denseOf d c / 128)
  else r * cdiv d.cols d.group + c / d.group
def scaleSize (d : Shape) : Nat := if fmtX d.fmt then 1 else 4

/-- Whether the tile has scales. -/
def hasScales (d : Shape) : Bool := fmtX d.fmt || fmtQI d.fmt

/-- The scale of element (r, c) of a slot, and the content with it replaced. -/
def slotScale (d : Shape) (x r c : Nat) : Nat :=
  field x (8 * (d.scaleBase + scaleSize d * scaleIdx d r c)) (8 * scaleSize d)
def putScale (d : Shape) (x r c v : Nat) : Nat :=
  setField x (8 * (d.scaleBase + scaleSize d * scaleIdx d r c)) (8 * scaleSize d) v

/-- `n` copies of a pattern of `w` bits. -/
def repeatBits (w pat : Nat) : Nat → Nat
  | 0 => 0
  | n + 1 => (repeatBits w pat n <<< w) + pat

/-- The bits of a footprint that no element and no scale fills: after each line or column block, between the element
area and the scales, and after the content. -/
def gapBits (d : Shape) : Nat :=
  let whole := 2 ^ (32768 * d.units) - 1
  let scales := (2 ^ (8 * d.scaleBytes) - 1) <<< (8 * d.scaleBase)
  let elems :=
    match d.layout with
    | 0 => repeatBits (d.pitch * d.bits) (2 ^ (d.cols * d.bits) - 1) d.rows
    | 1 => repeatBits (d.pitch * d.bits) (2 ^ (d.rows * d.bits) - 1) d.cols
    | _ => repeatBits (8 * planeQ d.fmt) (2 ^ (8 * planeContent d.fmt) - 1) d.stored
  whole - (whole &&& (elems ||| scales))

/-! ## What an element stands for -/

/-- A value times a power of two. -/
def FVal.scale2 (v : FVal) (k : Int) : FVal :=
  match v with
  | .num n m e => .num n m (e + k)
  | v => v

/-- The value of an element's own bits (R226, R227). -/
def baseVal (fmt v : Nat) : FVal := elemVal (fmtBase fmt) false v

/-- The factor of an E8M0 scale; 0xFF makes the value NaN (R230, R231). -/
def FVal.e8m0 (v : FVal) (s : Nat) : FVal := if s = 255 then .nan false else v.scale2 ((s : Int) - 127)

/-- The zero point of a QI scale record (R179). -/
def qiZero (fmt rcd : Nat) : Nat := field rcd 16 (fmtBits fmt)
/-- The F16 scale of a QI record. -/
def qiScale (rcd : Nat) : FVal := fmtF16.decode (rcd % 65536)
/-- q − z exactly (R232). -/
def qiDiff (fmt q rcd : Nat) : Int := (q : Int) - (qiZero fmt rcd : Int)

/-- The exact value of element (r, c) of a slot, none where it is NaN by 0 × ∞; and whether NV belongs to it (R403). -/
def tileVal (d : Shape) (x off r c : Nat) : FVal × Bool :=
  let v := slotElem d x off r c
  if fmtX d.fmt then ((baseVal d.fmt v).e8m0 (slotScale d x r c), false)
  else if fmtQI d.fmt then
    let rcd := slotScale d x r c
    let a := intVal (qiDiff d.fmt v rcd)
    match (qiScale rcd).mul a with
    | some y => (y, false)
    | none => (.nan (qiScale rcd).isSignalling, (qiScale rcd).zeroTimesInf a)
  else if d.fmt = 0x1E then ((FVal.num false 1 0).e8m0 v, false)
  else (baseVal d.fmt v, false)

/-- Element numbers of a tile in row-major order, row and column. -/
def Shape.cells (d : Shape) : List (Nat × Nat) :=
  (List.range d.rows).flatMap fun r => (List.range d.stored).map fun c => (r, c)

end Sys2Proof.Machine
end

