-- ==== Sys2Proof/Machine/Vector.lean ====
section
/-! DEFINITION. Group 5 on registers: element-wise, cross-element, reduction and mask instructions (spec 14 R351, R354 to
R365; spec 11 R291 to R294). An instruction runs whole when it issues. -/

namespace Sys2Proof.Machine

/-! ## Lengths, masks, sources -/

/-- VLMAX(w) = LANES × 64 ÷ w (R292). -/
def Block.vlmax (b : Block) (w : Nat) : Nat := b.lanes * (64 / w)

/-- VL of a `vl` field at width w (R293). -/
def State.vlen (s : State) (vl : BitVec 6) (w : Nat) : Nat :=
  if vl = 0 then s.blk.vlmax w else min (s.getX vl).toNat (s.blk.vlmax w)

/-- The mask bit of element `e` (R293). -/
def Block.masked (b : Block) (gm : BitVec 4) (e : Nat) : Bool := gm == 15 || (b.getM gm.toNat).getLsbD e

/-- Active(m, e), and not below ESTART (R293, R269). -/
def Block.active (b : Block) (gm : BitVec 4) (e : Nat) : Bool := b.masked gm e && b.estart.toNat ≤ e

/-- The scalar operand of S = 1 (R351). -/
def State.scalarOperand (s : State) (f : FmtV) : Word := f.lit.getD (s.getX f.xs)

/-- Element `e` of the second source at width w (R351). -/
def State.srcB (s : State) (f : FmtV) (w e : Nat) : Nat :=
  if f.s = 1 then (s.scalarOperand f).toNat % 2 ^ w else vGet (s.blk.getV f.vb) w e

/-- The X registers a format V instruction reads: vl, and xs as the scalar operand. -/
def vXsrcs (f : FmtV) : List (BitVec 6) := f.vl :: (if f.s = 1 && f.lit.isNone then [f.xs] else [])

/-- Whether a V register has an element that a load in flight or a tile instruction will write (R116, R376). -/
def Block.vPending (b : Block) (v : BitVec 5) : Bool :=
  b.pend.any (fun p => match p.dest with
    | .vel r _ _ => r == v
    | _ => false) || b.trecs.any fun t => t.vdst == some v

/-- The mask register that a GM field names (R293). -/
def maskSrc (gm : BitVec 4) : List Nat := if gm.toNat < 12 then [gm.toNat] else []

/-- The first of `n` elements, from ESTART, that consumes uncorrectable data: its bit of the mask register, or, for an active element,
what `bad` says that it reads (R58, R294). -/
def Block.firstBad (b : Block) (gm : BitVec 4) (n : Nat) (bad : Nat → Bool) : Option Nat :=
  if b.sound then none
  else (List.range n).find? fun e =>
    b.estart.toNat ≤ e && ((maskSrc gm).any (fun m => b.badM m e) || (b.masked gm e && bad e))

/-- The frame of a vector instruction: its registers are ready, LANES is not 0 (R293), then `body`, with the first element that consumes
uncorrectable data as `bad` gives it; an X register of the instruction counts for element 0 (R58). -/
def vecFrame (lit : Option Word) (xsrcs : List (BitVec 6)) (xdst : Option (BitVec 6)) (vregs : List (BitVec 5)) (bad : State → Option Nat)
    (body : Option Nat → State → State) (s : State) : Out :=
  if !s.regsReady xsrcs xdst || vregs.any s.blk.vPending then .next (s.waitFor .retry)
  else if s.blk.lanes = 0 then .next (s.raise .lanes lit)
  else
    let t := s.beginOp xsrcs lit
    .next (body (if s.flawedX xsrcs then some 0 else bad t) t)

/-- A body that meets no cause of its own: with uncorrectable data it performs nothing and raises UNCORR (R265, R266). -/
def orUncorr (lit : Option Word) (body : State → State) (bad : Option Nat) (s : State) : State :=
  if bad.isSome then s.raise .uncorr lit else body s

/-- Whether the second source of an instruction of format V holds an error at element `e` (R351). -/
def Block.badB (b : Block) (f : FmtV) (w e : Nat) : Bool := f.s != 1 && b.badV f.vb w e

/-- The frame for format V: `vregs` may be written by older instructions; `bad` says whether element `e` of those below VL at width `w`
reads an error. -/
def vFrame (f : FmtV) (w : Nat) (vregs : List (BitVec 5)) (bad : Block → Nat → Bool) (body : Option Nat → State → State) (s : State) : Out :=
  vecFrame f.lit (vXsrcs f) none vregs (fun s => s.blk.firstBad f.gm (s.vlen f.vl w) (bad s.blk)) body s

/-- The progress index of a written register is full (R126, R294). -/
def Block.fullV (b : Block) (v : BitVec 5) : Block := { b with vprog := b.vprog.set v.toNat b.groups.length v.isLt }

/-- The progress index as elements in flight leave it: the groups below the lowest element that is still to be written (R126). -/
def Block.vprogAt (b : Block) (v : BitVec 5) : Nat :=
  b.pend.foldl (fun n p => match p.dest with
    | .vel r w e => if r = v then min n ((match p.elems with
        | (i, _) :: _ => i
        | [] => e) / (16 * (64 / w))) else n
    | _ => n) (b.vprog[v.toNat]'(v.isLt))

/-- Writes a V register: contents and progress index, full, or the groups below the element at which the instruction stopped (R126,
R269). -/
def State.writeV (s : State) (v : BitVec 5) (x : BitVec 8192) (stop : Option (Nat × Nat) := none) : State :=
  s.updBlk fun b => match stop with
    | none => (b.setV v x).fullV v
    | some (e, w) => { b.setV v x with vprog := b.vprog.set v.toNat (e / (16 * (64 / w))) v.isLt }

/-- The rounding of element `e` (R246, R314). -/
def Block.vRnd (b : Block) (rnd sat e : Nat) : RndCtx :=
  { mode := roundMode b.ctl.fctl rnd, sat := sat == 1, fzo := fzo b.ctl.fctl
    g := (Sys2Proof.Machine.gen b.ctl.seed (b.ctl.stripb + BitVec.ofNat 64 e)).toNat % 2 ^ 32 }

/-- Ends an element loop: the elements done are written, their flags ORed in; an enabled flag raises FPEXC at its element (R238). An
element before it that consumes uncorrectable data raises UNCORR, and nothing is performed (R265, R266). -/
def State.endElems {α : Type} (s : State) (lit : Option Word) (bad : Option Nat) (write : State → α → Option Nat → State)
    (r : α × Flags × Option (Nat × Flags)) : State :=
  match r.2.2, bad with
  | none, none => ((write s r.1 none).setFlags r.2.1).advance lit
  | none, some _ => s.raise .uncorr lit
  | some (e, f), bad =>
    if (bad.getD e) < e then s.raise .uncorr lit
    else
      ((write s r.1 (some e)).setFlags r.2.1).takeTrap
        { cause := .fpexc, detail := (enabledFlags s.blk.ctl.fctl f).toNat, estart := e } lit.isSome

/-- The elements that an instruction of format V has written when it stops before `stop`, or at its end. -/
def Block.wrote (b : Block) (gm : BitVec 4) (n : Nat) (stop : Option Nat) (e : Nat) : Bool := b.active gm e && e < min n (stop.getD n)

/-- Ends an element loop that writes V[r] at width `w`. -/
def State.endV (s : State) (f : FmtV) (r : BitVec 5) (w : Nat) (bad : Option Nat) (x : BitVec 8192 × Flags × Option (Nat × Flags)) : State :=
  let n := s.vlen f.vl w
  let b := s.blk
  s.endElems f.lit bad (fun s v stop =>
    (s.writeV r v (stop.map fun e => (e, w))).updBlk fun c => c.cleanV r w (b.wrote f.gm n stop)) x

/-- Whether flags raise FPEXC (R238). -/
def Block.raises (b : Block) (f : Flags) : Bool := enabledFlags b.ctl.fctl f != 0

/-! ## Element-wise instructions -/

/-- Whether element `e` of the V registers that an element operation reads lies in a word with an error. -/
def EOp.reads (op : EOp) (f : FmtV) (w : Nat) (b : Block) (e : Nat) : Bool :=
  b.badV f.va w e || (match op with
    | .abs | .popc | .clz | .fsqrt | .cls | .sfu _ => false
    | .mac | .fma => b.badV f.vc w e || b.badB f w e
    | _ => b.badB f w e)

/-- An element-wise instruction: element e of V[vd] from elements e of the sources (R354, R356). -/
def vElem (op : EOp) (f : FmtV) (s : State) : Out :=
  let w := fmtBits f.fmt.toNat
  vFrame f w [f.vd, f.va, f.vb, f.vc] (op.reads f w) (fun bad s =>
    let b := s.blk
    let g := fun e =>
      elemOp op f.fmt.toNat (b.vRnd f.rnd.toNat f.sat.toNat e) (fzi b.ctl.fctl) (vGet (b.getV f.va) w e) (s.srcB f w e)
        (vGet (b.getV f.vc) w e)
    s.endV f f.vd w bad
      (runElems (b.active f.gm) g b.raises (fun v e x => vSet v w e x) (s.vlen f.vl w) 0 (b.getV f.vd) 0)) s

def execVadd (f : FmtV) (s : State) : Out := vElem .add f s
def execVsub (f : FmtV) (s : State) : Out := vElem .sub f s
def execVadds (f : FmtV) (s : State) : Out := vElem .adds f s
def execVsubs (f : FmtV) (s : State) : Out := vElem .subs f s
def execVmul (f : FmtV) (s : State) : Out := vElem .mul f s
def execVmulh (f : FmtV) (s : State) : Out := vElem .mulh f s
def execVmulhn (f : FmtV) (s : State) : Out := vElem .mulhn f s
def execVmac (f : FmtV) (s : State) : Out := vElem .mac f s
def execVmin (f : FmtV) (s : State) : Out := vElem .min f s
def execVmax (f : FmtV) (s : State) : Out := vElem .max f s
def execVminn (f : FmtV) (s : State) : Out := vElem .minn f s
def execVmaxn (f : FmtV) (s : State) : Out := vElem .maxn f s
def execVabs (f : FmtV) (s : State) : Out := vElem .abs f s
def execVand (f : FmtV) (s : State) : Out := vElem .and f s
def execVor (f : FmtV) (s : State) : Out := vElem .or f s
def execVxor (f : FmtV) (s : State) : Out := vElem .xor f s
def execVandn (f : FmtV) (s : State) : Out := vElem .andn f s
def execVshl (f : FmtV) (s : State) : Out := vElem .shl f s
def execVshr (f : FmtV) (s : State) : Out := vElem .shr f s
def execVsar (f : FmtV) (s : State) : Out := vElem .sar f s
def execVpopc (f : FmtV) (s : State) : Out := vElem .popc f s
def execVclz (f : FmtV) (s : State) : Out := vElem .clz f s
def execVfadd (f : FmtV) (s : State) : Out := vElem .fadd f s
def execVfsub (f : FmtV) (s : State) : Out := vElem .fsub f s
def execVfmul (f : FmtV) (s : State) : Out := vElem .fmul f s
def execVfma (f : FmtV) (s : State) : Out := vElem .fma f s
def execVfdiv (f : FmtV) (s : State) : Out := vElem .fdiv f s
def execVfsqrt (f : FmtV) (s : State) : Out := vElem .fsqrt f s
def execVfmin (f : FmtV) (s : State) : Out := vElem .fmin f s
def execVfmax (f : FmtV) (s : State) : Out := vElem .fmax f s
def execVclass (f : FmtV) (s : State) : Out := vElem .cls f s
def execVsfu (f : FmtV) (s : State) : Out := vElem (.sfu f.fn.toNat) f s

/-- Bit e of a mask replaced. -/
def maskPut (m : BitVec 1024) (e : Nat) (v : Bool) : BitVec 1024 :=
  (m &&& ~~~(1#1024 <<< e)) ||| ((BitVec.ofBool v).setWidth 1024 <<< e)

/-- A comparison writes bit e of M[vd] (R355, R356). -/
def vCompare (f : FmtV) (s : State) : Out :=
  let w := fmtBits f.fmt.toNat
  vFrame f w [f.va, f.vb] (fun b e => b.badV f.va w e || b.badB f w e) (fun bad s =>
    let b := s.blk
    let n := s.vlen f.vl w
    let g := fun e =>
      let r := elemCond f.fn.toNat f.fmt.toNat (fzi b.ctl.fctl) (vGet (b.getV f.va) w e) (s.srcB f w e)
      ((if r.1 then 1 else 0, r.2) : FRes)
    s.endElems f.lit bad (fun s m stop => s.updBlk fun c => (c.setM f.vd.toNat m).cleanM f.vd.toNat (b.wrote f.gm n stop))
      (runElems (b.active f.gm) g b.raises (fun m e x => maskPut m e (x = 1)) n 0 (b.getM f.vd.toNat) 0)) s

def execVcmp (f : FmtV) (s : State) : Out := vCompare f s
def execVfcmp (f : FmtV) (s : State) : Out := vCompare f s

/-- A conversion between element formats; VL at the wider carrier (R358, R359). -/
def vConvert (op : Nat → EOp) (vlWidth : Option Nat) (f : FmtV) (s : State) : Out :=
  let src := f.fn.toNat % 64
  let dst := f.fmt.toNat
  let ws := carrier src
  let wd := carrier dst
  let w := vlWidth.getD (Nat.max ws wd)
  vFrame f w [f.vd, f.va, f.vb] (fun b e => b.badV f.va ws e || (vlWidth.isSome && b.badV f.vb 32 e)) (fun bad s =>
    let b := s.blk
    let n := s.vlen f.vl w
    let g := fun e =>
      elemOp (op src) dst (b.vRnd f.rnd.toNat f.sat.toNat e) (fzi b.ctl.fctl) (vGet (b.getV f.va) ws e)
        (vGet (b.getV f.vb) 32 e) 0
    s.endElems f.lit bad (fun s v stop =>
        (s.writeV f.vd v (stop.map fun e => (e, wd))).updBlk fun c => c.cleanV f.vd wd (b.wrote f.gm n stop))
      (runElems (b.active f.gm) g b.raises (fun v e x => vSet v wd e x) n 0 (b.getV f.vd) 0)) s

def execVcvt (f : FmtV) (s : State) : Out := vConvert .cvt none f s
def execVcvtsr (f : FmtV) (s : State) : Out := vConvert .cvtsr (some 32) f s

/-- Element values without flags: V[vd] element e := g e for each active e that is not left unchanged by `keep` (R294); `bad` says
whether e reads an error. -/
def vPlainBut (keep : Nat → Bool) (f : FmtV) (vregs : List (BitVec 5)) (bad : Block → Nat → Bool) (g : State → Nat → Nat → Nat)
    (s : State) : Out :=
  let w := fmtBits f.fmt.toNat
  vFrame f w (f.vd :: vregs) bad (orUncorr f.lit fun s =>
    let b := s.blk
    let n := s.vlen f.vl w
    let v := (List.range n).foldl (fun v e => if b.active f.gm e && !keep e then vSet v w e (g s n e) else v) (b.getV f.vd)
    ((s.writeV f.vd v).updBlk fun c => c.cleanV f.vd w fun e => b.wrote f.gm n none e && !keep e).advance f.lit) s

/-- The same where every active element is written. -/
def vPlain (f : FmtV) (vregs : List (BitVec 5)) (bad : Block → Nat → Bool) (g : State → Nat → Nat → Nat) (s : State) : Out :=
  vPlainBut (fun _ => false) f vregs bad g s

/-- VSEL: a or b by bit e of M[vc] (R360). -/
def execVsel (f : FmtV) (s : State) : Out :=
  let w := fmtBits f.fmt.toNat
  vPlain f [f.va, f.vb]
    (fun b e => b.badM f.vc.toNat e || (if (b.getM f.vc.toNat).getLsbD e then b.badV f.va w e else b.badB f w e)) (fun s _ e =>
    if (s.blk.getM f.vc.toNat).getLsbD e then vGet (s.blk.getV f.va) w e else s.srcB f w e) s

/-- VMOV (R360). -/
def execVmov (f : FmtV) (s : State) : Out :=
  vPlain f [f.vb] (fun b e => b.badB f (fmtBits f.fmt.toNat) e) (fun s _ e => s.srcB f (fmtBits f.fmt.toNat) e) s

/-- The active elements below `e` with a property. -/
def countBelow (p : Nat → Bool) (e : Nat) : Nat := ((List.range e).filter p).length

/-- VIOTA.idx and VIOTA.cnt (R360). -/
def execViota (f : FmtV) (s : State) : Out :=
  vPlain f [] (fun b e => f.fn != 0 && (List.range e).any fun j => b.masked f.gm j && b.badM f.vc.toNat j) (fun s _ e =>
    if f.fn = 0 then e + (s.scalarOperand f).toNat
    else countBelow (fun j => s.blk.masked f.gm j && (s.blk.getM f.vc.toNat).getLsbD j) e) s

/-! ## Moves between V and X (R361) -/

/-- VEXT: element X[vl] of V[va] to X[xs]; 0 beyond VLMAX. -/
def execVext (f : FmtV) (s : State) : Out :=
  let w := fmtBits f.fmt.toNat
  vecFrame f.lit [f.vl] (some f.xs) [f.va] (fun s =>
    let i := (s.getX f.vl).toNat
    if i < s.blk.vlmax w && s.blk.badV f.va w i then some 0 else none) (orUncorr f.lit fun s =>
    let i := (s.getX f.vl).toNat
    let x := if i < s.blk.vlmax w then vGet (s.blk.getV f.va) w i else 0
    (s.writeX f.xs (destWord (fmtSigned f.fmt.toNat) w x)).advance f.lit) s

/-- VINS: the scalar operand to element X[vl] of V[vd]. -/
def execVins (f : FmtV) (s : State) : Out :=
  let w := fmtBits f.fmt.toNat
  vecFrame f.lit (vXsrcs f) none [f.vd] (fun _ => none) (orUncorr f.lit fun s =>
    let i := (s.getX f.vl).toNat
    let v := s.blk.getV f.vd
    ((s.writeV f.vd (if i < s.blk.vlmax w then vSet v w i (s.scalarOperand f).toNat else v)).updBlk fun c =>
      c.cleanV f.vd w (· == i)).advance f.lit) s

/-! ## Cross-element instructions (R362) -/

def execVperm (f : FmtV) (s : State) : Out :=
  let w := fmtBits f.fmt.toNat
  vPlain f [f.va, f.vb] (fun b e => b.badV f.vb w e || b.badV f.va w (vGet (b.getV f.vb) w e)) (fun s n e =>
    let k := vGet (s.blk.getV f.vb) w e
    if k < n then vGet (s.blk.getV f.va) w k else 0) s

def execVslup (f : FmtV) (s : State) : Out :=
  let w := fmtBits f.fmt.toNat
  let k := (s.scalarOperand f).toNat
  vPlainBut (fun e => e < k) f [f.va] (fun b e => k ≤ e && b.badV f.va w (e - k)) (fun s _ e => vGet (s.blk.getV f.va) w (e - k)) s

def execVsldn (f : FmtV) (s : State) : Out :=
  let w := fmtBits f.fmt.toNat
  let k := (s.scalarOperand f).toNat
  let n := s.vlen f.vl w
  vPlain f [f.va] (fun b e => e + k < n && b.badV f.va w (e + k)) (fun s n e =>
    let k := (s.scalarOperand f).toNat
    if e + k < n then vGet (s.blk.getV f.va) w (e + k) else 0) s

/-- VCOMP: active elements move down to elements 0, 1, … (R362). -/
def execVcomp (f : FmtV) (s : State) : Out :=
  let w := fmtBits f.fmt.toNat
  vFrame f w [f.vd, f.va] (fun b e => b.badV f.va w e) (orUncorr f.lit fun s =>
    let b := s.blk
    let src := (List.range (s.vlen f.vl w)).filter (b.masked f.gm)
    let v := src.zipIdx.foldl (fun v (x : Nat × Nat) =>
      if b.estart.toNat ≤ x.1 then vSet v w x.2 (vGet (b.getV f.va) w x.1) else v) (b.getV f.vd)
    ((s.writeV f.vd v).updBlk fun c => c.cleanV f.vd w fun e => e < src.length && b.estart.toNat ≤ src.getD e 0).advance f.lit) s

def execVexpd (f : FmtV) (s : State) : Out :=
  let w := fmtBits f.fmt.toNat
  vPlain f [f.va] (fun b e => b.badV f.va w (countBelow (b.masked f.gm) e)) (fun s _ e =>
    vGet (s.blk.getV f.va) w (countBelow (s.blk.masked f.gm) e)) s

/-! ## Reductions (R252, R253, R363) -/

/-- Comb of R252, with the flags it sets. -/
def combine (comb : Nat → Nat → FRes) (a b : Option Nat) : Option Nat × Flags :=
  match a, b with
  | none, b => (b, 0)
  | a, none => (a, 0)
  | some x, some y =>
    let r := comb x y
    (some r.1, r.2)

/-- Partial j of the lanes: the elements of its lane in ascending order. -/
def lanePartial (comb : Nat → Nat → FRes) (vals : List (Option Nat)) : Option Nat × Flags :=
  vals.foldl (fun acc v =>
    let r := combine comb acc.1 v
    (r.1, acc.2 ||| r.2)) (none, 0)

/-- The fold over lanes: at each step every second partial joins its neighbour. -/
def foldLanes (comb : Nat → Nat → FRes) : Nat → List (Option Nat) → Flags → Option Nat × Flags
  | 0, ps, fl => (ps.headD none, fl)
  | n + 1, ps, fl =>
    let r := pairUp ps
    foldLanes comb n r.1 (fl ||| r.2)
where
  pairUp : List (Option Nat) → List (Option Nat) × Flags
    | a :: b :: t =>
      let r := combine comb a b
      let q := pairUp t
      (r.1 :: q.1, r.2 ||| q.2)
    | [a] => ([a], 0)
    | [] => ([], 0)

/-- The reduction of V[va]: the result, none without an active element, and its flags (R252). -/
def State.reduce (s : State) (f : FmtV) (comb : Nat → Nat → FRes) : Option Nat × Flags :=
  let b := s.blk
  let w := fmtBits f.fmt.toNat
  let p := 64 / w
  let n := s.vlen f.vl w
  let parts := (List.range b.lanes).map fun j =>
    lanePartial comb ((List.range p).map fun i =>
      let e := j * p + i
      if e < n && b.active f.gm e then some (vGet (b.getV f.va) w e) else none)
  let fl := parts.foldl (fun fl x => fl ||| x.2) 0
  foldLanes comb 7 (parts.map (·.1)) fl

/-- A reduction: X[xs], P[vc], VSTAT.EMPTY and the flags; an enabled flag raises FPEXC and writes nothing (R363). -/
def vReduce (comb : State → FmtV → Nat → Nat → FRes) (identity : Nat) (f : FmtV) (s : State) : Out :=
  let w := fmtBits f.fmt.toNat
  vecFrame f.lit [f.vl] (some f.xs) [f.va] (fun s => s.blk.firstBad f.gm (s.vlen f.vl w) (s.blk.badV f.va w)) (orUncorr f.lit fun s =>
    let r := s.reduce f (comb s f)
    if s.blk.raises r.2 then s.raiseD .fpexc (enabledFlags s.blk.ctl.fctl r.2).toNat f.lit
    else
      let s := s.setFlags r.2
      let s := s.writeX f.xs (destWord (fmtSigned f.fmt.toNat) w (r.1.getD identity))
      let s := s.writeP f.vc.toNat r.1.isSome
      (s.updBlk fun b => { b with ctl := { b.ctl with vstat := (b.ctl.vstat &&& ~~~1) ||| (if r.1.isSome then 0 else 1) } }).advance
        f.lit) s

/-- Addition for VRSUM: low bits, or clamped with SO (R252). -/
def sumComb (_ : State) (f : FmtV) (x y : Nat) : FRes :=
  if f.sat = 1 then intElem .adds f.fmt.toNat x y 0 else intElem .add f.fmt.toNat x y 0

/-- Minimum or maximum in the format (R254). -/
def pickComb (wantMax : Bool) (s : State) (f : FmtV) (x y : Nat) : FRes :=
  match floatOf f.fmt.toNat with
  | some ff => ff.minMax (fzi s.blk.ctl.fctl) wantMax x y
  | none =>
    let less := asInt f.fmt.toNat x < asInt f.fmt.toNat y
    (if wantMax then (if less then y else x) else (if asInt f.fmt.toNat y < asInt f.fmt.toNat x then y else x), 0)

/-- The identity of a maximum or minimum (R253). -/
def pickIdentity (wantMax : Bool) (fmt : Nat) : Nat :=
  match floatOf fmt with
  | some ff => ff.inf wantMax
  | none => wrap (fmtBits fmt) (if wantMax then intLo (fmtSigned fmt) (fmtBits fmt) else intHi (fmtSigned fmt) (fmtBits fmt))

def execVrsum (f : FmtV) (s : State) : Out := vReduce sumComb 0 f s
def execVrmax (f : FmtV) (s : State) : Out := vReduce (pickComb true) (pickIdentity true f.fmt.toNat) f s
def execVrmin (f : FmtV) (s : State) : Out := vReduce (pickComb false) (pickIdentity false f.fmt.toNat) f s
def execVrfsum (f : FmtV) (s : State) : Out :=
  vReduce (fun s f x y => elemOp .fadd f.fmt.toNat (s.blk.vRnd f.rnd.toNat 0 0) (fzi s.blk.ctl.fctl) x y 0) 0 f s
def execVrfmax (f : FmtV) (s : State) : Out := vReduce (pickComb true) (pickIdentity true f.fmt.toNat) f s
def execVrfmin (f : FmtV) (s : State) : Out := vReduce (pickComb false) (pickIdentity false f.fmt.toNat) f s

/-! ## Mask instructions (R364) -/

/-- Bit e of M[vd] := g e for each active e; bits of `msrc` are read. -/
def vMask (f : FmtV) (msrc : List Nat) (g : State → Nat → Nat → Bool) (s : State) : Out :=
  let w := fmtBits f.fmt.toNat
  vFrame f w [] (fun b e => msrc.any fun m => b.badM m e) (orUncorr f.lit fun s =>
    let b := s.blk
    let n := s.vlen f.vl w
    let m := (List.range n).foldl (fun m e => if b.active f.gm e then maskPut m e (g s n e) else m) (b.getM f.vd.toNat)
    (s.updBlk fun c => (c.setM f.vd.toNat m).cleanM f.vd.toNat (b.wrote f.gm n none)).advance f.lit) s

/-- The lowest active set bit of M[va] below VL, wherever a resumed instruction begins (R269, R364). -/
def State.firstSet (s : State) (f : FmtV) (n : Nat) : Option Nat :=
  (List.range n).find? fun e => s.blk.masked f.gm e && (s.blk.getM f.va.toNat).getLsbD e

def execMlog (f : FmtV) (s : State) : Out :=
  vMask f [f.va.toNat, f.vb.toNat] (fun s _ e =>
    f.fn.getLsbD (2 * ((s.blk.getM f.va.toNat).getLsbD e).toNat + ((s.blk.getM f.vb.toNat).getLsbD e).toNat)) s

def execMsbf (f : FmtV) (s : State) : Out :=
  vMask f [f.va.toNat] (fun s n e => match s.firstSet f n with
    | some k => e < k
    | none => true) s

def execMsif (f : FmtV) (s : State) : Out :=
  vMask f [f.va.toNat] (fun s n e => match s.firstSet f n with
    | some k => e ≤ k
    | none => true) s

def execMsof (f : FmtV) (s : State) : Out :=
  vMask f [f.va.toNat] (fun s n e => s.firstSet f n == some e) s

def execMset (f : FmtV) (s : State) : Out :=
  vMask f [] (fun s _ e =>
    if f.fn = 0 then false else if f.fn = 1 then true else e < (s.scalarOperand f).toNat) s

/-- The first element of M[va] below VL that reads an error. -/
def maskBad (f : FmtV) (s : State) : Option Nat := s.blk.firstBad f.gm (s.vlen f.vl (fmtBits f.fmt.toNat)) (s.blk.badM f.va.toNat)

/-- MPOP: the count of active set bits. -/
def execMpop (f : FmtV) (s : State) : Out :=
  vecFrame f.lit [f.vl] (some f.xs) [] (maskBad f) (orUncorr f.lit fun s =>
    let n := s.vlen f.vl (fmtBits f.fmt.toNat)
    let c := countBelow (fun e => s.blk.active f.gm e && (s.blk.getM f.va.toNat).getLsbD e) n
    (s.writeX f.xs (BitVec.ofNat 64 c)).advance f.lit) s

/-- MFIRST: the lowest active set bit, or all ones. -/
def execMfirst (f : FmtV) (s : State) : Out :=
  vecFrame f.lit [f.vl] (some f.xs) [] (maskBad f) (orUncorr f.lit fun s =>
    let n := s.vlen f.vl (fmtBits f.fmt.toNat)
    (s.writeX f.xs (match s.firstSet f n with
      | some e => BitVec.ofNat 64 e
      | none => BitVec.allOnes 64)).advance f.lit) s

/-! ## Dot products and random bits (R365) -/

/-- Source elements a destination element of VDOT takes, and the destination's format. -/
def dotShape (fmt : Nat) : Nat × Nat :=
  match fmt with
  | 0x03 => (4, 0x05) | 0x0B => (4, 0x0D) | 0x04 => (4, 0x06) | 0x0C => (4, 0x0E)
  | _ => (2, 0x11)

/-- An integer result at a format: modulo its width, or clamped with SO. -/
def fitInt (sat : Bool) (fmt : Nat) (z : Int) : FRes :=
  if sat then clampRes (fmtSigned fmt) (fmtBits fmt) z else (wrap (fmtBits fmt) z, 0)

/-- A sum of products and an addend in a wider format, rounded once or fitted. -/
def sumProducts (src dst : Nat) (r : RndCtx) (fz : Bool) (prods : List (Nat × Nat)) (c : Nat) : FRes :=
  match floatOf src, floatOf dst with
  | some fs, some fd =>
    let ps := prods.map fun p => (fs.decodeFzi fz p.1, fs.decodeFzi fz p.2)
    let nv := ps.any fun p => p.1.zeroTimesInf p.2 || p.1.isSignalling || p.2.isSignalling
    sumRound fd r ((ps.map fun p => p.1.mul p.2) ++ [some (fd.decodeFzi fz c)]) nv
  | _, _ =>
    fitInt r.sat dst (prods.foldl (fun z p => z + asInt src p.1 * asInt src p.2) (asInt dst c))

def execVdot (f : FmtV) (s : State) : Out :=
  let src := f.fmt.toNat
  let (k, dst) := dotShape src
  let w := fmtBits src
  let wd := fmtBits dst
  vFrame f wd [f.vd, f.va, f.vb, f.vc]
    (fun b e => b.badV f.vc wd e || (List.range k).any fun j => b.badV f.va w (k * e + j) || b.badB f w (k * e + j)) (fun bad s =>
    let b := s.blk
    let g := fun e =>
      sumProducts src dst (b.vRnd f.rnd.toNat f.sat.toNat e) (fzi b.ctl.fctl)
        ((List.range k).map fun j => (vGet (b.getV f.va) w (k * e + j), s.srcB f w (k * e + j))) (vGet (b.getV f.vc) wd e)
    s.endV f f.vd wd bad
      (runElems (b.active f.gm) g b.raises (fun v e x => vSet v wd e x) (s.vlen f.vl wd) 0 (b.getV f.vd) 0)) s

/-- The double-width format of VWMAC. -/
def wideFmt (fmt : Nat) : Nat :=
  match fmt with
  | 0x03 => 0x04 | 0x04 => 0x05 | 0x05 => 0x06 | 0x0B => 0x0C | 0x0C => 0x0D | 0x0D => 0x0E
  | 0x11 => 0x10 | _ => 0x11

def execVwmac (f : FmtV) (s : State) : Out :=
  let src := f.fmt.toNat
  let dst := wideFmt src
  let w := fmtBits src
  let wd := fmtBits dst
  vFrame f wd [f.vd, f.va, f.vb] (fun b e => b.badV f.vd wd e || b.badV f.va w e || b.badB f w e) (fun bad s =>
    let b := s.blk
    let g := fun e =>
      sumProducts src dst (b.vRnd f.rnd.toNat f.sat.toNat e) (fzi b.ctl.fctl)
        [(vGet (b.getV f.va) w e, s.srcB f w e)] (vGet (b.getV f.vd) wd e)
    s.endV f f.vd wd bad
      (runElems (b.active f.gm) g b.raises (fun v e x => vSet v wd e x) (s.vlen f.vl wd) 0 (b.getV f.vd) 0)) s

def execVrng (f : FmtV) (s : State) : Out :=
  vPlain f [] (fun _ _ => false) (fun s _ e => (gen s.blk.ctl.seed (s.blk.ctl.stripb + BitVec.ofNat 64 e)).toNat) s

end Sys2Proof.Machine
end

