-- ==== Sys2Proof/Machine/TileCore.lean ====
section
/-! DEFINITION. The block sequencer: names, slots, units and accumulator regions, acceptance of a tile instruction,
retirement, and the discard of younger instructions (spec 06 R127 to R137; spec 15 R375, R376; spec 10 R267). -/

namespace Sys2Proof.Machine

/-! ## Which queue an instruction uses (R127, R409) -/

/-- The engine queue of a tile instruction; none for one that retires at acceptance (R376). -/
def engineOf (i : Instr) : Option EngineQ :=
  match i with
  | .tld _ | .tlda _ | .tgath _ | .tprobe _ | .trecv _ | .tchain _ => some .copyIn
  | .tst _ | .tsta _ | .tscat _ | .tsend _ | .tmcast _ => some .copyOut
  | .tmma _ | .tmmas _ | .tmmaq _ | .topa _ | .taccl _ | .text _ | .textv _ => some .matrix
  | .tzero f | .tfree f => if 48 ≤ f.td.toNat then some .matrix else some .lane
  | .tmap _ | .tew _ | .tred _ | .tfill _ | .ttrn _ | .tcvt _ | .tscale _ | .trand _ | .tplane _ | .tplaneRw _
  | .tpacksMeta _ | .tpacksSel _ | .trowv _ | .tvrow _ => some .lane
  | .tscan _ | .tscanc _ | .cpass _ | .cinit _ => some .scan
  | _ => none

/-- Whether its micro-operations wait for every older fault point (R133): copy-outs and sends, writers of an accumulator,
carry sends. -/
def heldByOlder (i : Instr) : Bool :=
  match i with
  | .tst _ | .tsta _ | .tscat _ | .tsend _ | .tmcast _ | .tmma _ | .tmmas _ | .tmmaq _ | .topa _ | .taccl _
  | .tscanc _ | .cpass _ => true
  | .tzero f | .tfree f => 48 ≤ f.td.toNat
  | _ => false

/-- The A name that a tile instruction writes. -/
def accDest (i : Instr) : Option Nat :=
  match i with
  | .tmma f | .tmmas f | .tmmaq f | .topa f | .taccl f => some f.td.toNat
  | .tzero f | .tfree f => if 48 ≤ f.td.toNat then some f.td.toNat else none
  | _ => none

namespace Block

/-- The unretired tile instructions that count: a parked one is absent (R470). -/
def live (b : Block) : List TileRec := b.trecs.filter fun t => t.phase != .parked
/-- The parked instruction (R267). -/
def parked (b : Block) : Option TileRec := b.trecs.find? fun t => t.phase == .parked
/-- Whether every unretired tile instruction has passed its fault point (R132). -/
def pastFaults (b : Block) : Bool := b.live.all (·.faultPassed)

/-- Replaces the record of a sequence number. -/
def setRec (b : Block) (t : TileRec) : Block := { b with trecs := mapIf (fun u => u.seq == t.seq) (fun _ => t) b.trecs }

def tname (b : Block) (n : Nat) : Option TName := aget b.tnames n
def setTname (b : Block) (n : Nat) (t : TName) : Block := { b with tnames := aset b.tnames n t }
def aname (b : Block) (n : Nat) : Option AName := aget b.anames n

/-- The region that tile instruction `q` means by A name `n`: the one of the first younger TFREE, else the declared one. -/
def region (b : Block) (q n : Nat) : Option AName :=
  match b.freeing.find? fun x => q < x.1 && x.2.1 == n with
  | some x => some x.2.2
  | none => b.aname n
def setRegion (b : Block) (q n : Nat) (a : AName) : Block :=
  match b.freeing.find? fun x => q < x.1 && x.2.1 == n with
  | some x => { b with freeing := mapIf (fun y => y.1 == x.1) (fun _ => (x.1, n, a)) b.freeing }
  | none => { b with anames := aset b.anames n a }

/-- A tile name as a source (R131, R383). -/
def tsrc (b : Block) (n : Nat) : Option TSrc :=
  (b.tname n).map fun t =>
    match t.view with
    | some v => { slot := v.slotId, rcd := t.rcd, off := Shape.bitPos t.rcd v.row0 v.col0 }
    | none => { slot := t.cur, rcd := t.rcd, off := 0 }

/-- A T field that names no declared T name (R375). -/
def badT (b : Block) (n : BitVec 6) : Bool := 48 ≤ n.toNat || (b.tname n.toNat).isNone
/-- A destination field: a view is refused too (R266). -/
def badDst (b : Block) (n : BitVec 6) : Bool :=
  match b.tname n.toNat with
  | some t => 48 ≤ n.toNat || t.view.isSome
  | none => true
/-- An A field that names no declared A name. -/
def badA (b : Block) (n : BitVec 6) : Bool := n.toNat < 48 || (b.aname n.toNat).isNone
/-- A destination bound by TCHAIN, or that of the parked instruction (R435, R267); `keep` is the parked instruction that is
accepted again. -/
def lateDst (b : Block) (keep : Option TileRec) (n : BitVec 6) : Bool :=
  (match b.tname n.toNat with
    | some t => t.chain.isSome && t.chain != keep.map (·.seq)
    | none => false) ||
  (keep.isNone && match b.parked with
    | some p => p.dst.any (fun d => d.name == n.toNat) || accDest p.ins == some n.toNat
    | none => false)
/-- The record of a T name; zero when undeclared. -/
def shapeOf (b : Block) (n : BitVec 6) : Shape := ((b.tname n.toNat).map (·.rcd)).getD 0
/-- The accumulator of an A name. -/
def accOf (b : Block) (n : BitVec 6) : AName :=
  (b.aname n.toNat).getD { rcd := 0, empty := true, rect := (0, 0, 0, 0), rows := 0, cols := 0, elems := [], aov := false }

end Block

/-! ## Fault records of acceptance -/

def tsFault : FaultRec := { cause := .tilestate }
def illopFault : FaultRec := { cause := .illop }
def lanesFault : FaultRec := { cause := .lanes }
def formatFault : FaultRec := { cause := .format }
/-- SHAPE among operands: the first operand found wrong (R376). -/
def shapeFault (n : BitVec 6) : FaultRec := { cause := .shape, tile := some n.toNat, detail := 0x40 + n.toNat }
/-- SHAPE of a record: its D number (R379). -/
def recordFault (d : Nat) : FaultRec := { cause := .shape, detail := d }
def carryFault (d : Nat) : FaultRec := { cause := .carry, detail := d }

/-- The first check that fails. -/
def firstFault (l : List (Bool × FaultRec)) : Option FaultRec := (l.find? (·.1)).map (·.2)

/-! ## Slots and units (R129, R130) -/

namespace State

/-- The placed blocks of a core. -/
def blocksOf (s : State) (c : Nat) : List (Nat × Block) := s.blocks.filter fun (e : Nat × Block) => coreOf e.1 == c

/-- Every reservation of a core: slot in use (0 for none) and units. -/
def reservations (s : State) (c : Nat) : List (Nat × List Nat) :=
  (s.blocksOf c).flatMap fun e => (e.2.tnames.flatMap fun t => t.2.resv) ++ e.2.lingering.flatMap (·.resv)

/-- The free 4 KiB units of a core, ascending: those of TILE-mode banks that no reservation and no slot holds. For a block of another
stage than the one they are lent to, units of lent banks come last (R102). -/
def freeUnits (s : State) (c stage : Nat) : List Nat :=
  let k := s.core c
  let used := (s.reservations c).flatMap (·.2) ++ k.slots.flatMap (·.units)
  let us := ((List.range 256).filter fun u => k.banks[u / 8]? == some .tile).filter fun u => !used.contains u
  let lent := fun (u : Nat) => k.lentStage != 0 && k.lentStage != stage && k.lentBanks.contains (u / 8)
  us.filter (fun u => !lent u) ++ us.filter lent

/-- Physical slots taken: reserved ones, and those drawn beyond a reservation. -/
def slotsTaken (s : State) (c : Nat) : Nat :=
  let r := s.reservations c
  r.length + ((s.core c).slots.filter fun x => x.placed && !r.any fun y => y.1 == x.id).length

def slot (s : State) (c id : Nat) : Option Slot := (s.core c).slots.find? fun x => x.id == id
def updSlot (s : State) (c id : Nat) (f : Slot → Slot) : State :=
  s.updCore c fun k => { k with slots := mapIf (fun x => x.id == id) f k.slots }

/-- A slot returns to EMPTY: its reservation entry is free again (R130). -/
def dropSlot (s : State) (h id : Nat) : State :=
  let c := coreOf h
  let free := fun (t : TName) => { t with resv := t.resv.map fun e => if e.1 = id then (0, e.2) else e }
  (s.updCore c fun k => { k with slots := k.slots.filter fun x => x.id != id }).updBlkAt h fun b =>
    { b with
      tnames := b.tnames.map fun e => (e.1, free e.2)
      lingering := (b.lingering.map free).filter fun t => t.resv.any fun e => e.1 != 0 }

/-- Whether a slot has readers: an unretired instruction or a view (R130, R383). -/
def hasReaders (s : State) (h id : Nat) : Bool :=
  let b := s.blkAt h
  b.live.any (fun t => t.src.any fun x => x.slot == id) ||
    b.tnames.any fun e => match e.2.view with
      | some v => v.slotId == id
      | none => false

/-- The DRAINING slots of a hart without readers whose superseding writer has retired become EMPTY (R130). -/
def sweep (s : State) (h : Nat) : State :=
  let b := s.blkAt h
  let gone := (s.core (coreOf h)).slots.filter fun x =>
    x.owner == h && x.state == .draining && x.filled && !s.hasReaders h x.id &&
      (match x.superseded with
        | some q => q == 0 || !b.trecs.any fun t => t.seq == q
        | none => false)
  gone.foldl (fun s x => s.dropSlot h x.id) s

/-- A slot's producer has finished (R130). -/
def fillSlot (s : State) (c id content undef : Nat) : State :=
  s.updSlot c id fun x =>
    { x with content := content, undef := undef, filled := true, prog := none
             state := if x.superseded.isSome then .draining else .ready }

/-- Takes units and a slot for a destination: from the name's reservation when at most one other slot of the name is not
EMPTY, else, for a copy-in, from the core's unreserved space (R129). None while neither can be had. -/
def placeSlot (s : State) (h : Nat) (d : TDst) (copyIn : Bool) : Option State :=
  let c := coreOf h
  let b := s.blkAt h
  let others := (s.core c).slots.filter fun x => x.owner == h && x.name == d.name && x.placed && x.id != d.slot
  let put := fun (s : State) (us : List Nat) => s.updSlot c d.slot fun x => { x with units := us, placed := true }
  if others.length ≤ 1 then
    match b.tname d.name with
    | some t =>
      match t.resv.find? fun e => e.1 == 0 with
      | some (_, us) =>
        let i := (firstIdx (fun (e : Nat × List Nat) => e.1 == 0) t.resv).getD 0
        some ((put s us).updBlkAt h fun b => b.setTname d.name { t with resv := t.resv.set i (d.slot, us) })
      | none => none
    | none => none
  else if copyIn then
    let us := s.freeUnits c b.stage
    let n := Shape.units d.rcd
    if n ≤ us.length && s.slotsTaken c < 128 then some (put s (us.take n)) else none
  else none

/-- Whether a destination's slot has its units. -/
def slotPlaced (s : State) (h id : Nat) : Bool := ((s.slot (coreOf h) id).map (·.placed)).getD false

/-- Gives tile instruction `q` a new slot of name `n`: the name maps to it, the slot before is superseded (R130, R468). -/
def newSlot (s : State) (q n : Nat) (copyIn : Bool) : State × TDst :=
  let h := s.cur
  let c := s.myCore
  match s.blk.tname n with
  | none => (s, { name := n, slot := 0, before := 0, rcd := 0 })
  | some t =>
    let (id, s) := s.fresh
    let d : TDst := { name := n, slot := id, before := t.cur, rcd := t.rcd }
    let s := s.updSlot c t.cur fun x =>
      { x with superseded := some q, state := if x.state == .ready then .draining else x.state }
    let s := s.updCore c fun k =>
      { k with slots := k.slots ++ [{ id := id, state := .filling, owner := h, name := n, units := [], filled := false
                                      placed := false, undef := gapBits t.rcd }] }
    let s := s.updBlk fun b => b.setTname n { t with cur := id }
    -- a copy-in that waits for its slot holds those behind it (R128)
    let held := copyIn && (s.blkAt h).live.any fun u => u.dst.any fun x => !s.slotPlaced h x.slot
    (if held then s else (s.placeSlot h d copyIn).getD s, d)

/-- Whether the slot that an instruction other than a copy-in writes can be had: at most one other slot of the name is not EMPTY, and its
reservation has one free (R129). -/
def canPlace (s : State) (n : Nat) : Bool :=
  match s.blk.tname n with
  | some t => ((s.core s.myCore).slots.filter fun x => x.owner == s.cur && x.name == n).length ≤ 1 && t.resv.any fun e => e.1 == 0
  | none => true

/-! ## Accumulator regions (R137) -/

/-- Whether two rectangles of units overlap. -/
def rectHit (a b : Nat × Nat × Nat × Nat) : Bool :=
  a.1 < b.1 + b.2.2.1 && b.1 < a.1 + a.2.2.1 && a.2.1 < b.2.1 + b.2.2.2 && b.2.1 < a.2.1 + a.2.2.2

/-- The rectangles taken on a core. -/
def rects (s : State) (c : Nat) : List (Nat × Nat × Nat × Nat) :=
  (s.blocksOf c).flatMap fun e =>
    ((e.2.anames.map (·.2)) ++ e.2.freeing.map (·.2.2)).filterMap fun a => if a.empty then none else some a.rect

/-- The first free rectangle for r × c elements in row-major order of the 4 × 10 grid. -/
def freeRect (s : State) (core r c : Nat) : Option (Nat × Nat × Nat × Nat) :=
  let h := cdiv r 32
  let w := cdiv c 32
  let taken := s.rects core
  ((List.range 40).map fun i => (i / 10, i % 10, h, w)).find? fun x =>
    x.1 + h ≤ 4 && x.2.1 + w ≤ 10 && !taken.any (rectHit x)

end State

/-! ## Acceptance (R127, R128, R376) -/

/-- What acceptance gives: the instruction accepted, a trap taken at issue, a hart that is not eligible, or a state in
which it already trapped or waits. -/
inductive AccRes where
  | ok (s : State)
  | trap (s : State) (r : FaultRec)
  | wait
  | stop (s : State)

namespace State

/-- Entries of an engine queue in use on a core (R127). -/
def queueUse (s : State) (c : Nat) (q : EngineQ) : Nat :=
  (s.blocksOf c).foldl (fun n e => n + (e.2.live.filter fun t => engineOf t.ins == some q && t.phase != .finished).length) 0

/-- Whether the block may have another tile instruction accepted into its queue (R127, R128). -/
def mayAccept (s : State) (i : Instr) : Bool :=
  s.blk.live.length < 16 &&
    (match engineOf i with
      | some q => s.queueUse s.myCore q < 64
      | none => true)

/-- The record of an instruction with what every acceptance captures (R239, R178). -/
def baseRec (s : State) (i : Instr) (lit : Bool) : TileRec :=
  let b := s.blk
  { seq := b.seqNext, ins := i, pc := b.pc, lit := lit, fctl := b.ctl.fctl, seed := b.ctl.seed, stripb := b.ctl.stripb
    srgn := b.ctl.srgn.toList }

/-- Bits of the first `n` stored elements of a tile. -/
def elemBits (d : Shape) (n : Nat) : Nat := (d.cells.take n).foldl (fun x rc => slotPut d x rc.1 rc.2 (2 ^ d.bits - 1)) 0

/-- `n` words of free values as one number. -/
def freeBits (first : Nat) : Nat → Nat
  | 0 => 0
  | n + 1 => freeBits first n + (Config.freeValue (first + n)).toNat <<< (64 * n)

/-- The elements below ESTART of a new slot, which its instruction skips (R269), hold free values (log entry 4). -/
def skipElems (s : State) (ds : List TDst) (start : Nat) : State :=
  ds.foldl (fun (s : State) d =>
    let m := elemBits d.rcd start
    let n := cdiv (bitLen m) 64
    { s.updSlot s.myCore d.slot (fun x => { x with content := freeBits s.free n &&& m }) with free := s.free + n }) s

/-- Accepts an instruction whose checks have passed: it takes its destination slots and joins the sequencer, to go on from
ESTART (R269). `keep` is the parked record that ERET accepts again, with its slot, progress and layout record (R268). -/
def enroll (s : State) (t : TileRec) (dsts : List Nat) (keep : Option TileRec) : State :=
  let copyIn := engineOf t.ins == some .copyIn
  let start := s.blk.estart.toNat
  let (id, s) := s.fresh
  match keep with
  | some p =>
    let s := p.dst.foldl (fun (s : State) d => s.updSlot s.myCore d.before fun x => { x with superseded := some t.seq }) s
    let t := { t with stamp := id, dst := p.dst, dims := p.dims, progress := start, xlated := start, watchAt := p.watchAt
                      part := if p.progress = start then p.part else [], segs := if p.progress = start then p.segs else [] }
    s.updBlk fun b => { b with trecs := (b.trecs.filter fun u => u.phase != .parked) ++ [t], seqNext := b.seqNext + 1 }
  | none =>
    let (s, ds) := dsts.foldl (fun (x : State × List TDst) n =>
      let r := x.1.newSlot t.seq n copyIn
      (r.1, x.2 ++ [r.2])) (s, [])
    let s := if start = 0 then s else s.skipElems ds start
    let t := { t with stamp := id, dst := ds, progress := start, xlated := start }
    s.updBlk fun b => { b with trecs := b.trecs ++ [t], seqNext := b.seqNext + 1 }

/-- A tile instruction whose checks failed while older ones are unretired: its trap waits for them (R134). -/
def refuse (s : State) (i : Instr) (lit : Bool) (r : FaultRec) : State :=
  let (id, s) := s.fresh
  s.updBlk fun b =>
    { b with
      trecs := b.trecs ++ [{ s.baseRec i lit with stamp := id, phase := .finished, faultPassed := false, fault := some r, refused := true
                                                  progress := r.estart }]
      seqNext := b.seqNext + 1 }

/-- Acceptance of an instruction that uses an engine: its checks in order, then its record. One that writes a slot without being a copy-in
waits until the slot can be had (R129). -/
def takeIn (s : State) (t : TileRec) (checks : List (Bool × FaultRec)) (dsts : List Nat) (keep : Option TileRec) : AccRes :=
  if !s.mayAccept t.ins then .wait
  else
    match firstFault checks with
    | some r => .trap s r
    | none =>
      if keep.isNone && engineOf t.ins != some .copyIn && !dsts.all s.canPlace then .wait
      else .ok (s.enroll t dsts keep)

/-! ## Retirement and discard (R127, R134) -/

/-- The oldest unretired tile instruction that counts. -/
def oldestRec (s : State) (h : Nat) : Option TileRec := (s.blkAt h).live.head?

/-- Undoes the effect of accepting an instruction: its slots return to EMPTY, each name maps to its slot before, its token
is released, a freed accumulator is declared again (R134, R382). -/
def undoRec (s : State) (h : Nat) (t : TileRec) : State :=
  if t.refused then s.updBlkAt h fun b => { b with trecs := b.trecs.filter fun u => u.seq != t.seq }
  else
  let c := coreOf h
  let s := t.dst.reverse.foldl (fun (s : State) d =>
    let s := s.dropSlot h d.slot
    let s := s.updBlkAt h fun b => match b.tname d.name with
      | some n => b.setTname d.name { n with cur := d.before, chain := none }
      | none => b
    s.updSlot c d.before fun x => { x with superseded := none, state := if x.filled then .ready else .filling }) s
  let s := { s with streams := s.streams.map fun (x : Stream) =>
    if x.receiver == some t.seq && t.streams.contains x.id then { x with receiver := none, arrived := 0, headerSeen := false }
    else x }
  s.updBlkAt h fun b =>
    let b : Block := match b.freeing.find? fun x => x.1 == t.seq with
      | some (_, n, a) => { b with freeing := b.freeing.filter (fun x => x.1 != t.seq), anames := aset b.anames n a }
      | none => b
    let b : Block := match t.ins with
      | .tprobe _ => { b with tokens := b.tokens.filter fun k => k.seq != t.token || t.token == 0 }
      | .tscanc _ | .cpass _ => { b with chain := b.chain.map fun (k : Chain) => { k with next := min k.next t.chSeq } }
      | _ => b
    { b with trecs := b.trecs.filter fun u => u.seq != t.seq }

/-- Discards every instruction younger than `q`, the youngest first (R134). -/
def discardYounger (s : State) (h q : Nat) : State :=
  let young := ((s.blkAt h).live.filter fun t => q < t.seq).reverse
  (young.foldl (fun (s : State) t => s.undoRec h t) s).sweep h

/-- Discards the parked instruction (R268). -/
def dropParked (s : State) (h : Nat) : State :=
  match (s.blkAt h).parked with
  | some p => (s.undoRec h p).sweep h
  | none => s

end State

end Sys2Proof.Machine
end

