-- ==== Sys2Proof/Machine/Matrix.lean ====
section
/-! DEFINITION. The matrix engine: products into an accumulator, extraction, loading and clearing, as functions of an
accumulator's elements and the slots' contents (spec 09 R248 to R251; spec 06 R136 to R139; spec 15 R387 to R395). -/

namespace Sys2Proof.Machine

/-! ## Accumulator arithmetic (R234, R235, R249) -/

/-- Only NV and OF are set inside the accumulator (R249). -/
def accFlags (f : Flags) : Flags := f &&& (flagNV ||| flagOF)

/-- The exact product, a NaN where it has none; NV for a signalling operand or 0 × ∞. -/
def accMul (a b : FVal) : FVal × Flags :=
  (match a.mul b with
    | some v => v
    | none => .nan false, flagIf (a.isSignalling || b.isSignalling || a.zeroTimesInf b) flagNV)

/-- Round(ACCF, RNE, acc + p). -/
def accAdd (acc : Nat) (p : FVal × Flags) : FRes :=
  let r := fmtACCF.addV { mode := 0 } (fmtACCF.decode acc) p.1
  (r.1, accFlags r.2 ||| p.2)

/-- An ACCI addition: the nearer bound when it leaves the range, with AOV (R235). -/
def acciAdd (acc : Nat) (z : Int) : Nat × Bool :=
  let x := toSigned 96 acc + z
  (wrap 96 (clampInt true 96 x), x != clampInt true 96 x)

/-! ## Products (R248, R250) -/

/-- The operands of a matrix instruction: A, B and, for TMMAS, the metadata. -/
structure MatIn where
  da : Shape
  xa : Nat
  db : Shape
  xb : Nat
  offb : Nat
  meta? : Option (Shape × Nat × Nat)
  deriving DecidableEq, Repr

namespace MatIn

/-- Steps in all: K, or K ÷ 2 stored steps (R139). -/
def steps (m : MatIn) : Nat := m.da.stored

/-- The metadata nibble of row `i`, group `h`. -/
def nibble (m : MatIn) (i h : Nat) : Nat :=
  match m.meta? with
  | some (d, x, off) => slotElem d x off i h
  | none => 0

/-- The dense k of stored step `t` in row `i` (R250). -/
def dense (m : MatIn) (i t : Nat) : Nat :=
  if m.da.sp then 4 * (t / 2) + (if t % 2 = 0 then m.nibble i (t / 2) % 4 else m.nibble i (t / 2) / 4 % 4) else t

/-- Steps of one group or block; 1 where the class has none. -/
def groupSteps (m : MatIn) : Nat :=
  if fmtQI m.da.fmt then m.da.group else if fmtX m.da.fmt then (if m.da.sp then 64 else 128) else 1

def aElem (m : MatIn) (i t : Nat) : Nat := slotElem m.da m.xa 0 i t
def bElem (m : MatIn) (k j : Nat) : Nat := slotElem m.db m.xb m.offb k j

/-- The product of step `t` in cell (i, j) as values of the base formats (R248). -/
def product (m : MatIn) (i j t : Nat) : FVal × Flags :=
  accMul (baseVal m.da.fmt (m.aElem i t)) (baseVal m.db.fmt (m.bElem (m.dense i t) j))

/-- An integer product, exactly. -/
def intProduct (m : MatIn) (i j t : Nat) : Int :=
  asInt m.da.fmt (m.aElem i t) * asInt m.db.fmt (m.bElem (m.dense i t) j)

/-- One step of an X class cell: into the group partial; the last of a group scales it exactly and adds it. -/
def stepX (m : MatIn) (i j t acc part : Nat) : Nat × Nat × Flags :=
  let p := accAdd part (m.product i j t)
  if (t + 1) % m.groupSteps = 0 then
    let k := m.dense i t
    let v := ((fmtACCF.decode p.1).e8m0 (slotScale m.da m.xa i t)).e8m0 (slotScale m.db m.xb k j)
    let r := accAdd acc (v, 0)
    (r.1, 0, p.2 ||| r.2)
  else (acc, p.1, p.2)

/-- One step of a QI class cell: q − z times b into the partial; the last of a group scales it and adds it, a rounding each. -/
def stepQI (m : MatIn) (i j t acc part : Nat) : Nat × Nat × Flags :=
  let rcd := slotScale m.da m.xa i t
  let p := accAdd part (accMul (intVal (qiDiff m.da.fmt (m.aElem i t) rcd)) (baseVal m.db.fmt (m.bElem t j)))
  if (t + 1) % m.groupSteps = 0 then
    let pr := accMul (fmtACCF.decode p.1) (qiScale rcd)
    let sc := fmtACCF.roundV { mode := 0 } pr.1
    let r := accAdd acc (fmtACCF.decode sc.1, accFlags sc.2 ||| pr.2)
    (r.1, 0, p.2 ||| r.2)
  else (acc, p.1, p.2)

/-- Step `t` in cell (i, j) from its accumulator and group partial: both after it, the flags, AOV. -/
def cellStep (m : MatIn) (i j t : Nat) (c : Nat × Nat × Flags × Bool) : Nat × Nat × Flags × Bool :=
  match classA m.da.fmt with
  | some 1 => let a := acciAdd c.1 (m.intProduct i j t); (a.1, c.2.1, c.2.2.1, c.2.2.2 || a.2)
  | some 0 => let r := accAdd c.1 (m.product i j t); (r.1, c.2.1, c.2.2.1 ||| r.2, c.2.2.2)
  | some 3 => let r := m.stepQI i j t c.1 c.2.1; (r.1, r.2.1, c.2.2.1 ||| r.2.2, c.2.2.2)
  | _ => let r := m.stepX i j t c.1 c.2.1; (r.1, r.2.1, c.2.2.1 ||| r.2.2, c.2.2.2)

/-- Steps `t` to `t + n − 1` of an instruction on its accumulator and group partials; cells outside M × N are unchanged
(R387, R248). -/
def run (m : MatIn) (t n : Nat) (a : AName) (part : List Nat) : AName × List Nat × Flags :=
  let out := (a.elems.zipIdx).map fun (x, idx) =>
    let i := idx / a.cols
    let j := idx % a.cols
    if i < m.da.rows && j < m.db.cols then
      (List.range n).foldl (fun c u => m.cellStep i j (t + u) c) (x.toNat, (part[idx]?).getD 0, 0, false)
    else (x.toNat, 0, 0, false)
  ({ a with elems := out.map (fun r => BitVec.ofNat 96 r.1), aov := a.aov || out.any (·.2.2.2) }, out.map (·.2.1),
    out.foldl (fun f r => f ||| r.2.2.1) 0)

/-- The first illegal group of the metadata from group `g0`: the lowest group, then the lowest row (R139). -/
def badGroup (m : MatIn) (g0 : Nat) : Option (Nat × Nat) :=
  ((List.range (m.da.cols / 4)).filter (g0 ≤ ·)).findSome? fun g =>
    ((List.range m.da.rows).find? fun i =>
      let n := m.nibble i g
      n / 4 % 4 ≤ n % 4).map fun i => (g, i)

end MatIn

/-! ## TOPA (R391) -/

/-- The outer product of two V registers added to an accumulator. -/
def topaRun (fmt len : Nat) (gm : BitVec 4) (mask : BitVec 1024) (va vb : BitVec 8192) (a : AName) : AName × Flags :=
  let w := fmtBits fmt
  let act := fun e => gm == 15 || mask.getLsbD e
  let out := (a.elems.zipIdx).map fun (x, idx) =>
    let i := idx / a.cols
    let j := idx % a.cols
    if i < len && j < len && act i && act j then
      let p := vGet va w i
      let q := vGet vb w j
      match floatOf fmt with
      | some f => let r := accAdd x.toNat (accMul (f.decode p) (f.decode q)); (r.1, r.2, false)
      | none => let r := acciAdd x.toNat (asInt fmt p * asInt fmt q); (r.1, (0 : Flags), r.2)
    else (x.toNat, 0, false)
  ({ a with elems := out.map (fun r => BitVec.ofNat 96 r.1), aov := a.aov || out.any (·.2.2) },
    out.foldl (fun f r => f ||| r.2.1) 0)

/-! ## Extraction, loading, clearing (R251, R392 to R395) -/

/-- An accumulator element in a destination format (R251). -/
def extract (isFloat : Bool) (dst : Nat) (r : RndCtx) (x : Nat) : FRes :=
  if isFloat then
    match floatOf dst with
    | some f => f.convert r (fmtACCF.decode x)
    | none => toInteger r (fmtSigned dst) (fmtBits dst) (fmtACCF.decode x)
  else
    match floatOf dst with
    | some f => f.convert r (intVal (toSigned 96 x))
    | none => intToInt r.sat (fmtSigned dst) (fmtBits dst) (toSigned 96 x)

/-- An element as TACCL loads it: exact, NaNs canonical (R393). -/
def accLoad (d : Shape) (x off r c : Nat) : Nat :=
  let v := slotElem d x off r c
  match floatOf d.fmt with
  | some f => (fmtACCF.convert { mode := 0 } (f.decode v)).1
  | none => wrap 96 (asInt d.fmt v)

/-- Formats that suit an accumulator: floats for ACCF, and for ACCI the integers of TACCL (R393). -/
def suitsLoad (acc fmt : Nat) : Bool :=
  if acc = 0x20 then 0x10 ≤ fmt && fmt ≤ 0x16 else fmtInteger fmt
/-- Formats that TEXT may write (R394). -/
def suitsExtract (acc fmt : Nat) : Bool :=
  (0x10 ≤ fmt && fmt ≤ 0x16) || (acc == 0x21 && fmtInteger fmt)

/-- Rounding of a tile destination element with counter offset `e` (R246, R314). -/
def TileRec.rnd (t : TileRec) (rs : BitVec 4) (e : Nat) : RndCtx :=
  { mode := roundMode t.fctl (rs.toNat % 8), sat := rs.getLsbD 3, fzo := fzo t.fctl
    g := (gen t.seed (t.stripb + BitVec.ofNat 64 e)).toNat % 2 ^ 32 }

end Sys2Proof.Machine
end

