-- ==== Sys2Proof/Machine/Operands.lean ====
section
/-! DEFINITION. Operand forms of the tile instructions: layout records and footprints (spec 16 R422, R423, R428, R213), the
origin of a copy, and the checks of each instruction's operands in the order of R266 (spec 15; spec 16; spec 17). -/

namespace Sys2Proof.Machine

/-! ## Layout records (R422) -/

/-- The dimensions of a layout record: stride and extent of each element before the first that is 0. -/
def layoutDims (v : BitVec 8192) : Nat → Nat → List (Int × Nat)
  | 0, _ => []
  | n + 1, e =>
    let x := vGet v 64 e
    if x = 0 then [] else (toSigned 40 (x >>> 24), x % 2 ^ 24) :: layoutDims v n (e + 1)

/-- A format narrower than a byte. -/
def Shape.narrow (d : Shape) : Bool := d.bits < 8
/-- Bytes of an element; one for narrower formats (R423). -/
def Shape.elemBytes (d : Shape) : Nat := max 1 (d.bits / 8)

/-- Bytes that one step of the dimensions above the packed one covers: an element, or a packed dimension 0. -/
def baseSpan (d : Shape) (dims : List (Int × Nat)) : Nat :=
  if d.narrow then ((dims.head?.map (·.2)).getD 0) * d.bits / 8 else d.elemBytes

/-- Checks 1 to 4 of R423: whether the record fails. -/
def layoutBad (d : Shape) (dims : List (Int × Nat)) : Bool :=
  dims.isEmpty || 8 < dims.length || dims.any (fun x => x.2 == 0) || dims.foldl (fun n x => n * x.2) 1 != d.count ||
    (match dims with
      | (s0, e0) :: _ => if d.narrow then s0 != 0 || e0 * d.bits % 8 != 0 else dims.any fun x => x.1 % d.elemBytes != 0
      | [] => true)

/-- Inserts a stride and extent into a list sorted by |stride|, after its equals. -/
def insStride (x : Nat × Nat) : List (Nat × Nat) → List (Nat × Nat)
  | [] => [x]
  | y :: t => if x.1 < y.1 then x :: y :: t else y :: insStride x t

/-- Check 5 of R423: whether the record can address one byte twice. -/
def layoutOverlaps (d : Shape) (dims : List (Int × Nat)) : Bool :=
  let free := if d.narrow then dims.tail else dims
  let sorted := (free.filter fun x => 1 < x.2).foldl (fun l x => insStride (x.1.natAbs, x.2) l) []
  (sorted.foldl (fun (r : Bool × Nat) x => (r.1 || x.1 < r.2, r.2 + (x.2 - 1) * x.1)) (false, baseSpan d dims)).1

/-- The offset from the origin of the element with linear index `n`, and its bit in the byte there (R422). -/
def dimsOffset : List (Int × Nat) → Nat → Int
  | [], _ => 0
  | (s, e) :: t, n => (n % e : Nat) * s + dimsOffset t (n / e)

/-- The address of element `n` of a copy and its first bit there. -/
def elemAddr (d : Shape) (dims : List (Int × Nat)) (o : Word) (n : Nat) : Nat × Nat :=
  let a := (o + BitVec.ofInt 64 (dimsOffset dims n)).toNat
  if d.narrow then
    let i := n % ((dims.head?.map (·.2)).getD 1)
    ((a + i * d.bits / 8) % 2 ^ 64, i * d.bits % 8)
  else (a, 0)

/-- The lowest footprint byte as an offset from the origin, and the bytes to one past the highest (R428). -/
def footprint (d : Shape) (dims : List (Int × Nat)) : Int × Nat :=
  let lo := dims.foldl (fun (z : Int) (x : Int × Nat) => z + min 0 (((x.2 - 1 : Nat) : Int) * x.1)) 0
  let hi := dims.foldl (fun (z : Int) (x : Int × Nat) => z + max 0 (((x.2 - 1 : Nat) : Int) * x.1)) 0
  (lo, (hi - lo).toNat + baseSpan d dims)

/-- Whether bytes from `va`, `n` of them, lie in a token's pinned range (R213). -/
def Token.covers (k : Token) (va : Word) (n : Nat) : Bool := (va - BitVec.ofNat 64 k.va).toNat + n ≤ k.len

/-- A token value (R427). -/
def Token.value (k : Token) : Word := BitVec.ofNat 64 (k.idx + k.seq <<< 4)
/-- The live token that a value names. -/
def Block.tokenOf (b : Block) (v : Word) : Option Token := b.tokens.find? fun k => k.value == v

/-- The accumulator format of an A name. -/
def AName.fmt (a : AName) : Nat := Shape.fmt a.rcd

/-- imm10 or the literal as a number (R397, R408). -/
def immT (f : FmtT) : Nat := (f.lit.map (·.toNat)).getD f.imm.toNat

/-- The operator of TSCAN, TSCANC and CPASS. -/
def scanOp (f : FmtT) : Nat := f.aux.toNat % 8
/-- The axis: each column is a line. -/
def scanCol (f : FmtT) : Bool := f.aux.getLsbD 3
def scanExcl (f : FmtT) : Bool := f.aux.getLsbD 4

namespace State

/-- The origin of a copy (R421). -/
def originC (s : State) (f : FmtC) : Word := s.getX f.base + s.getX f.xo + f.lit.getD (f.off.signExtend 64)
/-- X[xs] + sext(imm10), or + the literal (R380, R401). -/
def valueT (s : State) (f : FmtT) : Word := s.getX f.xs + f.lit.getD (f.imm.signExtend 64)


/-! ## Building an acceptance (R376) -/

/-- Accepts an instruction with tile sources `ts`, accumulators `as` and destinations `ds`. -/
def admitT (s : State) (t : TileRec) (checks : List (Bool × FaultRec)) (ts as ds : List Nat) (keep : Option TileRec) : AccRes :=
  s.takeIn { t with names := ds ++ ts ++ as, src := ts.filterMap s.blk.tsrc } checks ds keep

end State

/-- Names that are not what their fields require (R266 item 3, R375): sources, destinations, accumulators. -/
def Block.badNames (b : Block) (ts ds as : List (BitVec 6)) : Bool :=
  ts.any b.badT || ds.any b.badDst || as.any b.badA

/-- Whether two tiles have the same rows and columns. -/
def sameDims (a b : Shape) : Bool := a.rows == b.rows && a.cols == b.cols
/-- ROW or COL. -/
def Shape.lined (d : Shape) : Bool := d.layout < 2
/-- Source formats of lane functions and destinations of TCVT (R397, R403). -/
def plainFmt (c : Nat) : Bool := fmtInteger c || (0x10 ≤ c && c ≤ 0x16)

/-! ## Matrix instructions (R387 to R395) -/

/-- The SHAPE checks of R387 in order, each with the operand it names. -/
def mmaShape (a b : Shape) (acc : AName) (sparse : Bool) (f : FmtT) : List (Bool × FaultRec) :=
  [(a.layout != 2, shapeFault f.ta), (b.layout != 0, shapeFault f.tb), (a.sp != sparse, shapeFault f.ta),
   (acc.rows < a.rows, shapeFault f.ta), (acc.cols < b.cols, shapeFault f.tb), (b.rows != a.cols, shapeFault f.tb),
   (fmtX b.fmt && !b.kax, shapeFault f.tb),
   ((fmtX a.fmt && a.cols % 128 != 0) || (fmtQI a.fmt && a.cols % a.group != 0), shapeFault f.ta)]

/-- The pairs and accumulators of R248: class 0 float, 1 integer, 2 X for TMMA and TMMAS, QI with a float for TMMAQ. -/
def mmaPair (qi : Bool) (a b acc : Nat) : Bool :=
  match classA a with
  | some 3 => qi && classA b == some 0 && acc == 0x20
  | some c => !qi && classA b == some c && acc == (if c = 1 then 0x21 else 0x20)
  | none => false

/-- An instruction on an accumulator that a parked instruction keeps, or that is an empty part (R267, R396). -/
def Block.lateA (b : Block) (keep : Option TileRec) (n : BitVec 6) : Bool := (b.accOf n).empty || b.lateDst keep n

namespace State

/-- TMMA, TMMAS (`meta?`) and TMMAQ (`qi`). -/
def acceptMma (s : State) (i : Instr) (f : FmtT) (meta? qi : Bool) (keep : Option TileRec) : AccRes :=
  let b := s.blk
  let da := b.shapeOf f.ta
  let db := b.shapeOf f.tb
  let dc := b.shapeOf f.tc
  let acc := b.accOf f.td
  let ts := if meta? then [f.ta, f.tb, f.tc] else [f.ta, f.tb]
  s.admitT { s.baseRec i false with faultPassed := !meta? }
    ([(b.badNames ts [] [f.td], tsFault)] ++ mmaShape da db acc meta? f ++
      [(meta? && (dc.fmt != 0x23 || dc.rows != da.rows || dc.cols != da.cols / 4), shapeFault f.tc),
       (!mmaPair qi da.fmt db.fmt acc.fmt, formatFault), (b.lateA keep f.td, tsFault)])
    (ts.map (·.toNat)) [f.td.toNat] [] keep

/-- TOPA (R391): VL at the width of aux. -/
def acceptTopa (s : State) (f : FmtT) (keep : Option TileRec) : AccRes :=
  let b := s.blk
  let acc := b.accOf f.td
  let va : BitVec 5 := f.ta.setWidth 5
  let vb : BitVec 5 := f.tb.setWidth 5
  s.admitT
    { s.baseRec (.topa f) false with
      vv := [b.getV va, b.getV vb], mask := b.getM f.mode.toNat, len := s.vlen f.xs (fmtBits f.aux.toNat) }
    [(b.badA f.td, tsFault), (b.lanes == 0, lanesFault),
     (intFmt f.aux != (acc.fmt == 0x21), formatFault), (b.lateA keep f.td, tsFault)]
    [] [f.td.toNat] [] keep

/-- TZERO and TFREE of an A name. -/
def acceptZero (s : State) (i : Instr) (f : FmtT) (keep : Option TileRec) : AccRes :=
  let b := s.blk
  if 48 ≤ f.td.toNat then
    let empty := (match i with
      | .tzero _ => (b.accOf f.td).empty
      | _ => false)
    s.admitT (s.baseRec i false) [(b.badA f.td, tsFault), (empty || b.lateDst keep f.td, tsFault)] [] [f.td.toNat] [] keep
  else s.admitT (s.baseRec i false) [(b.badDst f.td, tsFault), (b.lateDst keep f.td, tsFault)] [] [] [f.td.toNat] keep

def acceptTaccl (s : State) (f : FmtT) (keep : Option TileRec) : AccRes :=
  let b := s.blk
  let d := b.shapeOf f.ta
  let acc := b.accOf f.td
  s.admitT (s.baseRec (.taccl f) false)
    [(b.badNames [f.ta] [] [f.td], tsFault), (d.rows != acc.rows || d.cols != acc.cols || !d.lined, shapeFault f.ta),
     (!suitsLoad acc.fmt d.fmt, formatFault), (b.lateA keep f.td, tsFault)]
    [f.ta.toNat] [f.td.toNat] [] keep

def acceptText (s : State) (f : FmtT) (keep : Option TileRec) : AccRes :=
  let b := s.blk
  let d := b.shapeOf f.td
  let acc := b.accOf f.ta
  s.admitT (s.baseRec (.text f) false)
    [(b.badNames [] [f.td] [f.ta], tsFault), (d.rows != acc.rows || d.cols != acc.cols || d.sp, shapeFault f.td),
     (!suitsExtract acc.fmt d.fmt, formatFault), (acc.empty || b.lateDst keep f.td, tsFault)]
    [] [f.ta.toNat] [f.td.toNat] keep

def acceptTextv (s : State) (f : FmtT) (keep : Option TileRec) : AccRes :=
  let b := s.blk
  let acc := b.accOf f.ta
  let r := (s.getX f.xs).toNat
  s.admitT
    { s.baseRec (.textv f) false with
      vdst := some (f.td.setWidth 5), len := r, xv := [BitVec.ofNat 64 (min acc.cols (b.vlmax (fmtBits f.aux.toNat)))] }
    [(b.badA f.ta, tsFault), (b.lanes == 0, lanesFault), (!suitsExtract acc.fmt f.aux.toNat, formatFault),
     (acc.empty || acc.rows ≤ r, tsFault)]
    [] [f.ta.toNat] [] keep

/-! ## Lane functions (R397 to R400, R437) -/

/-- Fetches the lane function that an instruction names and goes on with its body, inputs and results; ILLOP when there is
none, its fields do not fit (`ok`), or its body is not allowed (R373, R397). -/
def withLaneFn (s : State) (i : Nat) (lit : Bool) (ok : Nat → Nat → Bool) (k : State → List Instr → Nat → Nat → AccRes) : AccRes :=
  match s.laneFn i with
  | none => .trap s illopFault
  | some (va, count, nin, nres) =>
    match s.fetchBody s.blk.gen lit count va [] with
    | .stop s => .stop s
    | .illegal => .trap s illopFault
    | .ok body s => if ok nin nres then k s body nin nres else .trap s illopFault

/-- TMAP: sources up to NIN, destinations td and, with two results, td + 1 (R398). -/
def acceptTmap (s : State) (f : FmtT) (keep : Option TileRec) : AccRes :=
  let ops := [f.ta, f.tb, f.tc, f.aux]
  s.withLaneFn (immT f) f.lit.isSome
    (fun nin nres => (ops.drop nin).all (· == 0) && !(nres == 2 && f.td == 47)) fun s body nin nres =>
      let b := s.blk
      let ts := ops.take nin
      let ds := if nres = 2 then [f.td, f.td + 1] else [f.td]
      let d := b.shapeOf f.td
      s.admitT { s.baseRec (.tmap f) f.lit.isSome with body := body, nin := nin, nres := nres }
        ([(b.badNames ts ds [], tsFault), (!d.lined, shapeFault f.td)] ++
          ts.map (fun t => (!(b.shapeOf t).lined || !sameDims (b.shapeOf t) d, shapeFault t)) ++
          ds.map (fun t => (!(b.shapeOf t).lined || !sameDims (b.shapeOf t) d, shapeFault t)) ++
          [(ts.any (fun t => !plainFmt (b.shapeOf t).fmt), formatFault), (ds.any (b.lateDst keep), tsFault)])
        (ts.map (·.toNat)) [] (ds.map (·.toNat)) keep

/-- Whether a TEW source fits the destination: its shape, one row, one column, or one element (R399). -/
def broadcasts (a d : Shape) : Bool := (a.rows == d.rows || a.rows == 1) && (a.cols == d.cols || a.cols == 1)

def acceptTew (s : State) (f : FmtT) (keep : Option TileRec) : AccRes :=
  let ops := [f.ta, f.tb, f.tc]
  s.withLaneFn (immT f) f.lit.isSome
    (fun nin nres => nres == 1 && (ops.drop nin).all (· == 0) && (nin == 4 || f.xs == 0)) fun s body nin _ =>
      let b := s.blk
      let ts := ops.take nin
      let d := b.shapeOf f.td
      s.admitT { s.baseRec (.tew f) f.lit.isSome with body := body, nin := nin, nres := 1, xv := [s.getX f.xs] }
        ([(b.badNames ts [f.td] [], tsFault), (!d.lined, shapeFault f.td)] ++
          ts.map (fun t => (!(b.shapeOf t).lined || !broadcasts (b.shapeOf t) d, shapeFault t)) ++
          [(ts.any (fun t => !plainFmt (b.shapeOf t).fmt), formatFault), (b.lateDst keep f.td, tsFault)])
        (ts.map (·.toNat)) [] [f.td.toNat] keep

def acceptTred (s : State) (f : FmtT) (keep : Option TileRec) : AccRes :=
  s.withLaneFn (immT f) f.lit.isSome (fun nin nres => nin == 2 && nres == 1) fun s body _ _ =>
    let b := s.blk
    let a := b.shapeOf f.ta
    let d := b.shapeOf f.td
    let fits := if f.mode = 0 then d.rows == a.rows && d.cols == 1 else d.rows == 1 && d.cols == a.cols
    s.admitT { s.baseRec (.tred f) f.lit.isSome with body := body, nin := 2, nres := 1, emptyBit := some false }
      [(b.badNames [f.ta] [f.td] [], tsFault), (!d.lined || !fits, shapeFault f.td), (!a.lined, shapeFault f.ta),
       (!plainFmt a.fmt, formatFault), (b.lateDst keep f.td, tsFault)]
      [f.ta.toNat] [] [f.td.toNat] keep

/-! ## Element-wise instructions (R401 to R408) -/

def acceptTfill (s : State) (f : FmtT) (keep : Option TileRec) : AccRes :=
  let b := s.blk
  let d := b.shapeOf f.td
  s.admitT { s.baseRec (.tfill f) f.lit.isSome with xv := [s.valueT f] }
    [(b.badDst f.td, tsFault), (d.sp, shapeFault f.td), (fmtX d.fmt || fmtQI d.fmt, formatFault), (b.lateDst keep f.td, tsFault)]
    [] [] [f.td.toNat] keep

/-- The instructions with one tile source: SHAPE and FORMAT as each entry gives them. -/
def acceptUnary (s : State) (i : Instr) (f : FmtT) (shapes : Shape → Shape → List (Bool × FaultRec))
    (fmts : Shape → Shape → Bool) (keep : Option TileRec) : AccRes :=
  let b := s.blk
  let d := b.shapeOf f.td
  let a := b.shapeOf f.ta
  s.admitT (s.baseRec i false)
    ([(b.badNames [f.ta] [f.td] [], tsFault)] ++ shapes d a ++ [(!fmts d a, formatFault), (b.lateDst keep f.td, tsFault)])
    [f.ta.toNat] [] [f.td.toNat] keep

def acceptTtrn (s : State) (f : FmtT) (keep : Option TileRec) : AccRes :=
  s.acceptUnary (.ttrn f) f
    (fun d a => [(d.rows != a.cols || d.cols != a.rows || d.sp, shapeFault f.td), (a.sp, shapeFault f.ta)])
    (fun d a => d.fmt == a.fmt && !fmtX a.fmt && !fmtQI a.fmt && a.fmt != 0x23) keep

/-- Equal rows and columns, SP in neither. -/
def pairShape (f : FmtT) (d a : Shape) : List (Bool × FaultRec) :=
  [(d.sp, shapeFault f.td), (a.sp || !sameDims d a, shapeFault f.ta)]

def acceptTcvt (s : State) (f : FmtT) (keep : Option TileRec) : AccRes :=
  s.acceptUnary (.tcvt f) f (pairShape f) (fun d a => plainFmt d.fmt && a.fmt != 0x23) keep

def acceptTscale (s : State) (f : FmtT) (keep : Option TileRec) : AccRes :=
  s.acceptUnary (.tscale f) f (pairShape f) (fun d a => fmtX d.fmt && 0x11 ≤ a.fmt && a.fmt ≤ 0x13) keep

def acceptTrand (s : State) (f : FmtT) (keep : Option TileRec) : AccRes :=
  let b := s.blk
  let d := b.shapeOf f.td
  s.admitT (s.baseRec (.trand f) false)
    [(b.badDst f.td, tsFault), (d.sp, shapeFault f.td), (!fmtInteger d.fmt, formatFault), (b.lateDst keep f.td, tsFault)]
    [] [] [f.td.toNat] keep

/-- TPLANE to PLANE (`rw` false) or back. -/
def acceptTplane (s : State) (i : Instr) (f : FmtT) (rw : Bool) (keep : Option TileRec) : AccRes :=
  s.acceptUnary i f
    (fun d a => [((if rw then !d.lined else d.layout != 2) || d.sp, shapeFault f.td),
      ((if rw then a.layout != 2 else !a.lined) || a.sp || !sameDims d a || d.group != a.group, shapeFault f.ta)])
    (fun d a => d.fmt == a.fmt) keep

def acceptTpacksMeta (s : State) (f : FmtT) (keep : Option TileRec) : AccRes :=
  s.acceptUnary (.tpacksMeta f) f
    (fun d a => [(!a.lined, shapeFault f.ta), (d.rows != a.rows || 2 * d.cols != a.cols, shapeFault f.td)])
    (fun d a => d.fmt == 0x23 && ((3 ≤ a.fmt && a.fmt ≤ 5) || (11 ≤ a.fmt && a.fmt ≤ 13))) keep

def acceptTpacksSel (s : State) (f : FmtT) (keep : Option TileRec) : AccRes :=
  let b := s.blk
  let d := b.shapeOf f.td
  let a := b.shapeOf f.ta
  let m := b.shapeOf f.tc
  s.admitT (s.baseRec (.tpacksSel f) false)
    [(b.badNames [f.ta, f.tc] [f.td] [], tsFault), (!a.lined, shapeFault f.ta),
     (m.rows != a.rows || m.cols != a.cols / 4 || a.cols % 4 != 0, shapeFault f.tc),
     (d.layout != 2 || !d.sp || !sameDims d a, shapeFault f.td),
     (m.fmt != 0x23 || d.fmt != a.fmt || (classA a.fmt).isNone || fmtQI a.fmt, formatFault), (b.lateDst keep f.td, tsFault)]
    [f.ta.toNat, f.tc.toNat] [] [f.td.toNat] keep

/-- Formats of a row move: a lane format, E5M2 or E4M3 (R408). -/
def rowFmt (c : Nat) : Bool := laneFmt (BitVec.ofNat 6 c) || c == 0x14 || c == 0x15

/-- VL of a row move. -/
def rowLen (s : State) (d : Shape) (col0 : Nat) : Nat := min (d.cols - col0) (s.blk.vlmax d.bits)

def acceptTrowv (s : State) (f : FmtT) (keep : Option TileRec) : AccRes :=
  let b := s.blk
  let d := b.shapeOf f.ta
  let r := (s.getX f.xs).toNat
  let c := immT f
  s.admitT
    { s.baseRec (.trowv f) f.lit.isSome with
      vdst := some (f.td.setWidth 5), mask := b.getM f.mode.toNat, len := r
      xv := [BitVec.ofNat 64 c, BitVec.ofNat 64 (s.rowLen d c)] }
    [(b.badT f.ta, tsFault), (b.lanes == 0, lanesFault), (!d.lined, shapeFault f.ta), (!rowFmt d.fmt, formatFault),
     (d.rows ≤ r || d.cols ≤ c, tsFault)]
    [f.ta.toNat] [] [] keep

def acceptTvrow (s : State) (f : FmtT) (keep : Option TileRec) : AccRes :=
  let b := s.blk
  let d := b.shapeOf f.td
  let r := (s.getX f.xs).toNat
  let c := immT f
  s.admitT
    { s.baseRec (.tvrow f) f.lit.isSome with
      vv := [b.getV (f.ta.setWidth 5)], mask := b.getM f.mode.toNat, len := r
      xv := [BitVec.ofNat 64 c, BitVec.ofNat 64 (s.rowLen d c)] }
    [(b.badDst f.td, tsFault), (b.lanes == 0, lanesFault), (!d.lined, shapeFault f.td), (!rowFmt d.fmt, formatFault),
     (d.rows ≤ r || d.cols ≤ c || b.lateDst keep f.td, tsFault)]
    [f.td.toNat] [] [f.td.toNat] keep

/-! ## Copies (R421 to R431) -/

/-- The record of a copy: origin, layout dimensions (those of the parked instruction when it is accepted again). -/
def copyRec (s : State) (i : Instr) (f : FmtC) (keep : Option TileRec) : TileRec :=
  let v := s.blk.getV f.layout
  { s.baseRec i f.lit.isSome with
    faultPassed := false, xv := [s.originC f], vv := [v]
    dims := match keep with
      | some p => p.dims
      | none => layoutDims v 9 0 }

def layoutFault (f : FmtC) : FaultRec := { cause := .layout, detail := f.layout.toNat }

/-- ALIGN of an origin (R423). -/
def originFault (acc : Access) (o : Word) : FaultRec := { cause := .align, access := acc, va := o }

/-- TLD (`out` false) and TST. -/
def acceptCopy (s : State) (i : Instr) (f : FmtC) (out : Bool) (keep : Option TileRec) : AccRes :=
  let b := s.blk
  let d := b.shapeOf f.t
  let t := s.copyRec i f keep
  let o := s.originC f
  let acc := if out then Access.copyOut else .copyIn
  s.admitT t
    [((if out then b.badT f.t else b.badDst f.t), tsFault), (b.lanes == 0, lanesFault),
     (layoutBad d t.dims || (out && layoutOverlaps d t.dims), layoutFault f), (!out && b.lateDst keep f.t, tsFault),
     (o.toNat % d.elemBytes != 0, originFault acc o)]
    (if out then [f.t.toNat] else []) [] (if out then [] else [f.t.toNat]) keep

/-- TLDA and TSTA (`out`): the token is checked in the order of R430, then named (R183). A watch register matches the footprint as a whole,
before any element is performed (R282, R265). -/
def acceptAtomic (s : State) (i : Instr) (f : FmtC) (out : Bool) (keep : Option TileRec) : AccRes :=
  let b := s.blk
  let d := b.shapeOf f.t
  let v := s.getX f.token
  let t := s.copyRec i f keep
  let o := s.originC f
  let acc := if out then Access.copyOut else .copyIn
  let (lo, span) := footprint d t.dims
  let first := o + BitVec.ofInt 64 lo
  let tok := b.tokenOf v
  let r := (match tok with
    | some k => k.revoked
    | none => false)
  let covered := (match tok with
    | some k => k.covers first span
    | none => false)
  let early : List (Bool × FaultRec) :=
    [((if out then b.badT f.t else b.badDst f.t), tsFault), (b.lanes == 0, lanesFault),
     (layoutBad d t.dims || (out && layoutOverlaps d t.dims), layoutFault f), (!out && b.lateDst keep f.t, tsFault)]
  if !s.mayAccept i then .wait
  else
    let named := fun (s : State) => s.updBlk fun b => { b with tokens := mapIf (fun k => k.value == v) (fun k => { k with named := true }) b.tokens }
    match firstFault (early ++ [(tok.isNone, { cause := .token, detail := v.toNat })]) with
    | some x => .trap s x
    | none =>
      if r then .trap (named s) { cause := .xlate, access := acc, va := first }
      else
        let checks : List (Bool × FaultRec) :=
          [(o.toNat % d.elemBytes != 0 || first.toNat % 64 != 0 || span % 64 != 0, originFault acc first),
           (!covered, { cause := .token, detail := v.toNat })]
        let hit := if !b.ctl.wpl.toList.any (fun w => w.getLsbD 2) then none
          else (List.range d.count).findSome? fun e =>
            let va := (elemAddr d t.dims o e).1
            (b.watchHit b.skipWatch 0 va d.elemBytes (!out) out true).map fun i => (e, va, i)
        match firstFault checks, hit with
        | none, some (e, va, i) =>
          if (b.ctl.wpl[i]?.getD 0).getLsbD 3 then
            .stop (((named s).updBlk fun b => { b with skipWatch := (0, i) :: b.skipWatch }).haltHart s.cur 3)
          else
            .trap s { cause := .watch, access := acc, tile := some f.t.toNat, row := e / d.stored, col := e % d.stored,
                      va := BitVec.ofNat 64 va, detail := i }
        | _, _ =>
          (named s).admitT { t with token := (tok.map (·.seq)).getD 0, held := (tok.map (·.pages)).getD [] } checks
            (if out then [f.t.toNat] else []) [] (if out then [] else [f.t.toNat]) keep

/-- TPROBE (R428): its token takes the next sequence number. -/
def acceptTprobe (s : State) (f : FmtC) (keep : Option TileRec) : AccRes :=
  let b := s.blk
  let d := b.shapeOf f.t
  let t := s.copyRec (.tprobe f) f keep
  let waiting := (b.live.filter fun u => u.xdst.isSome && !u.faultPassed).length
  let t := { t with names := [f.t.toNat], xdst := some f.token, token := b.tokSeq + 1, src := [{ slot := 0, rcd := d, off := 0 }] }
  let r := s.takeIn t
    [(b.badT f.t, tsFault), (b.lanes == 0, lanesFault),
     (layoutBad d t.dims || 65536 < (footprint d t.dims).2, layoutFault f), (16 ≤ b.tokens.length + waiting, { cause := .token })]
    [] keep
  match r with
  | .ok s => .ok (s.updBlk fun b => { b with tokSeq := b.tokSeq + 1 })
  | r => r

/-- TGATH and TSCAT (`out`): one index per row (R431). -/
def acceptRows (s : State) (i : Instr) (f : FmtC) (out : Bool) (keep : Option TileRec) : AccRes :=
  let b := s.blk
  let d := b.shapeOf f.t
  let vv := match keep with
    | some p => p.vv
    | none => [b.getV f.layout]
  s.admitT { s.baseRec i f.lit.isSome with faultPassed := false, xv := [s.originC f], vv := vv }
    [((if out then b.badT f.t else b.badDst f.t), tsFault), (b.lanes == 0 || b.lanes < d.rows, lanesFault),
     (d.sp || (d.narrow && d.stored * d.bits % 8 != 0), shapeFault f.t), (fmtX d.fmt || fmtQI d.fmt, formatFault),
     (!out && b.lateDst keep f.t, tsFault)]
    (if out then [f.t.toNat] else []) [] (if out then [] else [f.t.toNat]) keep

/-! ## Tile network (R432) -/

/-- A position that no stream may name. -/
def badPosition (b : Block) (p : Nat) : Bool := p == b.gangPos || b.gangSize ≤ p

/-- TSEND and TMCAST: the positions they deliver to. -/
def acceptSend (s : State) (i : Instr) (f : FmtT) (dests : List Nat) (keep : Option TileRec) : AccRes :=
  let b := s.blk
  s.admitT { s.baseRec i false with xv := dests.map (BitVec.ofNat 64), chSeq := f.imm.toNat }
    [(b.badT f.ta, tsFault), (dests.any (badPosition b), tsFault)] [f.ta.toNat] [] [] keep

/-- The positions that TMCAST sends to. -/
def castTo (s : State) (f : FmtT) : List Nat :=
  (List.range 8).filter fun p => (s.getX f.xs).getLsbD p && !badPosition s.blk p

/-- TRECV and TCHAIN; TCHAIN binds the name. -/
def acceptReceive (s : State) (i : Instr) (f : FmtT) (chain : Bool) (keep : Option TileRec) : AccRes :=
  let b := s.blk
  let q := b.seqNext
  let r := s.admitT { s.baseRec i false with faultPassed := false, xv := [BitVec.ofNat 64 f.aux.toNat], chSeq := f.imm.toNat }
    [(b.badDst f.td, tsFault), (badPosition b f.aux.toNat || b.lateDst keep f.td, tsFault)] [] [] [f.td.toNat] keep
  match r with
  | .ok s =>
    if chain then
      let id := ((s.blk.tname f.td.toNat).map (·.cur)).getD 0
      .ok ((s.updBlk fun b => match b.tname f.td.toNat with
        | some n => b.setTname f.td.toNat { n with chain := some q }
        | none => b).updSlot s.myCore id fun x => { x with prog := some (x.prog.getD 0), undef := 0 })
    else .ok s
  | r => r

/-! ## Scan engine and Saffron (R436 to R440) -/

/-- Formats of a scan's sources (R256). -/
def scanSrcFmt (c : Nat) : Bool := plainFmt c && c != 6 && c != 14
/-- Formats of a scan's destination (R437). -/
def scanDstFmt (c : Nat) : Bool := plainFmt c && c != 1 && c != 2 && c != 9 && c != 10

/-- Whether a CINIT of the block has not had its answer. -/
def cinitDue (b : Block) : Bool := b.live.any fun t => !t.faultPassed && (match t.ins with
  | .cinit _ => true
  | _ => false)

/-- The CARRY checks of TSCANC (with its line count) and CPASS, in the order of their DETAIL (R439). -/
def carryChecks (b : Block) (op : Nat) (lines : Option Nat) : List (Bool × FaultRec) :=
  match b.chain with
  | none => [(true, carryFault 1)]
  | some c =>
    [(c.done + 15 < c.next, carryFault 2),
     ((match lines with
        | some n => n != c.lines
        | none => false) || (op == 4) != c.wide, carryFault 3)]

/-- TSCAN and TSCANC (`carry`) once the lane function, if any, is there. -/
def acceptScanBody (s : State) (i : Instr) (f : FmtT) (carry : Bool) (body : List Instr) (keep : Option TileRec) : AccRes :=
  let b := s.blk
  let d := b.shapeOf f.td
  let ts := if scanOp f = 4 then [f.ta, f.tb] else [f.ta]
  let col := scanCol f
  let len := if col then d.rows else d.cols
  let lines := if col then d.cols else d.rows
  let n := if f.xs = 0 then len else min (s.getX f.xs).toNat len
  let fn := scanOp f == 5
  let srcOk := fun (c : Nat) => if fn then plainFmt c else scanSrcFmt c
  let k := match b.chain with
    | some c => c.next
    | none => 0
  let srcs := ts.map (·.toNat) ++ (if n < len && n != 0 then [f.td.toNat] else [])
  let r := s.admitT { s.baseRec i f.lit.isSome with body := body, len := n, chSeq := k, emptyBit := some (n == 0) }
    ([(b.badNames ts [f.td] [], tsFault), (!d.lined, shapeFault f.td)] ++
      ts.map (fun t => (!(b.shapeOf t).lined || !sameDims (b.shapeOf t) d, shapeFault t)) ++
      [(ts.any (fun t => !srcOk (b.shapeOf t).fmt) || (!fn && !scanDstFmt d.fmt), formatFault), (b.lateDst keep f.td, tsFault)] ++
      (if carry then carryChecks b (scanOp f) (some lines) else []))
    srcs [] (if n = 0 then [] else [f.td.toNat]) keep
  match r with
  | .ok s => if carry then .ok (s.updBlk fun b => { b with chain := b.chain.map fun (c : Chain) => { c with next := c.next + 1 } }) else .ok s
  | r => r

def acceptScan (s : State) (i : Instr) (f : FmtT) (carry : Bool) (keep : Option TileRec) : AccRes :=
  if carry && cinitDue s.blk then .wait
  else if scanOp f = 5 then
    s.withLaneFn (immT f) f.lit.isSome (fun nin nres => nin == 2 && nres == 1) fun s body _ _ => s.acceptScanBody i f carry body keep
  else s.acceptScanBody i f carry [] keep

def acceptCpass (s : State) (f : FmtT) (keep : Option TileRec) : AccRes :=
  if cinitDue s.blk then .wait
  else
    let k := match s.blk.chain with
      | some c => c.next
      | none => 0
    match s.admitT { s.baseRec (.cpass f) false with chSeq := k } (carryChecks s.blk (scanOp f) none) [] [] [] keep with
    | .ok s => .ok (s.updBlk fun b => { b with chain := b.chain.map fun (c : Chain) => { c with next := c.next + 1 } })
    | r => r

/-- CINIT (R438): its fault point is the answer of the command processor. -/
def acceptCinit (s : State) (f : FmtT) (keep : Option TileRec) : AccRes :=
  s.admitT { s.baseRec (.cinit f) f.lit.isSome with faultPassed := false, xv := [s.getX f.xs], chSeq := immT f } [] [] [] [] keep

/-! ## Every instruction that uses an engine -/

/-- Acceptance of a tile instruction in the block in focus; `keep` is the parked instruction that ERET accepts again. -/
def accept (s : State) (i : Instr) (keep : Option TileRec) : AccRes :=
  match i with
  | .tmma f => s.acceptMma i f false false keep
  | .tmmas f => s.acceptMma i f true false keep
  | .tmmaq f => s.acceptMma i f false true keep
  | .topa f => s.acceptTopa f keep
  | .tzero f => s.acceptZero i f keep
  | .tfree f =>
    let q := s.blk.seqNext
    match s.acceptZero i f keep with
    | .ok s =>
      .ok (s.updBlk fun b => match b.aname f.td.toNat with
        | some a => { b with anames := adel b.anames f.td.toNat, freeing := b.freeing ++ [(q, f.td.toNat, a)] }
        | none => b)
    | r => r
  | .taccl f => s.acceptTaccl f keep
  | .text f => s.acceptText f keep
  | .textv f => s.acceptTextv f keep
  | .tmap f => s.acceptTmap f keep
  | .tew f => s.acceptTew f keep
  | .tred f => s.acceptTred f keep
  | .tfill f => s.acceptTfill f keep
  | .ttrn f => s.acceptTtrn f keep
  | .tcvt f => s.acceptTcvt f keep
  | .tscale f => s.acceptTscale f keep
  | .trand f => s.acceptTrand f keep
  | .tplane f => s.acceptTplane i f false keep
  | .tplaneRw f => s.acceptTplane i f true keep
  | .tpacksMeta f => s.acceptTpacksMeta f keep
  | .tpacksSel f => s.acceptTpacksSel f keep
  | .trowv f => s.acceptTrowv f keep
  | .tvrow f => s.acceptTvrow f keep
  | .tld f => s.acceptCopy i f false keep
  | .tst f => s.acceptCopy i f true keep
  | .tlda f => s.acceptAtomic i f false keep
  | .tsta f => s.acceptAtomic i f true keep
  | .tprobe f => s.acceptTprobe f keep
  | .tgath f => s.acceptRows i f false keep
  | .tscat f => s.acceptRows i f true keep
  | .tsend f => s.acceptSend i f [f.aux.toNat] keep
  | .tmcast f => s.acceptSend i f (s.castTo f) keep
  | .trecv f => s.acceptReceive i f false keep
  | .tchain f => s.acceptReceive i f true keep
  | .tscan f => s.acceptScan i f false keep
  | .tscanc f => s.acceptScan i f true keep
  | .cpass f => s.acceptCpass f keep
  | .cinit f => s.acceptCinit f keep
  | _ => .trap s illopFault

end State

end Sys2Proof.Machine
end

