-- ==== Sys2Proof/Machine/TileLane.lean ====
section
/-! DEFINITION. The lane micro-operations of tile instructions as functions of their sources' contents: what each writes to
its destination slots or V register, and its flags (spec 15 R392, R397 to R408; spec 09 R244, R246, R255). -/

namespace Sys2Proof.Machine

/-- What a lane micro-operation writes: content and valueless bits of each destination slot, its V register, its flags, and what it keeps
for its next one (R270). -/
structure LaneOut where
  slots : List (Nat × Nat) := []
  v : Option (BitVec 8192) := none
  flags : Flags := 0
  segs : List (Nat × Nat) := []
  deriving DecidableEq, Repr

/-- The end of the running micro-operation, which covers elements `progress` to this of `total`; all that are left if its size is 0. -/
def TileRec.upTo (t : TileRec) (total : Nat) : Nat := if t.chunk = 0 then total else min total (t.progress + t.chunk)

/-- The elements of a tile that the running micro-operation covers (R270). -/
def TileRec.window (t : TileRec) (d : Shape) : List (Nat × Nat) :=
  let l := d.cells.drop t.progress
  if t.chunk = 0 then l else l.take t.chunk

/-- A tile with some elements written. -/
def buildTile (cells : List (Nat × Nat)) (old : Nat) (d : Shape) (f : Nat → Nat → FRes) : FRes :=
  cells.foldl (fun (r : FRes) rc => let x := f rc.1 rc.2; (slotPut d r.1 rc.1 rc.2 x.1, r.2 ||| x.2)) (old, 0)

/-- The bits of a tile's scales. -/
def scaleMask (d : Shape) : Nat := (2 ^ (8 * d.scaleBytes) - 1) <<< (8 * d.scaleBase)

/-- A destination whose elements only are written: gaps and scales hold no stated value. -/
def plainOut (d : Shape) (r : FRes) : LaneOut := { slots := [(r.1, gapBits d ||| scaleMask d)], flags := r.2 }

/-- The counter offset of destination element (r, c) (R246). -/
def cellIdx (d : Shape) (r c : Nat) : Nat := r * d.cols + c

/-- What a lane function reads for destination element `e`. -/
def TileRec.laneCtx (t : TileRec) (e : Nat) : LaneCtx :=
  { fctl := t.fctl, seed := t.seed, ctr := t.stripb + BitVec.ofNat 64 e }

/-- An element of a source as a lane function's input (R397). -/
def laneIn (x : TSrc × Nat) (r c : Nat) : Word := laneWord (Shape.fmt x.1.rcd) (slotElem x.1.rcd x.2 x.1.off r c)

/-! ## Lane functions (R398 to R400) -/

/-- TMAP and TEW: one call per destination element; a source of one row or one column supplies it to every element. -/
def mapWork (t : TileRec) (xs : List (TSrc × Nat)) (extra : List Word) (old : List Nat) : LaneOut :=
  let ds := t.dst.map fun x => (x.rcd : Shape)
  let d := ds.headD 0
  let at_ := fun (x : TSrc × Nat) (r c : Nat) =>
    laneIn x (if Shape.rows x.1.rcd = 1 then 0 else r) (if Shape.cols x.1.rcd = 1 then 0 else c)
  let calls := (t.window d).map fun rc =>
    (rc, laneCall (t.laneCtx (cellIdx d rc.1 rc.2)) t.body ((xs.map fun x => at_ x rc.1 rc.2) ++ extra))
  let out := fun (d : Shape) (k : Nat) =>
    calls.foldl (fun (y : Nat) x => slotPut d y x.1.1 x.1.2 ((x.2.e[k]?.getD 0).toNat % 2 ^ d.bits)) (old.getD k 0)
  { slots := (ds.zipIdx).map fun x => (out x.1 x.2, gapBits x.1 ||| scaleMask x.1)
    flags := calls.foldl (fun f x => f ||| x.2.flags) 0 }

/-- Neighbours combined, left with right; an odd last one stays. -/
def pairUp (op : Word → Word → Word × Flags) : List Word → List Word × Flags
  | a :: b :: t =>
    let x := op a b
    let r := pairUp op t
    (x.1 :: r.1, x.2 ||| r.2)
  | l => (l, 0)

/-- The tree of R255: twelve levels reduce the longest line, and levels within a segment of 64 come first. -/
def treeReduce (op : Word → Word → Word × Flags) : Nat → List Word × Flags → List Word × Flags
  | 0, r => r
  | n + 1, r => let x := pairUp op r.1; treeReduce op n (x.1, r.2 ||| x.2)

/-- Six levels of the tree: a segment of up to 64 elements, or a line's segments, to one value. -/
def foldSegment (op : Word → Word → Word × Flags) (l : List Word) : Word × Flags :=
  let y := treeReduce op 6 (l, 0)
  (y.1.headD 0, y.2)

/-- TRED (R400): the segments of 64 elements that begin in the elements covered, in the order of the source; those of a line give its result
with the last (R255, R270). -/
def redWork (t : TileRec) (x : TSrc × Nat) (col : Bool) (old : Nat) : LaneOut :=
  let d : Shape := (t.dst.head?.map (·.rcd)).getD 0
  let a : Shape := x.1.rcd
  let len := if col then a.rows else a.cols
  let lines := if col then a.cols else a.rows
  let n := cdiv len 64
  let segs : List (Nat × Nat) := if col then (List.range n).flatMap fun k => (List.range lines).map fun l => (l, k)
    else (List.range lines).flatMap fun l => (List.range n).map fun k => (l, k)
  let mine := segs.filter fun s =>
    let e := if col then 64 * s.2 * a.cols else s.1 * a.cols + 64 * s.2
    t.progress ≤ e && e < t.upTo a.count
  let r := mine.foldl (fun (r : List Word × FRes) s =>
    let (l, k) := s
    let op := fun p q =>
      let v := laneCall (t.laneCtx (if col then cellIdx d 0 l else cellIdx d l 0)) t.body [p, q]
      ((v.e[0]?.getD 0), v.flags)
    let y := foldSegment op ((List.range (min 64 (len - 64 * k))).map fun i =>
      if col then laneIn x (64 * k + i) l else laneIn x l (64 * k + i))
    let kept := r.1 ++ [y.1]
    if k + 1 = n then
      let z := foldSegment op (if col then (List.range n).map fun j => kept.getD (j * lines + l) 0 else kept)
      (if col then kept else [], slotPut d r.2.1 (if col then 0 else l) (if col then l else 0) (z.1.toNat % 2 ^ d.bits), r.2.2 ||| y.2 ||| z.2)
    else (kept, r.2.1, r.2.2 ||| y.2)) (t.segs.map fun s => BitVec.ofNat 64 s.1, (old, 0))
  { plainOut d r.2 with segs := r.1.map fun w => (w.toNat, 0) }

/-! ## Conversion and scaling (R403, R404) -/

/-- TCVT of one element: the exact value rounded once. -/
def cvtElem (d a : Shape) (x : TSrc × Nat) (rc : RndCtx) (r c : Nat) : FRes :=
  if plainFmt a.fmt then convertElem a.fmt d.fmt false rc (slotElem a x.2 x.1.off r c)
  else
    let (v, nv) := tileVal a x.2 x.1.off r c
    let y := match floatOf d.fmt with
      | some f => f.convert rc v
      | none => toInteger rc (fmtSigned d.fmt) d.bits v
    (y.1, y.2 ||| flagIf nv flagNV)

/-- emax of the four X formats (R404). -/
def scaleEmax (c : Nat) : Int :=
  match c with
  | 0x18 => 15
  | 0x19 => 8
  | 0x1A => 2
  | _ => 6

/-- floor(log2 |v|) of a finite non-zero value. -/
def FVal.ilog (v : FVal) : Option Int :=
  match v with
  | .num _ m e => if m = 0 then none else some ((bitLen m : Int) - 1 + e)
  | _ => none

/-- The elements of one block of a tile with a scale: block `b` of line `l` along the K axis. -/
def blockCells (d : Shape) (l b : Nat) : List (Nat × Nat) :=
  let n := if d.kax then d.rows else d.cols
  ((List.range 128).filter fun i => 128 * b + i < n).map fun i => if d.kax then (128 * b + i, l) else (l, 128 * b + i)

/-- TSCALE of one block: the content with the block's scale and the elements covered, and its flags. -/
def scaleBlock (t : TileRec) (rs : BitVec 4) (d : Shape) (x : TSrc × Nat) (y0 : FRes) (cells : List (Nat × Nat)) : FRes :=
  let a : Shape := x.1.rcd
  let vals := cells.map fun rc => (rc, baseVal a.fmt (slotElem a x.2 x.1.off rc.1 rc.2))
  let special := vals.any fun v => match v.2 with
    | .num _ _ _ => false
    | _ => true
  let top := (vals.filterMap fun v => v.2.ilog).foldl (fun (m : Option Int) k => some (match m with
    | some j => max j k
    | none => k)) none
  let s : Nat := match special, top with
    | true, _ => 0xFF
    | false, none => 127
    | false, some k => (min (max (k - scaleEmax d.fmt + 127) 0) 254).toNat
  let first := cells.headD (0, 0)
  let y : FRes := (putScale d y0.1 first.1 first.2 s, y0.2 ||| flagIf special flagNV)
  if !vals.any (fun v => t.progress ≤ cellIdx d v.1.1 v.1.2 && cellIdx d v.1.1 v.1.2 < t.upTo d.count) then y0 else
  (vals.filter fun v => t.progress ≤ cellIdx d v.1.1 v.1.2 && cellIdx d v.1.1 v.1.2 < t.upTo d.count).foldl (fun (y : FRes) v =>
    let rc := t.rnd rs (cellIdx d v.1.1 v.1.2)
    let z : FRes := if special then (0, 0)
      else
        match floatOf (fmtBase d.fmt) with
        | some f => f.convert rc (v.2.scale2 (127 - (s : Int)))
        | none => toInteger rc true 8 (v.2.scale2 (127 - (s : Int)))
    (slotPut d y.1 v.1.1 v.1.2 z.1, y.2 ||| z.2)) y

def scaleWork (t : TileRec) (rs : BitVec 4) (d : Shape) (x : TSrc × Nat) (old : Nat) : LaneOut :=
  let lines := if d.kax then d.cols else d.rows
  let blocks := cdiv (if d.kax then d.rows else d.cols) 128
  let r := ((List.range lines).flatMap fun l => (List.range blocks).map fun b => blockCells d l b).foldl
    (scaleBlock t rs d x) (old, 0)
  { slots := [(r.1, gapBits d)], flags := r.2 }

/-! ## Planes and metadata (R406, R407) -/

/-- Elements and scales copied exactly; scales along another axis have no stated place (R406). -/
def planeWork (t : TileRec) (d : Shape) (x : TSrc × Nat) (old : Nat) : LaneOut :=
  let a : Shape := x.1.rcd
  let r := (buildTile (t.window d) old d fun r c => (slotElem a x.2 x.1.off r c, 0)).1
  if hasScales d && d.kax == a.kax then
    { slots := [(d.cells.foldl (fun y rc => putScale d y rc.1 rc.2 (slotScale a x.2 rc.1 rc.2)) r, gapBits d)] }
  else plainOut d (r, 0)

/-- TPACKS.sel: the kept element of each stored column, and its scale by dense position. -/
def selWork (t : TileRec) (d : Shape) (x m : TSrc × Nat) (old : Nat) : LaneOut :=
  let a : Shape := x.1.rcd
  let kept := fun (r c : Nat) =>
    let n := slotElem m.1.rcd m.2 m.1.off r (c / 2)
    4 * (c / 2) + (if c % 2 = 0 then n % 4 else n / 4 % 4)
  let r := (buildTile (t.window d) old d fun r c => (slotElem a x.2 x.1.off r (kept r c), 0)).1
  if hasScales d && !a.kax then
    { slots := [(d.cells.foldl (fun y rc => putScale d y rc.1 rc.2 (slotScale a x.2 rc.1 (denseOf d rc.2))) r, gapBits d)] }
  else plainOut d (r, 0)

/-! ## Every lane micro-operation -/

/-- Whether element `e` of a row move is active. -/
def TileRec.rowActive (t : TileRec) (gm : BitVec 4) (e : Nat) : Bool := gm == 15 || t.mask.getLsbD e

/-- The elements of a row move that the running micro-operation covers. -/
def TileRec.rowWindow (t : TileRec) (n : Nat) : List Nat := (List.range n).filter fun e => t.progress ≤ e && e < t.upTo n

/-- The elements of a lane instruction: those of its destination, of TRED its source, of a row move its vector length. -/
def TileRec.laneTotal (t : TileRec) : Nat :=
  match t.ins with
  | .tred _ => Shape.count ((t.src.head?.map (·.rcd)).getD 0)
  | .trowv _ | .tvrow _ => ((t.xv[1]?).getD 0).toNat
  | _ => Shape.count ((t.dst.head?.map (·.rcd)).getD 0)

/-- The result of a lane micro-operation from its sources with their contents and valueless bits, the contents of its destinations and the V
register that it writes. -/
def laneWork (t : TileRec) (xs : List (TSrc × Nat)) (undef : Nat) (old : List Nat) (v : BitVec 8192) : LaneOut :=
  let d : Shape := (t.dst.head?.map (·.rcd)).getD 0
  let x := xs.headD ({ slot := 0, rcd := 0, off := 0 }, 0)
  let a : Shape := x.1.rcd
  let at_ := fun (i : Nat) => ((t.xv[i]?).getD 0).toNat
  let o := old.headD 0
  let build := fun (f : Nat → Nat → FRes) => plainOut d (buildTile (t.window d) o d f)
  match t.ins with
  | .tzero _ => { slots := [((t.window d).foldl (fun y rc => slotPut d y rc.1 rc.2 0) (if t.progress = 0 && d.count ≤ t.upTo d.count then 0 else o), 0)] }
  | .tmap _ => mapWork t xs [] old
  | .tew _ => mapWork t xs (if t.nin = 4 then [(t.xv[0]?).getD 0] else []) old
  | .tred f => redWork t x (f.mode == 1) o
  | .tfill f => build fun r c => ((at_ 0 + (if f.mode = 1 then cellIdx d r c else 0)) % 2 ^ d.bits, 0)
  | .ttrn _ => build fun r c => (slotElem a x.2 x.1.off c r, 0)
  | .tcvt f => build fun r c => cvtElem d a x (t.rnd f.mode (cellIdx d r c)) r c
  | .tscale f => scaleWork t f.mode d x o
  | .trand _ => build fun r c => ((gen t.seed (t.stripb + BitVec.ofNat 64 (cellIdx d r c))).toNat % 2 ^ d.bits, 0)
  | .tplane _ | .tplaneRw _ => planeWork t d x o
  | .tpacksMeta _ =>
    build fun r g => (slotElem a x.2 x.1.off r (2 * g + 1) % 4 * 4 + slotElem a x.2 x.1.off r (2 * g) % 4, 0)
  | .tpacksSel _ => selWork t d x (xs.getD 1 ({ slot := 0, rcd := 0, off := 0 }, 0)) o
  | .trowv f =>
    { v := some ((t.rowWindow (at_ 1)).foldl (fun y e =>
        if t.rowActive f.mode e then vSet y a.bits e (slotElem a x.2 x.1.off t.len (at_ 0 + e)) else y) v) }
  | .tvrow f =>
    let r := (t.rowWindow (at_ 1)).foldl (fun (y : Nat) e =>
      if t.rowActive f.mode e then slotPut d y t.len (at_ 0 + e) (vGet ((t.vv[0]?).getD 0) d.bits e) else y) (if t.progress = 0 then x.2 else o)
    { slots := [(r, undef)] }
  | _ => {}

end Sys2Proof.Machine
end

