-- ==== Sys2Proof/Machine/Scan.lean ====
section
/-! DEFINITION. The scan engine: lines, the association order, exclusive forms and carries (spec 06 R141; spec 09 R253, R256;
spec 17 R437, R439). -/

namespace Sys2Proof.Machine

/-- A value on its way through a scan: FP64 bits, or the pair of LINREC, or a lane function's word in the first part. -/
abbrev ScanVal := Nat × Nat

/-- Internal operations set only NV and OF (R256). -/
def scanFlags (r : FRes) : FRes := (r.1, accFlags r.2)

/-- The operator on two values: 0 ADD, 1 MUL, 2 MAX, 3 MIN, 4 LINREC, else the lane function with destination element `e`. -/
def scanComb (t : TileRec) (op e : Nat) (x y : ScanVal) : ScanVal × Flags :=
  let one := fun (r : FRes) => ((((scanFlags r).1, 0) : ScanVal), (scanFlags r).2)
  let dec := fmtF64.decode
  match op with
  | 0 => one (fmtF64.addV { mode := 0 } (dec x.1) (dec y.1))
  | 1 => one (fmtF64.mulV { mode := 0 } (dec x.1) (dec y.1))
  | 2 => one (fmtF64.minMax false true x.1 y.1)
  | 3 => one (fmtF64.minMax false false x.1 y.1)
  | 4 =>
    let a := scanFlags (fmtF64.mulV { mode := 0 } (dec x.1) (dec y.1))
    let b := scanFlags (fmtF64.fmaV { mode := 0 } (dec y.1) (dec x.2) (dec y.2))
    ((a.1, b.1), a.2 ||| b.2)
  | _ =>
    let v := laneCall (t.laneCtx e) t.body [BitVec.ofNat 64 x.1, BitVec.ofNat 64 y.1]
    ((((v.e[0]?).getD 0).toNat, 0), v.flags)

/-- The identity of R253 as FP64; all zero bits for a lane function. -/
def scanIdentity (op : Nat) : ScanVal :=
  match op with
  | 0 => (0, 0)
  | 1 => (0x3FF0000000000000, 0)
  | 2 => (fmtF64.inf true, 0)
  | 3 => (fmtF64.inf false, 0)
  | 4 => (0x3FF0000000000000, 0)
  | _ => (0, 0)

/-- Step 2 of R141 at one distance within a segment; `base` is the destination element of each position. -/
def scanStep (t : TileRec) (op dist : Nat) (base : Nat → Nat) (xs : List ScanVal) : List ScanVal × Flags :=
  let r := (xs.zipIdx).map fun (x, i) =>
    if dist ≤ i then scanComb t op (base i) ((xs[i - dist]?).getD x) x else (x, 0)
  (r.map (·.1), r.foldl (fun f y => f ||| y.2) 0)

/-- The six steps within a segment. -/
def scanSegment (t : TileRec) (op : Nat) (base : Nat → Nat) (xs : List ScanVal) : List ScanVal × Flags :=
  (List.range 6).foldl (fun (r : List ScanVal × Flags) s =>
    let y := scanStep t op (2 ^ s) base r.1
    (y.1, r.2 ||| y.2)) (xs, 0)

/-- The inclusive prefix of a line: segments of 64, combined left to right from the carry-in (R141 steps 1 to 4). -/
def scanLine (t : TileRec) (op : Nat) (base : Nat → Nat) : Nat → Nat → List ScanVal → Option ScanVal → List ScanVal × Flags
  | 0, _, _, _ => ([], 0)
  | n + 1, first, xs, c =>
    if xs.isEmpty then ([], 0)
    else
      let (ys, f1) := scanSegment t op (fun i => base (first + i)) (xs.take 64)
      let r := match c with
        | some c => (ys.zipIdx).map fun (y, i) => scanComb t op (base (first + i)) c y
        | none => ys.map fun y => (y, 0)
      let zs := r.map (·.1)
      let f2 := r.foldl (fun f y => f ||| y.2) 0
      let rest := scanLine t op base n (first + 64) (xs.drop 64) zs.getLast?
      (zs ++ rest.1, f1 ||| f2 ||| rest.2)

/-- An input element as FP64 (R256), or a lane function's input. -/
def scanIn (op : Nat) (x : TSrc × Nat) (r c : Nat) : FRes :=
  let d : Shape := x.1.rcd
  if op = 5 then ((laneIn x r c).toNat, 0)
  else scanFlags (fmtF64.convert { mode := 0 } (elemVal d.fmt false (slotElem d x.2 x.1.off r c)))

/-- A prefix value rounded to the destination (R437). -/
def scanOut (d : Shape) (op : Nat) (rc : RndCtx) (v : ScanVal) : FRes :=
  if op = 5 then (v.1 % 2 ^ d.bits, 0)
  else
    let x := fmtF64.decode (if op = 4 then v.2 else v.1)
    match floatOf d.fmt with
    | some f => f.convert rc x
    | none => toInteger rc (fmtSigned d.fmt) d.bits x

/-- The identity as an exclusive scan writes it: the bound of an integer format for MAX and MIN (R253). -/
def identityOut (d : Shape) (op : Nat) (rc : RndCtx) : FRes :=
  if (floatOf d.fmt).isNone && op = 2 then (wrap d.bits (intLo (fmtSigned d.fmt) d.bits), 0)
  else if (floatOf d.fmt).isNone && op = 3 then (wrap d.bits (intHi (fmtSigned d.fmt) d.bits), 0)
  else scanOut d op rc (scanIdentity op)

/-- What a scan gives: the destination's content, the flags, the carry-out of each line. -/
structure ScanRes where
  content : Nat
  flags : Flags
  carries : List ScanVal
  deriving DecidableEq, Repr

/-- TSCAN or TSCANC on the record's sources over the destination's content (R437); `cin` has one carry a line. The elements covered are
those of the lines in turn; the record keeps each line's carry as far as it has come (R270). -/
def scanWork (t : TileRec) (f : FmtT) (d : Shape) (xs : List (TSrc × Nat)) (old : Nat) (cin : Option (List ScanVal)) : ScanRes :=
  let op := scanOp f
  let lines := if scanCol f then d.cols else d.rows
  let stop := t.upTo (lines * t.len)
  let at_ := fun (l i : Nat) => if scanCol f then (i, l) else (l, i)
  let x := xs.headD ({ slot := 0, rcd := 0, off := 0 }, 0)
  let y := xs.getD 1 x
  let todo := (List.range lines).filter fun l =>
    t.len = 0 || (t.progress < (l + 1) * t.len && l * t.len < stop)
  todo.foldl (fun (r : ScanRes) l =>
    let i0 := t.progress - l * t.len
    let n := min t.len (stop - l * t.len) - i0
    let c := if i0 = 0 then cin.bind fun q => q[l]? else r.carries[l]?
    let ins := (List.range n).map fun j =>
      let p := at_ l (i0 + j)
      let a := scanIn op x p.1 p.2
      if op = 4 then let b := scanIn op y p.1 p.2; ((a.1, b.1), a.2 ||| b.2) else ((a.1, 0), a.2)
    let (pre, fl) := scanLine t op (fun i => cellIdx d (at_ l i).1 (at_ l i).2) (t.len / 64 + 1) i0 (ins.map (·.1)) c
    let fl := ins.foldl (fun f z => f ||| z.2) fl
    let w := (List.range n).foldl (fun (w : FRes) i =>
      let p := at_ l (i0 + i)
      let rc := t.rnd f.mode (cellIdx d p.1 p.2)
      let z := if scanExcl f then
          if i = 0 then (match c with
            | some v => scanOut d op rc v
            | none => identityOut d op rc)
          else scanOut d op rc ((pre[i - 1]?).getD (0, 0))
        else scanOut d op rc ((pre[i]?).getD (0, 0))
      (slotPut d w.1 p.1 p.2 z.1, w.2 ||| z.2)) (r.content, r.flags ||| fl)
    { content := w.1, flags := w.2, carries := r.carries.take l ++ [pre.getLast?.getD (c.getD (scanIdentity op))] })
    { content := old, flags := 0, carries := t.segs }

end Sys2Proof.Machine
end

