-- ==== Sys2Proof/Machine/Lanes.lean ====
section
/-! DEFINITION. Lane groups: claiming, releasing, and shrinking at re-negotiation points (spec 05 R113, R114; spec 11 R295;
spec 14 R352, R353). -/

namespace Sys2Proof.Machine

/-- The bits of a V register that group index `g` of its hart holds (R292, R352). -/
def groupBits (g : Nat) : BitVec 8192 := BitVec.ofNat 8192 ((2 ^ 1024 - 1) <<< (1024 * g))

/-- A block with its newly granted groups: their elements read 0 (R352). -/
def Block.grant (b : Block) (new : List Nat) : Block :=
  let b := if b.freshLanes then
      { b with v := Vector.replicate 32 0, m := Vector.replicate 12 0, flawV := Vector.replicate 32 0, flawM := Vector.replicate 12 0, freshLanes := false }
    else b
  let first := b.groups.length
  let lost := (List.range new.length).foldl (fun x i => x ||| groupBits (first + i)) (0#8192)
  let words := BitVec.ofNat 128 ((2 ^ (16 * new.length) - 1) <<< (16 * first))
  { b with groups := b.groups ++ new, v := b.v.map (fun x => x &&& ~~~lost), flawV := b.flawV.map fun x => x &&& ~~~words }

/-- A block without its highest group: PREV and SHRUNK record the shrink (R114, R291). -/
def Block.shrinkOne (b : Block) : Block :=
  { b with
    groups := b.groups.dropLast
    ctl := { b.ctl with vstat := (b.ctl.vstat &&& ~~~(0xF000 : Word)) ||| (BitVec.ofNat 64 b.groups.length <<< 12) ||| 2 } }

/-- Whether a block waits at a re-negotiation point (R114). -/
def Block.atPoint (b : Block) : Bool :=
  match b.wait with
  | some (.barrier _ _ _ _) | some (.barrierAsk _) | some (.gsync _) | some (.sync _) | some (.lclaim _ _) => true
  | _ => false

namespace State

/-- The placed blocks of a core with their harts. -/
def coreBlocks (s : State) (c : Nat) : List (Nat × Block) :=
  s.blocks.filter fun (e : Nat × Block) => coreOf e.1 == c && e.2.placed

/-- The lane groups of a core that no hart has claimed. -/
def freeGroups (s : State) (c : Nat) : List Nat :=
  (List.range 8).filter fun g => !(s.coreBlocks c).any fun e => e.2.groups.contains g

/-- The free groups that a block of a stage may take: those not lent to another stage (R102, R352 step 5). -/
def openGroups (s : State) (c stage : Nat) : List Nat :=
  let k := s.core c
  (s.freeGroups c).filter fun g => !(k.lent.contains g && k.lentStage != stage)

/-- Whether the oldest waiting claim of a core cannot reach its effective LMIN (R114). -/
def claimShort (s : State) (c : Nat) : Bool :=
  match (s.core c).claims with
  | h :: _ => let b := s.blkAt h; b.groups.length + (s.openGroups c b.stage).length < b.lmin
  | [] => false

/-- One shrink of R114: the youngest hart at a point that holds more than its LMIN loses its highest group, which the lending of R102 takes
unless a claim waits for it. `here` is a hart that reaches a point now. -/
def shrinkStep (s : State) (c : Nat) (here : Option Nat) : State :=
  let k := s.core c
  let short := s.claimShort c
  let need := k.laneWait || short
  let cands := (s.coreBlocks c).filter fun e =>
    (e.2.atPoint || here == some e.1) && e.2.lmin < e.2.groups.length &&
      (need || (k.lentStage != 0 && e.2.stage != k.lentStage))
  match minBy (fun e : Nat × Block => 2 ^ 64 - e.2.age) cands with
  | none => s
  | some (h, b) =>
    (s.setBlkAt h b.shrinkOne).updCore c fun k =>
      { k with shrunkAt := some s.ck, lent := if k.lentStage ≠ 0 && !short then k.lent ++ b.groups.getLast?.toList else k.lent }

/-- The shrink of R114 at a point: at most one in a ck on a core. -/
def shrink (s : State) (c : Nat) (here : Option Nat) : State :=
  if (s.core c).shrunkAt == some s.ck then s else s.shrinkStep c here

/-- `n` ck pass on a core: in each one hart that waits at a point may lose a group (R114). -/
def shrinkPass (s : State) (n c : Nat) : State :=
  let k := s.core c
  if k.laneWait || k.lentStage != 0 || !k.claims.isEmpty then (List.range (min n 64)).foldl (fun s _ => s.shrinkStep c none) s else s

/-- Groups that the waiting claims of a core need to reach their LMIN. -/
def claimNeed (s : State) (c : Nat) : Nat :=
  (s.core c).claims.foldl (fun n h => let b := s.blkAt h; n + (b.lmin - b.groups.length)) 0

/-- n of step 3 of R352 for a request of `q` lanes. -/
def claimGoal (b : Block) (q : Nat) : Nat := max (min (cdiv q 16) b.lmax) b.lmin

/-- Steps 5 and 6 of R352 with `avail` groups: the block after its grant, or none when it must wait. -/
def claimTake (b : Block) (q : Nat) (avail : List Nat) : Option Block :=
  let new := avail.take (claimGoal b q - b.groups.length)
  if b.groups.length + new.length < b.lmin then none else some (b.grant new)

/-- X[d] := the lanes held (R352 step 7). -/
def claimDone (s : State) (d : BitVec 6) : State := s.writeX d (BitVec.ofNat 64 s.blk.lanes)

/-- LCLAIM in the hart in focus (R352). -/
def lclaim (s : State) (q : Nat) (d : BitVec 6) (lit : Option Word) : State :=
  if 128 < q then s.raise .lanes lit
  else if s.blk.pend.any (fun p => match p.dest with
      | .vel _ _ _ => true
      | _ => false) then s.waitFor .retry
  else
    let c := s.myCore
    let s := s.shrink c (some s.cur)
    let b := s.blk
    let b := { b with groups := b.groups.take (claimGoal b q) }
    let s := s.setBlk b
    let opens := s.openGroups c b.stage
    let avail := opens.take (opens.length - s.claimNeed c)
    match claimTake b q avail with
    | some b => ((s.setBlk b).claimDone d).advance lit
    | none => (s.updCore c fun k => { k with claims := k.claims ++ [s.cur] }).issueWait (.lclaim q d)

/-- LCLAIM_GRANT: the oldest waiting claim of a core takes its groups once they reach its LMIN; else a hart at a point is
shrunk (R352 step 6). -/
def lclaimGrant (s : State) (c : Nat) : State :=
  match (s.core c).claims with
  | [] => s
  | h :: rest =>
    match (s.blkAt h).wait with
    | some (.lclaim q d) =>
      let s := s.shrink c none
      let b := s.blkAt h
      match claimTake b q (s.openGroups c b.stage) with
      | some b =>
        ((s.updCore c fun k => { k with claims := rest }).setBlkAt h b).onHart h fun s => (s.claimDone d).finishOp
      | none => s
    | _ => s.updCore c fun k => { k with claims := rest }

/-- LRELEASE in the hart in focus (R353). -/
def lrelease (s : State) (lit : Option Word) : State :=
  let b := s.blk
  let busy := b.pend.any (fun p => match p.dest with
      | .vel _ _ _ => true
      | _ => false) || b.sq.any fun e => match e with
    | .store _ _ v => v
    | .gather _ => true
    | _ => false
  if busy then s.waitFor .retry
  else (s.setBlk { b with groups := [], freshLanes := true }).advance lit

end State

def execLclaim (f : FmtA) (s : State) : Out :=
  guarded f.gm f.lit [f.b] (some f.d) (fun s => s.lclaim (s.yA f).toNat f.d f.lit) s

def execLclaimGrant (core : Nat) (s : State) : Out := .next (s.lclaimGrant core)

def execLrelease (f : FmtA) (s : State) : Out := guarded f.gm f.lit [] none (fun s => s.lrelease f.lit) s

end Sys2Proof.Machine
end

