-- ==== Sys2Proof/Machine/VectorMem.lean ====
section
/-! DEFINITION. Group 5 on memory: unit-stride, strided and indexed loads and stores, fault-first loads, scatter-add, and
the return of a gather (spec 14 R366 to R369; spec 07 R165; spec 08 R188, R208, R214, R216). -/

namespace Sys2Proof.Machine

/-- The address base of format W (R366). -/
def State.baseW (s : State) (f : FmtW) : Word := s.getX f.base + f.lit.getD (f.off.signExtend 64)

/-- What checking the elements of a vector access found: a walk to wait for, or the elements that can be done, as element
and physical address, and what stopped at the next one. -/
inductive VScan where
  | miss (va : Nat)
  | done (ok : List (Nat × Nat × Nat)) (stop : Option (Nat × ProbeRes))
  deriving DecidableEq, Repr

/-- Translates the element addresses in ascending order up to the first that stops (R214, R366). -/
def State.vScan (s : State) (k : AKind) (acc : Access) (n : Nat) (addr : Nat → Nat) : List Nat → List (Nat × Nat × Nat) → VScan
  | [], ok => .done ok.reverse none
  | e :: t, ok =>
    match s.probe k acc (addr e) n e with
    | .ok pa _ => vScan s k acc n addr t ((e, addr e, pa) :: ok)
    | .miss => .miss (addr e)
    | r => .done ok.reverse (some (e, r))

/-- Acts on what stopped at element `e`; with nothing, the instruction completes. -/
def State.vStop (s : State) (lit : Option Word) (stop : Option (Nat × ProbeRes)) : State :=
  match stop with
  | some (_, .trap r) => s.takeTrap r lit.isSome
  | some (e, .halt i) => s.watchHalt e i
  | _ => s.advance lit

/-- Uses the TLB entries of the elements' pages (R180). -/
def State.vTouch (s : State) (ok : List (Nat × Nat × Nat)) : State :=
  ((ok.map fun x => x.2.1 / 8192).eraseDups).foldl (fun (s : State) p => s.tlbTouch (p * 8192)) s

/-- The active elements below VL, from ESTART. -/
def State.activeList (s : State) (f : FmtW) (n : Nat) : List Nat := (List.range n).filter (s.blk.active f.gm)

/-- What stops a vector access: the first of what its address checks found and the element that consumes uncorrectable data, whose
address is checked before (R266). -/
def withUncorr (acc : Access) (addr : Nat → Nat) (bad : Option Nat) (ok : List (Nat × Nat × Nat)) (stop : Option (Nat × ProbeRes)) :
    List (Nat × Nat × Nat) × Option (Nat × ProbeRes) :=
  match bad with
  | none => (ok, stop)
  | some e =>
    if stop.isSome then (ok, stop)
    else (ok.filter fun x => x.1 < e, some (e, .trap { cause := .uncorr, access := acc, va := BitVec.ofNat 64 (addr e), estart := e }))

/-- Whether an element of an indexed form's index register, or of its data, holds an error (R58). -/
def Block.badW (b : Block) (f : FmtW) (index data : Bool) (e : Nat) : Bool :=
  let w := fmtBits f.fmt.toNat
  (index && b.badV f.vi (if w = 64 then 64 else 32) e) || (data && b.badV f.vd w e)

/-- The frame of a vector memory instruction: registers, lanes, an acquire in flight (R200), the element addresses, then `go` with the
elements that can be done and what stops the next; `vs` and the data of a store are read. -/
def vMem (f : FmtW) (xs : List (BitVec 6)) (vs : List (BitVec 5)) (k : AKind) (acc : Access) (vlw : Nat)
    (addr : State → Nat → Nat) (room : Bool) (go : State → List (Nat × Nat × Nat) → Option (Nat × ProbeRes) → State)
    (s : State) : Out :=
  vecFrame f.lit (f.vl :: f.base :: xs) none (f.vd :: vs)
      (fun s => s.blk.firstBad f.gm (s.vlen f.vl vlw) (s.blk.badW f (!vs.isEmpty) (k != .load))) (fun bad s =>
    if !s.blk.memReady || (room && !s.sqRoom) then s.waitFor .retry
    else
      let todo := (s.activeList f (s.vlen f.vl vlw)).filter fun e => e ≤ bad.getD e
      match s.vScan k acc (fmtBits f.fmt.toNat / 8) (addr s) todo [] with
      | .miss va => s.awaitWalk k va
      | .done ok stop =>
        let (ok, stop) := withUncorr acc (addr s) bad ok stop
        go (s.vTouch ok) (ok.filter fun x => s.blk.sentTo ≤ x.1) stop) s

/-- Element address of the unit-stride forms. -/
def unitAddr (f : FmtW) (s : State) (e : Nat) : Nat :=
  (s.baseW f + BitVec.ofNat 64 (e * (fmtBits f.fmt.toNat / 8))).toNat
/-- Element address of the strided forms. -/
def strideAddr (f : FmtW) (s : State) (e : Nat) : Nat := (s.baseW f + BitVec.ofNat 64 e * s.getX f.stride).toNat
/-- Element address of the indexed forms. -/
def indexAddr (f : FmtW) (s : State) (e : Nat) : Nat :=
  let wi := if fmtBits f.fmt.toNat = 64 then 64 else 32
  (s.baseW f + sextWord wi (vGet (s.blk.getV f.vi) wi e)).toNat

/-- Whether a physical address lies in peer memory. -/
def inPeer (pa : Nat) : Bool :=
  match aperture pa with
  | .peer _ => true
  | _ => false

/-- Reads the elements of a vector load that lie in peer memory, each once the one before it has returned, so that nothing is read above an
element that fails; PERM at that one, else `go` (R43, R214, R368). -/
def State.withPeers (s : State) (n : Nat) (ok : List (Nat × Nat × Nat)) (stop : Option (Nat × ProbeRes))
    (go : State → List (Nat × Nat × Nat) → Option (Nat × ProbeRes) → State) : State :=
  match ok.find? fun x => inPeer x.2.2 && !s.blk.words.any fun w => w.1 == x.1 with
  | none => go s ok stop
  | some (e, va, pa) =>
    if s.blk.pend.any fun p => p.dest == .word e then s.waitFor .retry
    else
      match s.blk.peerBad with
      | some (_, a) =>
        go s (ok.filter fun x => x.1 < e) (some (e, .trap { cause := .perm, access := .load, va := BitVec.ofNat 64 a, estart := e }))
      | none =>
        match s.startLoad va pa n .system none (.word e) e with
        | .done s | .sent s => s.waitFor .retry
        | .wait => s.waitFor .retry

/-- Starts the loads of the elements; none when one of them must wait. Those in peer memory have their values. -/
def State.startLoads (s : State) (f : FmtW) (n : Nat) : List (Nat × Nat × Nat) → Option State
  | [] => some s
  | (e, va, pa) :: t =>
    if inPeer pa then
      startLoads (s.deliver (.vel f.vd (8 * n) e) (((s.blk.words.find? fun w => w.1 == e).map (·.2)).getD 0)) f n t
    else
    match s.startLoad va pa n (effScope pa (scopeOf f.scope.toNat)) none (.vel f.vd (8 * n) e) e with
    | .done s | .sent s => startLoads s f n t
    | .wait => none

/-- Ends a vector load whose elements `ok` are started: the progress index as it is once they are there (R126), the errors that its
write covers, then the fault of the next element. -/
def State.endLoads (s : State) (f : FmtW) (ok : List (Nat × Nat × Nat)) (stop : Option (Nat × ProbeRes)) : State :=
  let w := fmtBits f.fmt.toNat
  (s.updBlk fun b => (match stop with
    | none => b.fullV f.vd
    | some (e, _) => { b with vprog := b.vprog.set f.vd.toNat (e / (16 * (64 / w))) f.vd.isLt, peerBad := none }).cleanV f.vd w
      fun e => ok.any fun x => x.1 == e).vStop f.lit stop

/-- VLD and VLDS. -/
def vLoad (addr : FmtW → State → Nat → Nat) (xs : List (BitVec 6)) (f : FmtW) (s : State) : Out :=
  let n := fmtBits f.fmt.toNat / 8
  vMem f xs [] .load .load (8 * n) (addr f) false (fun s ok stop =>
    s.withPeers n ok stop fun s ok stop =>
      match s.startLoads f n ok with
      | some s => s.endLoads f ok stop
      | none => s.waitFor .retry) s

def execVld (f : FmtW) (s : State) : Out := vLoad unitAddr [] f s
def execVlds (f : FmtW) (s : State) : Out := vLoad strideAddr [f.stride] f s

/-- VLDFF: a fault above the first active element shortens the vector instead (R368). -/
def execVldff (f : FmtW) (s : State) : Out :=
  let n := fmtBits f.fmt.toNat / 8
  vMem f [] [] .load .load (8 * n) (unitAddr f) false (fun s ok stop =>
    s.withPeers n ok stop fun s ok stop =>
      match s.startLoads f n ok with
      | none => s.waitFor .retry
      | some s' =>
        match stop with
        | none => (s'.writeX f.vl (BitVec.ofNat 64 (s.vlen f.vl (8 * n)))).endLoads f ok none
        | some (k, .trap r) =>
          if !ok.isEmpty && (r.cause == .align || r.cause == .xlate || r.cause == .perm) then
            ((s'.writeX f.vl (BitVec.ofNat 64 k)).updBlk fun b => { b with peerBad := none }).endLoads f ok none
          else s'.endLoads f ok stop
        | some _ => s'.endLoads f ok stop) s

/-- The elements of a store with their values. -/
def State.storeElems (s : State) (f : FmtW) (n : Nat) (ok : List (Nat × Nat × Nat)) : List (Nat × Nat × Nat) :=
  ok.map fun x => (x.2.2, n, vGet (s.blk.getV f.vd) (8 * n) x.1)

/-- Whether elements of an earlier vector store, scatter or atomic add of the hart are still to be performed. -/
def State.elemsOut (s : State) : Bool :=
  !s.blk.unacked.isEmpty || s.peerOut || s.blk.sq.any fun e => match e with
    | .store _ _ v => v
    | .gather _ | .amoSeq _ _ _ _ => true
    | _ => false

/-- Ends an instruction whose elements `done` have been sent to memory: a trap at element k is taken once those below k have been
performed; the instruction waits for them at element k (R214). -/
def State.endStores (s : State) (lit : Option Word) (done : Bool) (stop : Option (Nat × ProbeRes)) : State :=
  match stop with
  | some (k, .trap _) =>
    if done then (s.updBlk fun b => { b with sentTo := k }).waitFor .retry
    else if s.elemsOut && s.blk.peerBad.isNone then s.waitFor .retry
    else
      match s.blk.peerBad with
      | some (e, a) =>
        (s.updBlk fun b => { b with peerBad := none }).takeTrap
          { cause := .perm, access := .atomic, va := BitVec.ofNat 64 a, estart := e } lit.isSome
      | none => s.vStop lit stop
  | _ => s.vStop lit stop

/-- VST and VSTS: one entry of the store queue (R367). -/
def vStore (addr : FmtW → State → Nat → Nat) (xs : List (BitVec 6)) (f : FmtW) (s : State) : Out :=
  let n := fmtBits f.fmt.toNat / 8
  vMem f xs [] .store .store (8 * n) (addr f) true (fun s ok stop =>
    (if ok.isEmpty then s else s.sqPush (.store (s.storeElems f n ok) (scopeOf f.scope.toNat) true)).endStores f.lit (!ok.isEmpty) stop) s

def execVst (f : FmtW) (s : State) : Out := vStore unitAddr [] f s
def execVsts (f : FmtW) (s : State) : Out := vStore strideAddr [f.stride] f s

/-! ## Indexed forms (R165, R208) -/

/-- VL of the indexed forms is bounded at the wider of w and 32 (R366). -/
def indexWidth (f : FmtW) : Nat := Nat.max 32 (fmtBits f.fmt.toNat)

/-- VLDX: elements in peer memory are read by messages first, in host memory at once, the others by one gather request; dirty L1
bytes are those of the time it leaves (R208). -/
def execVldx (f : FmtW) (s : State) : Out :=
  let n := fmtBits f.fmt.toNat / 8
  vMem f [] [f.vi] .load .load (indexWidth f) (indexAddr f) false (fun s ok stop => s.withPeers n ok stop fun s ok stop =>
    let c := s.myCore
    let home := fun (x : Nat × Nat × Nat) => match aperture x.2.2 with
      | .host _ | .peer _ => false
      | _ => true
    let own := ok.filter home
    if own.any (fun x => s.wbInFlight c x.2.2) then s.waitFor .retry
    else
      match s.startLoads f n (ok.filter fun x => !home x) with
      | none => s.waitFor .retry
      | some s =>
        let s := match own with
          | [] => s
          | x :: _ =>
            let (id, s) := s.fresh
            let p : PendLoad :=
              { id := id, dest := .vel f.vd (8 * n) 0, pa := x.2.2, n := n, fill := false, acquire := none, before := 0, pc := s.blk.pc
                lit := f.lit.isSome, va := x.2.1, elem := x.1
                elems := own.map fun (y : Nat × Nat × Nat) =>
                  let d := if cacheable y.2.2 then (s.core c).dirtyBytes y.2.2 n else (0, 0)
                  (y.1, y.2.2, d.1, d.2) }
            let s := own.foldl (fun (s : State) (y : Nat × Nat × Nat) => s.seeBytes c y.2.2 n) s
            (s.updBlk fun b => { b with pend := b.pend ++ [p] }).sendGather
              { id := id, hart := s.cur, core := c, first := 0, n := n, write := false
                elems := own.map fun (y : Nat × Nat × Nat) => (y.1, y.2.2, 0) }
        s.endLoads f ok stop) s

/-- The elements of a scatter or atomic add with their physical addresses and data. -/
def scatterElems (s : State) (f : FmtW) (n : Nat) (ok : List (Nat × Nat × Nat)) : List (Nat × Nat × Nat) :=
  ok.map fun x => (x.1, x.2.2, vGet (s.blk.getV f.vd) (8 * n) x.1)

/-- VSTX: one entry of the store queue until its last element has left (R367). -/
def execVstx (f : FmtW) (s : State) : Out :=
  let n := fmtBits f.fmt.toNat / 8
  vMem f [] [f.vi] .store .store (indexWidth f) (indexAddr f) true (fun s ok stop =>
    let (id, s) := s.fresh
    let g : GatherReq := { id := id, hart := s.cur, core := s.myCore, first := 0, n := n, write := true, elems := scatterElems s f n ok }
    (if ok.isEmpty then s else s.sqPush (.gather g)).endStores f.lit (!ok.isEmpty) stop) s

/-- VAMOADD: atomic adds at the homes, one element after the other; where some lie in peer memory the hart waits for all (R369, R216,
R43). -/
def execVamoadd (f : FmtW) (s : State) : Out :=
  let n := fmtBits f.fmt.toNat / 8
  vMem f [] [f.vi] .amo .atomic (indexWidth f) (indexAddr f) true (fun s ok stop =>
    let peers := ok.any fun x => match aperture x.2.2 with
      | .peer _ => true
      | _ => false
    let s := if ok.isEmpty then s else s.sqPush (.amoSeq (scatterElems s f n ok) n none s.blk.pc)
    if stop.isNone && peers then s.waitFor .peer else s.endStores f.lit (!ok.isEmpty) stop) s

/-! ## The return of a gather (R165 step 5) -/

/-- The value of a gathered element with the dirty L1 bytes of its request merged (R208). -/
def gatherMerge (p : PendLoad) (e v : Nat) : Nat :=
  match p.elems.find? (fun d => d.1 == e) with
  | some (_, _, dv, dm) =>
    let m := spread (BitVec.ofNat 64 dm) p.n
    (dv &&& m) ||| (v - (v &&& m))
  | none => v

/-- The dense result of a VLDX reaches its V register, and refreshes the L1 (R194, R208). -/
def State.gatherLoad (s : State) (core h : Nat) (p : PendLoad) (g : GatherReq) : State :=
  match g.bad with
  | some e => s.uncorrLoad h { p with elem := e }
  | none =>
    s.onHart h fun s =>
      let s := s.updBlk fun b => { b with pend := b.pend.filter fun q => q.id != g.id }
      match p.dest with
      | .vel v w _ => g.elems.foldl (fun (s : State) x =>
          let s := if cacheable x.2.1 then
              s.updCore core fun c => c.l1Refresh (overOf p.newer (homeAddr x.2.1 / 64)) x.2.1 p.n x.2.2
            else s
          s.deliver (.vel v w x.1) (gatherMerge p x.1 x.2.2)) s
      | _ => s

end Sys2Proof.Machine
end

