-- ==== Sys2Proof/Machine/Copy.lean ====
section
/-! DEFINITION. The copy engine: places of elements and scales in memory, the translate stage, the reads and writes of a
micro-operation, and the line locks of tile-atomic copies (spec 06 R145; spec 07 R177 to R179, R182 to R186; spec 08 R206 to
R215; spec 16 R422 to R431). -/

namespace Sys2Proof.Machine

namespace TileRec

/-- The shape record of a copy's tile, and its name. -/
def shape (t : TileRec) : Shape :=
  match t.dst with
  | d :: _ => d.rcd
  | [] => (t.src.head?.map (·.rcd)).getD 0
def tileNo (t : TileRec) : Nat := t.names.headD 0

def isOut (t : TileRec) : Bool :=
  match t.ins with
  | .tst _ | .tsta _ | .tscat _ => true
  | _ => false
def isAtomic (t : TileRec) : Bool :=
  match t.ins with
  | .tlda _ | .tsta _ => true
  | _ => false
def isRows (t : TileRec) : Bool :=
  match t.ins with
  | .tgath _ | .tscat _ => true
  | _ => false
def isProbe (t : TileRec) : Bool :=
  match t.ins with
  | .tprobe _ => true
  | _ => false
/-- A copy with a translate stage over its elements. -/
def isCopy (t : TileRec) : Bool :=
  match t.ins with
  | .tld _ | .tst _ | .tlda _ | .tsta _ | .tgath _ | .tscat _ => true
  | _ => false
/-- A tile-atomic copy at CORE scope (R430). -/
def coreScope (t : TileRec) : Bool :=
  match t.ins with
  | .tlda f | .tsta f => f.scope == 0
  | _ => false

def accessKind (t : TileRec) : Access :=
  match t.ins with
  | .tgath _ => .gather
  | .tscat _ => .scatter
  | _ => if t.isOut then .copyOut else .copyIn

def origin (t : TileRec) : Word := (t.xv[0]?).getD 0

/-- Where element `n` lies: its address and first bit there (R422, R431). -/
def place (t : TileRec) (n : Nat) : Nat × Nat :=
  let d := t.shape
  if t.isRows then
    let row := t.origin + BitVec.ofNat 64 (vGet ((t.vv[0]?).getD 0) 64 (n / d.stored))
    let bit := n % d.stored * d.bits
    ((row + BitVec.ofNat 64 (bit / 8)).toNat, bit % 8)
  else elemAddr d t.dims t.origin n

/-- Stored row and column of element `n` (R424). -/
def cellOf (t : TileRec) (n : Nat) : Nat × Nat := (n / t.shape.stored, n % t.shape.stored)

/-- The fault record of a copy at element `e` (R426); a tile-atomic copy has performed none (R430). -/
def faultAt (t : TileRec) (c : Cause) (va e detail : Nat) : FaultRec :=
  { cause := c, access := t.accessKind, tile := some t.tileNo, row := (t.cellOf e).1, col := (t.cellOf e).2
    va := BitVec.ofNat 64 va, estart := if t.isAtomic then 0 else e, detail := detail }

/-- The translation that the copy holds for an address. -/
def heldFor (t : TileRec) (va : Nat) : Option Xlat := if canonical va then t.held.find? fun x => x.maps va else none

/-- The address of the scale of an element at `va` on a page (R179); none below the region's origin. -/
def scaleVa (t : TileRec) (x : Xlat) (va : Nat) : Option Nat :=
  let w := ((t.srgn[x.srgn]?).getD 0).toNat
  let origin := (sextWord 53 (field w 44 20 * 2 ^ 33)).toNat
  let base := sextWord 53 (field w 0 44 * 2 ^ 9)
  let d := t.shape
  let elems := if fmtX d.fmt then 128 else d.group
  if va < origin then none else some (base + BitVec.ofNat 64 ((va - origin) / (elems * d.bits / 8) * scaleSize d)).toNat

end TileRec

/-! ## The translate stage (R132, R145, R177) -/

/-- What the translate stage needs next: a page for element `e` (or its scale), the D bit of a page, or nothing; or what it
found. -/
inductive XNeed where
  | page (e va : Nat) (scale : Bool)
  | dirty (e : Nat) (x : Xlat)
  | watch (e va i : Nat)
  | fault (r : FaultRec)
  | done

/-- Whether a page's format refuses an element or a scale of the tile (R177). -/
def pageRefuses (d : Shape) (x : Xlat) (scale : Bool) : Bool :=
  if scale then x.fmt != 0 && !(fmtX d.fmt && x.fmt == 0x1E)
  else (x.fmt != 0 && x.fmt != d.fmt) || (hasScales d && x.fmt == 0)

/-- Goes on from element `e`, `n` elements to go, to the first that needs something (R266 item 5). A tile-atomic copy checks no page
format again (R430). -/
def TileRec.need (t : TileRec) (b : Block) : Nat → Nat → XNeed
  | 0, _ => .done
  | n + 1, e =>
    let d := t.shape
    let va := (t.place e).1
    let size := d.elemBytes
    if t.isRows && e % d.stored = 0 && va % size ≠ 0 then .fault (t.faultAt .align va e 0)
    else
      let watch := if t.isAtomic then none else b.watchHit t.watchAt e va size (!t.isOut) t.isOut true
      match watch with
      | some i => .watch e va i
      | none =>
        match t.heldFor va with
        | none => if t.isAtomic then .fault (t.faultAt .xlate va e 0) else .page e va false
        | some x =>
          if t.isAtomic && ((t.isOut && !x.w) || !cacheable (x.phys va)) then .fault (t.faultAt .perm va e 0)
          else if t.isAtomic && t.isOut && !x.d then .dirty e x
          else if !t.isAtomic && pageRefuses d x false then .fault (t.faultAt .format va e 0)
          else if hasScales d then
            match t.scaleVa x va with
            | none => .fault (t.faultAt .format va e 0)
            | some sv =>
              match t.heldFor sv with
              | none => .page e sv true
              | some y => if !t.isAtomic && pageRefuses d y true then .fault (t.faultAt .format sv e 0) else TileRec.need t b n (e + 1)
          else TileRec.need t b n (e + 1)

/-- What looking up one page gives; a failure with the address for the fault record (R43). -/
inductive PageRes where
  | ok (x : Xlat)
  | fail (c : Cause) (addr : Nat)
  | wait (s : State)

namespace State

/-- Looks a page up for the copy engine of hart `h`: what walks gave, then the TLB; a miss enters the miss table. -/
def enginePage (s : State) (h : Nat) (write : Bool) (va : Nat) : PageRes :=
  let b := s.blkAt h
  let c := coreOf h
  match findPage (s.core c) b.ebuf b.ctx write va with
  | none => .wait (s.enterMiss c b.ctx va write (engineWaiter h))
  | some none => .fail (walkCause b.ebuf va) va
  | some (some x) =>
    let pa := x.phys va
    if !x.allows b.level (if write then .store else .load) || !paExists s.plat.scrReach pa then .fail .perm va
    else
      match aperture pa with
      | .host a => if (s.ms.hostXlat ((s.context b.ctx).map (·.pasid)) a).isNone then .fail .xlate va else .ok x
      | .peer off => if !write && (s.fab.peerTarget off).isNone then .fail .perm pa else .ok x
      | _ => .ok x

/-- Drops what walks gave for an address, once it has been used. -/
def useWalk (s : State) (h va : Nat) : State :=
  s.updBlkAt h fun b => { b with ebuf := b.ebuf.filter fun e => (bufFind [e] va false).isNone && (bufFind [e] va true).isNone }

def setRecAt (s : State) (h : Nat) (t : TileRec) : State := s.updBlkAt h fun b => b.setRec t

/-- A tile-atomic store sets the D bit of a page it holds with an AMOOR.64 at the entry's home, as R189 has an AMO leave (R176, R430);
its request is number 2^41. -/
def sendDirty (s : State) (h : Nat) (t : TileRec) (x : Xlat) : State :=
  let c := coreOf h
  if s.wbInFlight c x.pte then s
  else if ((s.core c).l1Find x.pte).any fun l => l.dirty != 0 then s.l1WriteBack c h 0 x.pte
  else
    let (id, s) := s.fresh
    ((s.updCore c fun k => k.l1Invalidate x.pte (byteMask (x.pte % 64) 8)).setRecAt h
      { t with out := [{ id := id, pa := x.pte, n := 8, parts := [(2 ^ 41, x.pte, 8)] }] }).sendReq .lat
      { id := id, hart := h, src := .core c, pa := x.pte, op := .amo .or 8 0x80 0, engine := true }

/-- A copy's translate stage takes one step (R132, R177, R282). -/
def translateCopy (s : State) (h : Nat) (t : TileRec) : State :=
  let b := s.blkAt h
  let total := t.shape.count
  match t.need b (total - t.xlated) t.xlated with
  | .done => s.setRecAt h { t with xlated := total, faultPassed := true }
  | .fault r => s.setRecAt h { t with xlated := r.estart, fault := some r }
  | .watch e va i =>
    let t := { t with xlated := e, watchAt := (e, i) :: t.watchAt }
    if (b.ctl.wpl[i]?.getD 0).getLsbD 3 then (s.setRecAt h t).haltHart h 3
    else s.setRecAt h { t with fault := some (t.faultAt .watch va e i) }
  | .dirty e x => if t.out.isEmpty then s.sendDirty h { t with xlated := e } x else s
  | .page e va scale =>
    match s.enginePage h t.isOut va with
    | .wait s => s.setRecAt h { t with xlated := e }
    | .fail c a => (s.useWalk h va).setRecAt h { t with xlated := e, fault := some (t.faultAt c a e 0) }
    | .ok x =>
      let s := (s.useWalk h va).onHart h fun s => s.tlbTouch va
      if pageRefuses t.shape x scale then s.setRecAt h { t with xlated := e, fault := some (t.faultAt .format va e 0) }
      else s.setRecAt h { t with xlated := e, held := t.held ++ [x] }

/-- TPROBE translates the next page of its span; after the last it makes its token and writes its register (R428). -/
def translateProbe (s : State) (h : Nat) (t : TileRec) : State :=
  let d := t.shape
  let (lo, span) := footprint d t.dims
  let first := (t.origin + BitVec.ofInt 64 lo).toNat
  if span ≤ t.xlated then
    let b := s.blkAt h
    let idx := ((List.range 16).find? fun i => !b.tokens.any fun k => k.idx == i).getD 0
    let k : Token := { idx := idx, seq := t.token, va := first, len := span, pages := t.held }
    let s := s.setBlkAt h { b with tokens := b.tokens ++ [k] }
    let s := s.onHart h fun s => s.writeX (t.xdst.getD 0) k.value
    s.setRecAt h { t with faultPassed := true, phase := .finished, xdst := none }
  else
    let va := (first + t.xlated) % 2 ^ 64
    let fail := fun (s : State) (c : Cause) (a : Nat) =>
      s.setRecAt h { t with fault := some { cause := c, access := .copyIn, tile := some t.tileNo, va := BitVec.ofNat 64 a } }
    match s.enginePage h false va with
    | .wait s => s
    | .fail c a => fail (s.useWalk h va) c a
    | .ok x =>
      let s := (s.useWalk h va).onHart h fun s => s.tlbTouch va
      if pageRefuses d x false then fail s .format va
      else s.setRecAt h { t with held := t.held ++ [x], xlated := t.xlated + (2 ^ x.log2 - va % 2 ^ x.log2) }

end State

/-! ## Accesses of a micro-operation -/

/-- Elements of one memory unit: a byte's worth of a narrow format, else one (R425). -/
def Shape.grain (d : Shape) : Nat := if d.narrow then 8 / d.bits else 1

/-- The first elements of the units that elements `p` to `p + n − 1` lie in. -/
def unitsOf (d : Shape) (p n : Nat) : List Nat :=
  let first := p / d.grain
  (List.range (cdiv (p + n) d.grain - first)).map fun i => (first + i) * d.grain

/-- The physical address of an address that the copy holds a translation for. -/
def TileRec.phys (t : TileRec) (va : Nat) : Nat :=
  match t.heldFor va with
  | some x => x.phys va
  | none => 0

/-- The accesses of a unit: its address and bytes, then its scale's (R424). -/
def TileRec.accesses (t : TileRec) (e : Nat) : List (Nat × Nat) :=
  let d := t.shape
  let va := (t.place e).1
  (t.phys va, d.elemBytes) ::
    (if hasScales d then
      match (t.heldFor va).bind fun x => t.scaleVa x va with
      | some sv => [(t.phys sv, scaleSize d)]
      | none => []
    else [])

/-- One access of a micro-operation: its number (the unit's first element, 2^40 above it for a scale), address and bytes. -/
abbrev Part := Nat × Nat × Nat

def Part.elem (p : Part) : Nat := p.1 % 2 ^ 40

/-- The accesses of elements `p` to `p + n − 1`. -/
def TileRec.parts (t : TileRec) (p n : Nat) : List Part :=
  (unitsOf t.shape p n).flatMap fun e => (t.accesses e).zipIdx.map fun x => (e + 2 ^ 40 * x.2, x.1.1, x.1.2)

/-- The value of a unit that starts at element `e` of a slot. -/
def TileRec.unitGet (t : TileRec) (x off e : Nat) : Nat :=
  let d := t.shape
  (List.range d.grain).foldl (fun v i =>
    let p := t.cellOf (e + i)
    v + (slotElem d x off p.1 p.2) <<< (i * d.bits)) 0

/-- The content of a slot with a unit placed. -/
def TileRec.unitPut (t : TileRec) (x e v : Nat) : Nat :=
  let d := t.shape
  (List.range d.grain).foldl (fun x i =>
    let p := t.cellOf (e + i)
    slotPut d x p.1 p.2 (field v (i * d.bits) d.bits)) x

/-- The value that an access of a copy-out writes. -/
def TileRec.partGet (t : TileRec) (x off : Nat) (p : Part) : Nat :=
  if p.1 < 2 ^ 40 then t.unitGet x off p.1 else slotScale t.shape x (t.cellOf p.elem).1 (t.cellOf p.elem).2

/-- The content of a slot with what an access of a copy-in read. -/
def TileRec.partPut (t : TileRec) (x : Nat) (p : Part) (v : Nat) : Nat :=
  if p.1 < 2 ^ 40 then t.unitPut x p.1 v else putScale t.shape x (t.cellOf p.elem).1 (t.cellOf p.elem).2 v

/-- A fault of an element is noted, unless one of a lower element stands (R135, R215). -/
def TileRec.lowFault (t : TileRec) (r : FaultRec) : TileRec :=
  { t with fault := some (match t.fault with
      | some q => if q.estart ≤ r.estart then q else r
      | none => r) }

/-- UNCORR of a copy at an element (R135). -/
def TileRec.uncorrAt (t : TileRec) (e : Nat) : TileRec := t.lowFault (t.faultAt .uncorr (t.place e).1 e 0)

/-- The element or step before which a recorded fault stops the instruction. -/
def limitOf (t : TileRec) (total : Nat) : Nat :=
  match t.fault with
  | some r => min total r.estart
  | none => total

/-- The accesses by a key, the lowest key first, each in its order. -/
def groupParts (key : Part → Nat) (l : List Part) : List (List Part) :=
  (((l.map key).eraseDups).mergeSort fun a b => a ≤ b).map fun k => l.filter fun p => key p == k

/-- A request over accesses of one 128-byte block or of one gather, with the dirty L1 bytes at the time it leaves, 8 bytes and 8 mask bits
for each (R159, R208). -/
def EngReq.of_ (c : Core) (id : Nat) (ps : List Part) : EngReq :=
  let lo := ps.foldl (fun m p => min m p.2.1) ((ps.head?.map (·.2.1)).getD 0)
  let hi := ps.foldl (fun m p => max m (p.2.1 + p.2.2)) 0
  let dirt := ps.zipIdx.map fun p => (p.2, if cacheable p.1.2.1 then c.dirtyBytes p.1.2.1 p.1.2.2 else (0, 0))
  { id := id, pa := lo, n := hi - lo, parts := ps
    dirtyV := dirt.foldl (fun v d => v + d.2.1 <<< (64 * d.1)) 0
    dirtyM := dirt.foldl (fun v d => v + d.2.2 <<< (8 * d.1)) 0 }

/-- The data and the byte mask of a write of a request's accesses. -/
def EngReq.data (r : EngReq) (value : Part → Nat) : Nat :=
  r.parts.foldl (fun v p => setField v (8 * (p.2.1 - r.pa)) (8 * p.2.2) (value p)) 0
def EngReq.mask (r : EngReq) : Nat := r.parts.foldl (fun m p => m ||| (2 ^ p.2.2 - 1) <<< (p.2.1 - r.pa)) 0

namespace State

/-! ## Sending (R39, R145, R165, R190, R206, R212) -/

/-- Whether an engine access of a core has to wait before it is sent: a CORE-scope lock of another copy, a write-back of its line on its
way (R184, R193). -/
def engineHeld (s : State) (c : Nat) (p : Part) : Bool :=
  match aperture p.2.1 with
  | .host _ | .peer _ => false
  | _ => s.coreLocked c p.2.1 p.2.2 || s.wbInFlight c p.2.1

/-- A request of a copy's record is under way. -/
def addOut (s : State) (h seq : Nat) (r : EngReq) : State :=
  s.updBlkAt h fun b => { b with trecs := mapIf (fun t => t.seq == seq) (fun t => { t with out := t.out ++ [r] }) b.trecs }

/-- The content and first bit of a copy's tile: the source's of a copy-out, the destination's of a copy-in. -/
def copySlot (s : State) (h : Nat) (t : TileRec) : Nat × Nat :=
  if t.isOut then
    match t.src with
    | x :: _ => (((s.slot (coreOf h) x.slot).map (·.content)).getD 0, x.off)
    | [] => (0, 0)
  else
    match t.dst with
    | d :: _ => (((s.slot (coreOf h) d.slot).map (·.content)).getD 0, 0)
    | [] => (0, 0)

/-- What accesses of a copy-in read is placed in its slot. -/
def placeParts (s : State) (h : Nat) (t : TileRec) (l : List (Part × Nat)) : State :=
  match t.dst with
  | d :: _ => s.updSlot (coreOf h) d.slot fun x => { x with content := l.foldl (fun c p => t.partPut c p.1 p.2) x.content }
  | [] => s

/-- An access in host memory is made through the host port at once (R37). -/
def hostPart (s : State) (h : Nat) (t : TileRec) (p : Part) : State :=
  if t.isOut then
    let (x, off) := s.copySlot h t
    s.onHart h fun s => s.hostStore p.2.1 (t.partGet x off p) p.2.2
  else s.placeParts h t [(p, ofLe ((s.ms.sysRead ((s.context (s.blkAt h).ctx).map (·.pasid)) p.2.1 p.2.2).getD []))]

/-- The accesses of one 128-byte block of peer memory travel as one message (R39). -/
def peerBlock (s : State) (h : Nat) (t : TileRec) (ps : List Part) : State :=
  let r := EngReq.of_ (s.core (coreOf h)) (2 ^ 60 + s.fab.tags) ps
  match aperture r.pa with
  | .peer off =>
    if t.isOut then
      let (x, y) := s.copySlot h t
      s.peerWrite h r.pa off fun a =>
        .write a (leBytes r.n (r.data (t.partGet x y))) ((List.range r.n).map fun i => r.mask.testBit i)
    else
      match s.fab.peerTarget off with
      | some (dev, a) => (s.sendPeer h dev a false (.read a r.n)).addOut h t.seq r
      | none => s
  | _ => s

/-- What an engine's accesses do to the L1 as they leave: a write replaces the bytes that stand there, a read sees them (R157, R159,
R201). -/
def throughParts (s : State) (h : Nat) (t : TileRec) (ps : List Part) : State :=
  let c := coreOf h
  let (x, off) := s.copySlot h t
  (ps.filter fun p => cacheable p.2.1).foldl (fun (s : State) p => s.updCore c fun k =>
    if t.isOut then k.l1Through p.2.1 p.2.2 (t.partGet x off p) else k.l1See (h % 8) p.2.1 p.2.2) s

/-- The accesses of one 128-byte block of device memory, its alias or scratch are one request to their home (R145, R168); `holder`: the
copy holds its lines' locks (R184). -/
def homeBlock (s : State) (h : Nat) (t : TileRec) (holder : Option Nat) (ps : List Part) : State :=
  let c := coreOf h
  let (id, s) := s.fresh
  let r := EngReq.of_ (s.core c) id ps
  let (x, off) := s.copySlot h t
  let op := if t.isOut then HomeOp.write (r.data (t.partGet x off)) r.mask r.n else .read r.n
  ((s.throughParts h t ps).sendReq .bulk
    { id := id, hart := h, src := .core c, pa := r.pa, op := op, engine := true, holder := holder }).addOut h t.seq r

/-- The elements of a TGATH or TSCAT in device memory, its alias or scratch leave as one request to the gather units (R165). -/
def gatherParts (s : State) (h : Nat) (t : TileRec) (ps : List Part) : State :=
  if ps.isEmpty then s
  else
    let c := coreOf h
    let (id, s) := s.fresh
    let r := EngReq.of_ (s.core c) id ps
    let (x, off) := s.copySlot h t
    let g : GatherReq :=
      { id := id, hart := h, core := c, first := 0, n := t.shape.elemBytes, write := t.isOut, engine := true
        elems := ps.map fun p => (p.1, p.2.1, if t.isOut then t.partGet x off p else 0) }
    let s := if t.isOut then ps.foldl (fun (s : State) p => s.noteBytes c p.2.1 (2 ^ p.2.2 - 1) p.2.2) s else s
    ((s.throughParts h t ps).sendGather g).addOut h t.seq r

/-- The accesses of a CORE-scope copy that the L1 serves: bytes valid there are read, stores go into their lines (R184, R209). The others
are left. -/
def coreParts (s : State) (h : Nat) (t : TileRec) (ps : List Part) : State × List Part :=
  let c := coreOf h
  if (s.core c).l1Ways.isEmpty then (s, ps)
  else if t.isOut then
    let (x, off) := s.copySlot h t
    (ps.foldl (fun (s : State) p => (s.l1Allocate c p.2.1).updCore c fun k => k.l1Store (h % 8) p.2.1 p.2.2 (t.partGet x off p)) s, [])
  else
    let here := fun (p : Part) => (s.core c).l1Read p.2.1 p.2.2
    ((s.placeParts h t (ps.filterMap fun p => (here p).map fun v => (p, v))).throughParts h t ps, ps.filter fun p => (here p).isNone)

/-- The accesses of elements `p` to `p + n − 1` of a copy leave its engine. Those of a plain copy go to their homes in blocks of 128
bytes; a free value says which of a block's elements travel together and in which order, since they are independent (R212; log entry
82). -/
def sendParts (s : State) (h : Nat) (t : TileRec) (p n : Nat) (holder : Option Nat) : State :=
  let ps := t.parts p n
  let isHost := fun (x : Part) => match aperture x.2.1 with
    | .host _ => true
    | _ => false
  let isPeer := fun (x : Part) => match aperture x.2.1 with
    | .peer _ => true
    | _ => false
  let own := ps.filter fun x => !isHost x && !isPeer x
  let bad := if t.isOut then [] else own.filter fun x => cacheable x.2.1 && (s.core (coreOf h)).l1Bad x.2.1 x.2.2
  let t := match bad with
    | x :: _ => t.uncorrAt (Part.elem x)
    | [] => t
  let s := s.setRecAt h t
  let s := (ps.filter isHost).foldl (fun (s : State) x => s.hostPart h t x) s
  let s := (groupParts (fun x => x.2.1 / 128) (ps.filter isPeer)).foldl (fun (s : State) x => s.peerBlock h t x) s
  if t.isRows then s.gatherParts h t own
  else
    let (s, own) := if t.coreScope then s.coreParts h t own else (s, own)
    let k := s.free
    let key := fun (x : Part) => (if t.isAtomic then 0 else Config.copyPacket k (Part.elem x)) * 2 ^ 60 + x.2.1 / 128
    { (groupParts key own).foldl (fun (s : State) x => s.homeBlock h t holder x) s with free := k + 1 }

/-! ## Ending a micro-operation -/

/-- The copy's slot is filled, or its last element written: the micro-operation ends the instruction's work; before a fault it goes back to
its queue. -/
def copyEnd (s : State) (h : Nat) (t : TileRec) (p : Nat) : State :=
  let total := t.shape.count
  if total ≤ p then
    let s := match t.dst with
      | d :: _ => match s.slot (coreOf h) d.slot with
        | some x => s.fillSlot (coreOf h) d.slot x.content x.undef
        | none => s
      | [] => s
    s.setRecAt h { t with progress := p, phase := .finished, chunk := 0 }
  else s.setRecAt h { t with progress := p, phase := .queued, chunk := 0 }

/-- A copy's running micro-operation ends once its answers are in (R190, R207, R425, R431). -/
def copyFinish (s : State) (h : Nat) (t : TileRec) : State :=
  if t.out.isEmpty then s.copyEnd h t (min (t.progress + t.chunk) (limitOf t t.shape.count)) else s

/-- Starts a copy's micro-operation over its next `n` elements; none while one of its accesses has to wait. A gather has at most 1,024
elements (R165). -/
def copyStart (s : State) (h : Nat) (t : TileRec) (n : Nat) : Option State :=
  let n := if t.isRows then min n ((t.progress / t.shape.grain + 1024) * t.shape.grain - t.progress) else n
  if (t.parts t.progress n).any (s.engineHeld (coreOf h)) then none
  else some (s.sendParts h { t with phase := .running, chunk := n } t.progress n none)

/-! ## Tile-atomic copies (R184, R186) -/

/-- The 256-byte lines of a footprint, ascending; their 64-byte lines at CORE scope. -/
def atomicLines (t : TileRec) : List Nat :=
  let all := (unitsOf t.shape 0 t.shape.count).map fun e =>
    let pa := t.phys (t.place e).1
    if t.coreScope then pa / 64 else lineOf (homeAddr pa)
  (all.eraseDups).mergeSort fun a b => a ≤ b

/-- The lines of the first granule of a list. -/
def firstGranule (l : List Nat) : List Nat :=
  match l with
  | [] => []
  | x :: _ => l.filter fun y => y / 8192 == x / 8192

/-- Requests the locks of the first granule that is left. -/
def sendLock (s : State) (h : Nat) (t : TileRec) : State :=
  match t.locksLeft with
  | [] => s
  | x :: _ =>
    let (q, s) := s.fresh
    (s.noteHome (coreOf h) (stackOf x) q).send (.core (coreOf h)) (.stack (stackOf x))
      (.lock { hart := h, seq := t.seq, core := coreOf h, lines := firstGranule t.locksLeft })

/-- A tile-atomic copy that holds all its lines moves its data (R184 step 3). -/
def moveAtomic (s : State) (h : Nat) (t : TileRec) : State :=
  s.sendParts h t t.progress t.chunk (if t.coreScope then none else some t.seq)

/-- The waiting tile-atomic copy of a lock request. -/
def lockerOf (s : State) (r : LockReq) : Option TileRec := (s.blkAt r.hart).trecs.find? fun t => t.seq == r.seq && !t.locksLeft.isEmpty

/-- The L1 controller of a core grants 64-byte lines to a CORE-scope copy in ascending order; at one that is held it joins the line's queue.
With the last the copy moves its data; lines of one that is gone are freed at its place in `freeCore` (R184). -/
def grantCore (s : State) (r : LockReq) : List Nat → State
  | [] =>
    match s.lockerOf r with
    | some t => s.moveAtomic r.hart { t with locks := t.locksLeft, locksLeft := [] }
    | none => s
  | l :: rest =>
    if (s.core r.core).l1Locks.any fun k => k.line == l then
      s.updCore r.core fun c => { c with l1Locks := mapIf (fun k => k.line == l) (fun k =>
        { k with waiters := k.waiters ++ [.lock { r with lines := l :: rest }] }) c.l1Locks }
    else
      grantCore (s.updCore r.core fun c => { c with l1Locks := c.l1Locks ++ [{ line := l, holder := r.hart, seq := r.seq, waiters := [] }] })
        r rest

/-- A freed 64-byte line goes to the first waiter of its queue whose copy is still there, which takes what it still needs; the others wait
on. -/
def passCore (s : State) (c line : Nat) : List Msg → State
  | .lock r :: rest =>
    if (s.lockerOf r).isSome then
      (s.updCore c fun k => { k with l1Locks := k.l1Locks ++ [{ line := line, holder := r.hart, seq := r.seq, waiters := rest }] }).grantCore
        r r.lines.tail
    else passCore s c line rest
  | _ :: rest => passCore s c line rest
  | [] => s

/-- A CORE-scope copy's lines are freed, its requests leave the queues (R184 step 4). -/
def freeCore (s : State) (c h seq : Nat) : State :=
  let mine := (s.core c).l1Locks.filter fun k => k.holder == h && k.seq == seq
  let s := s.updCore c fun x => { x with l1Locks := (x.l1Locks.filter fun k => !(k.holder == h && k.seq == seq)).map fun k =>
    { k with waiters := k.waiters.filter fun m => match m with
        | .lock r => r.hart != h || r.seq != seq
        | _ => true } }
  mine.foldl (fun (s : State) k => s.passCore c k.line k.waiters) s

/-- A tile-atomic copy starts: it requests its first granule, or the 64-byte lines of its core; none while a CORE-scope lock or a
write-back of its core holds one of its accesses. -/
def startAtomic (s : State) (h : Nat) (t : TileRec) : Option State :=
  let c := coreOf h
  let n := t.shape.count - t.progress
  if (t.parts t.progress n).any fun p => s.wbInFlight c p.2.1 || (!t.coreScope && s.coreLocked c p.2.1 p.2.2) then none
  else
    let t := { t with phase := .running, chunk := n, locksLeft := atomicLines t }
    let s := s.setRecAt h t
    some (if t.coreScope then s.grantCore { hart := h, seq := t.seq, core := c, lines := t.locksLeft } t.locksLeft else s.sendLock h t)

/-- A tile-atomic copy that has moved all its data ends, and releases its lines granule by granule (R184 step 4). -/
def atomicFinish (s : State) (h : Nat) (t : TileRec) : State :=
  if !t.locksLeft.isEmpty || !t.out.isEmpty then s
  else
    let granules := (t.locks.map fun l => l / 8192).eraseDups
    let s := s.copyFinish h { t with locks := [] }
    if t.coreScope then s.freeCore (coreOf h) h t.seq
    else granules.foldl (fun (s : State) g =>
      s.send (.core (coreOf h)) (.stack (stackOf (8192 * g)))
        (.release { hart := h, seq := t.seq, core := coreOf h, lines := t.locks.filter fun l => l / 8192 == g })) s

/-- MACE_GRANT: a grant of a whole granule reaches its core; the next granule is requested, or the data moved (R184 steps 1 and 3). A
grant for an instruction that is gone is released at once. -/
def maceGrant (s : State) (core : Nat) : State :=
  match s.pickMsg (fun _ m => match m with
      | (.core c, .grant h q) => if c == core then some (h, q) else none
      | _ => none) with
  | none => s
  | some ((h, q), s) =>
    match (s.blkAt h).trecs.find? fun t => t.seq == q && !t.locksLeft.isEmpty with
    | some t =>
      let g := firstGranule t.locksLeft
      let t := { t with locks := t.locks ++ g, locksLeft := t.locksLeft.filter (fun l => !g.contains l) }
      if t.locksLeft.isEmpty then s.moveAtomic h t else (s.setRecAt h t).sendLock h t
    | none =>
      let mine := (s.ms.locks.filter fun l => l.holder == h && l.seq == q).map (·.line)
      match mine with
      | [] => s
      | x :: _ =>
        s.send (.core core) (.stack (stackOf x)) (.release { hart := h, seq := q, core := core, lines := mine })

/-! ## Answers (R125, R135, R159, R165, R194, R43) -/

/-- The hart of a core and its tile instruction that awaits an answer, with the request. -/
def engOf (s : State) (core id : Nat) : Option (Nat × TileRec × EngReq) :=
  s.blocks.findSome? fun (e : Nat × Block) =>
    if coreOf e.1 == core then
      e.2.trecs.findSome? fun t => (t.out.find? fun r => r.id == id).map fun r => (e.1, { t with out := t.out.filter fun r => r.id != id }, r)
    else none

/-- The value of the `i`-th access of a request with the dirty L1 bytes merged that were noted as it left, and whether what it consumes is
uncorrectable. -/
def partAnswer (r : EngReq) (i n v bad : Nat) : Nat × Bool :=
  let dm := field r.dirtyM (8 * i) 8
  (mergedValue (field r.dirtyV (64 * i) 64) dm n v, BitVec.ofNat 8 (bad % 2 ^ n) &&& ~~~(BitVec.ofNat 8 dm) != 0)

/-- An answer of a home reaches a copy: its accesses are placed, the L1 refreshed; or its AMO has set a D bit. -/
def engAnswer (s : State) (core h : Nat) (t : TileRec) (r : EngReq) (value : Part → Nat × Nat) : State :=
  if r.parts.any fun p => p.1 == 2 ^ 41 then
    let bad := r.parts.any fun p => (value p).2 != 0
    s.setRecAt h (if bad then t.uncorrAt t.xlated
      else { t with held := mapIf (fun x => x.pte == r.pa) (fun x => { x with d := true }) t.held })
  else
    let got := r.parts.zipIdx.map fun p => (p.1, partAnswer r p.2 p.1.2.2 (value p.1).1 (value p.1).2)
    let t := match got.find? (fun g => g.2.2) with
      | some g => t.uncorrAt (Part.elem g.1)
      | none => t
    let good := got.filter fun g => !g.2.2
    let s := (good.filter fun g => cacheable g.1.2.1).foldl (fun (s : State) g =>
      s.updCore core fun c => c.l1Refresh (overOf r.newer (homeAddr g.1.2.1 / 64)) g.1.2.1 g.1.2.2 (value g.1).1) s
    (s.placeParts h t (good.map fun g => (g.1, g.2.1))).setRecAt h t

/-- What the answer to a request of consecutive bytes gives for one of its accesses: value and mask of uncorrectable bytes. -/
def sliceOf (r : EngReq) (v bad : Nat) (p : Part) : Nat × Nat :=
  (field v (8 * (p.2.1 - r.pa)) (8 * p.2.2), field bad (p.2.1 - r.pa) p.2.2)

/-- The answer of a read that a copy sent to a peer; one that failed raises PERM at its first element with the peer address, uncorrectable
data UNCORR (R43, R58; log entry 87). -/
def peerAnswer (s : State) (core h : Nat) (t : TileRec) (r : EngReq) (v : Except Cause Nat) : State :=
  match v, minBy (fun (p : Part) => p.elem) r.parts with
  | .ok v, _ => s.engAnswer core h t r (sliceOf r v 0)
  | .error .uncorr, some p => s.setRecAt h (t.uncorrAt p.elem)
  | .error _, some p => s.setRecAt h (t.lowFault (t.faultAt .perm p.2.1 p.elem 0))
  | .error _, none => s.setRecAt h t

/-- RESPONSE_ARRIVAL: an answer or an acknowledgement reaches a core (R125, R198). -/
def responseStep (s : State) (core : Nat) : State :=
  match s.pickMsg (fun _ m => match m with
      | (.core c, .resp id v bad) => if c == core then some (id, some (v, bad)) else none
      | (.core c, .ack id) => if c == core then some (id, none) else none
      | _ => none) with
  | none => s
  | some ((id, some (v, bad)), s) =>
    match s.loadOf core id with
    | some (h, p) => s.loadAnswer core h p v bad
    | none =>
      match s.engOf core id with
      | some (h, t, r) => s.engAnswer core h t r (sliceOf r v bad)
      | none => s.acked_ core id
  | some ((id, none), s) =>
    match s.engOf core id with
    | some (h, t, _) => s.setRecAt h t
    | none => s.acked_ core id

/-- GATHER_RESULT: the result of a gather, or the completion of a scatter, reaches its core (R165 step 5, R208). -/
def gatherResult (s : State) (core : Nat) : State :=
  match s.pickMsg (fun _ m => match m with
      | (.core c, .gatherDone g) => if c == core then some g else none
      | _ => none) with
  | none => s
  | some (g, s) =>
    match s.loadOf core g.id with
    | some (h, p) => s.gatherLoad core h p g
    | none =>
      match s.engOf core g.id with
      | none => s.acked_ core g.id
      | some (h, t, r) =>
        if g.write then s.setRecAt h t
        else
          let t := match g.bad with
            | some e => t.uncorrAt (e % 2 ^ 40)
            | none => t
          s.engAnswer core h t r fun p => (((g.elems.find? fun x => x.1 == p.1).map (·.2.2)).getD 0, 0)

end State

def execMaceGrant (core : Nat) (s : State) : Out := .next (s.maceGrant core)
def execResponseArrival (core : Nat) (s : State) : Out := .next (s.responseStep core)
def execGatherResult (core : Nat) (s : State) : Out := .next (s.gatherResult core)

end Sys2Proof.Machine
end

