-- ==== Sys2Proof/Machine/TileEngine.lean ====
section
/-! DEFINITION. The engines of a core: which micro-operation starts, what its end performs, retirement, tile traps, streams of
the cluster tile network and Saffron carries (spec 06 R127 to R147; spec 05 R113; spec 16 R433 to R435; spec 17 R437 to R440). -/

namespace Sys2Proof.Machine

namespace TileRec

/-- Whether a running micro-operation occupies its engine: one that waits for a partner or an answer does not (R435, R439). -/
def holds (t : TileRec) : Bool :=
  match t.ins with
  | .trecv _ | .tchain _ | .tsend _ | .tmcast _ | .cinit _ => false
  | _ => true

/-- An instruction of K-steps. -/
def isMma (t : TileRec) : Bool :=
  match t.ins with
  | .tmma _ | .tmmas _ | .tmmaq _ => true
  | _ => false

/-- The record of the `i`-th source. -/
def srcShape (t : TileRec) (i : Nat) : Shape := ((t.src[i]?).map (·.rcd)).getD 0

/-- The elements or steps of an instruction; 0 where it has no point but its end (R270). -/
def total (t : TileRec) (m : MatIn) : Nat :=
  match t.ins with
  | .tmma _ | .tmmas _ | .tmmaq _ => m.steps
  | .tscan f | .tscanc f => (if scanCol f then t.shape.cols else t.shape.rows) * t.len
  | .tzero f => if 48 ≤ f.td.toNat then 0 else t.shape.count
  | .textv _ => ((t.xv[0]?).getD 0).toNat
  | .taccl _ | .topa _ | .tfree _ | .cpass _ | .cinit _ => 0
  | .text _ => t.shape.count
  | _ => if t.isCopy then t.shape.count else if engineOf t.ins == some .lane then t.laneTotal else t.shape.count

/-- The source elements that element or step `e` reads: source, row, column. -/
def uses (t : TileRec) (m : MatIn) (e : Nat) : List (Nat × Nat × Nat) :=
  let d : Shape := (t.dst.head?.map (·.rcd)).getD (t.srcShape 0)
  let r := e / d.stored
  let c := e % d.stored
  let at_ := fun (i : Nat) => ((t.xv[i]?).getD 0).toNat
  let line := fun (col : Bool) => if col then (e % t.len, e / t.len) else (e / t.len, e % t.len)
  match t.ins with
  | .tmma _ | .tmmas _ | .tmmaq _ =>
    let ks := ((List.range m.da.rows).map fun i => m.dense i e).eraseDups
    ((List.range m.da.rows).map fun i => (0, i, e)) ++ (ks.flatMap fun k => (List.range m.db.cols).map fun j => (1, k, j)) ++
      (if m.meta?.isSome then (List.range m.da.rows).map fun i => (2, i, e / 2) else [])
  | .tmap _ | .tew _ =>
    (List.range t.src.length).map fun i =>
      (i, if (t.srcShape i).rows = 1 then 0 else r, if (t.srcShape i).cols = 1 then 0 else c)
  | .ttrn _ => [(0, c, r)]
  | .tscale _ => (if d.kax then blockCells d c (r / 128) else blockCells d r (c / 128)).map fun x => (0, x.1, x.2)
  | .tpacksMeta _ => [(0, r, 2 * c), (0, r, 2 * c + 1)]
  | .tpacksSel _ => ((List.range 4).map fun i => (0, r, 4 * (c / 2) + i)) ++ [(1, r, c / 2)]
  | .tred _ => [(0, e / (t.srcShape 0).cols, e % (t.srcShape 0).cols)]
  | .trowv f => if t.rowActive f.mode e then [(0, t.len, at_ 0 + e)] else []
  | .tscan f | .tscanc f =>
    let x := line (scanCol f)
    (0, x.1, x.2) :: (if scanOp f = 4 then [(1, x.1, x.2)] else [])
  | .tcvt _ | .tplane _ | .tplaneRw _ | .taccl _ | .tst _ | .tsta _ | .tscat _ | .tsend _ | .tmcast _ => [(0, r, c)]
  | _ => []

/-- Whether a source is read only once it is whole: the metadata's scan comes first (R139), an instruction that stops nowhere reads all of
it, and the elements that an instruction keeps are copied. -/
def whole (t : TileRec) (i : Nat) : Bool :=
  match t.ins with
  | .tmmas _ | .taccl _ | .tsta _ | .tvrow _ => true
  | .tscan f | .tscanc f => (if scanOp f = 4 then 2 else 1) ≤ i
  | _ => false

/-- Whether the instruction keeps elements of a source: the last content of its destination (R408, R437). -/
def keeps (t : TileRec) (i : Nat) : Bool :=
  match t.ins with
  | .tvrow _ => true
  | .tscan _ | .tscanc _ => t.whole i
  | _ => false

/-- The tile names of the sources. -/
def srcNames (t : TileRec) : List Nat := t.names.drop t.dst.length

/-- A TPROBE whose translation has begun: it stops only at its completion (R270). -/
def begun (t : TileRec) : Bool := t.isProbe && t.phase == .queued && t.fault.isNone && !t.faultPassed && t.xlated != 0

/-- Elements of one element group: 16 × p with p = 64 ÷ width (R126). -/
def perGroup (w : Nat) : Nat := 16 * (64 / w)

/-- Whether an instruction that is not at its end may stop before element or step `e` (R270). -/
def mayStop (t : TileRec) (m : MatIn) (e : Nat) : Bool :=
  match t.ins with
  | .tmma _ | .tmmaq _ => e % m.groupSteps == 0
  | .tmmas _ => true
  | .text _ => e % t.shape.cols == 0
  | .tred f =>
    let a := t.srcShape 0
    e % perGroup a.bits == 0 && (if f.mode = 1 then e % a.cols == 0 && e / a.cols % 64 == 0 else e % a.cols % 64 == 0)
  | .tscan _ | .tscanc _ => e % t.len % 64 == 0
  | .textv _ => false
  | .trowv _ => e % perGroup (t.srcShape 0).bits == 0
  | _ => engineOf t.ins == some .lane && e % perGroup t.shape.bits == 0

end TileRec

namespace Block

/-- A freeze or a pre-emption is asked: the block's micro-operations stop (R280, R271). -/
def frozen (b : Block) : Bool := b.ctl.haltstat.getLsbD 4 || b.stop != 0

/-- The SLIP bound of a copy-in (R128). -/
def slipOk (b : Block) (t : TileRec) : Bool :=
  let o := b.live.find? fun u => match engineOf u.ins with
    | some .matrix | some .lane | some .scan => true
    | _ => false
  match o with
  | some u => t.seq - u.seq ≤ b.slip
  | none => true

/-- Every older instruction of the block has passed its fault point (R133). -/
def olderPassed (b : Block) (t : TileRec) : Bool := b.live.all fun u => t.seq ≤ u.seq || u.faultPassed

/-- Every older micro-operation of the block in the same queue has started (R127): finished, or waiting for a partner. -/
def olderStarted (b : Block) (t : TileRec) : Bool :=
  b.live.all fun u => t.seq ≤ u.seq || engineOf u.ins != engineOf t.ins || u.phase == .finished || (!u.holds && u.phase != .queued)

end Block

namespace State

/-- The sources of an instruction with their contents. -/
def sourcesOf (s : State) (h : Nat) (t : TileRec) : List (TSrc × Nat) :=
  t.src.map fun x => (x, ((s.slot (coreOf h) x.slot).map (·.content)).getD 0)

/-- Whether the producer of a slot has finished (R131). -/
def slotFilled (s : State) (h id : Nat) : Bool := ((s.slot (coreOf h) id).map (·.filled)).getD true

/-- Whether a record may start a micro-operation as far as its block, its slots and its sources go. -/
def startable (s : State) (h : Nat) (t : TileRec) : Bool :=
  let b := s.blkAt h
  !b.frozen && t.phase == .queued && (t.fault.isNone || t.isCopy || t.isMma) && b.olderStarted t && (!heldByOlder t.ins || b.olderPassed t) &&
    t.dst.all (fun d => s.slotPlaced h d.slot) && (engineOf t.ins != some .copyIn || b.slipOk t) &&
    t.src.zipIdx.all fun x => s.slotFilled h x.1.slot || (!t.whole x.2 && ((s.slot (coreOf h) x.1.slot).bind (·.prog)).isSome)

/-- The operands of a matrix instruction with their contents. -/
def matIn (s : State) (h : Nat) (t : TileRec) : MatIn :=
  let z : TSrc × Nat := ({ slot := 0, rcd := 0, off := 0 }, 0)
  let xs := s.sourcesOf h t
  let a := xs.getD 0 z
  let b := xs.getD 1 z
  { da := a.1.rcd, xa := a.2, db := b.1.rcd, xb := b.2, offb := b.1.off
    meta? := (xs[2]?).map fun m => (m.1.rcd, m.2, m.1.off) }

/-- The bits of a source's slot that have not arrived: under TCHAIN all beyond the groups that have (R131, R147). -/
def missing (s : State) (h : Nat) (x : TSrc) : Nat :=
  match s.slot (coreOf h) x.slot with
  | some y =>
    if y.filled then 0
    else (2 ^ (32768 * y.units.length) - 1) >>> (512 * y.prog.getD 0) <<< (512 * y.prog.getD 0)
  | none => 0

/-- Whether an element of a source, or its scale, has one of some bits of its slot. -/
def touches (x : TSrc) (bits r c : Nat) : Bool :=
  let d : Shape := x.rcd
  slotElem d bits x.off r c != 0 || (hasScales d && slotScale d bits r c != 0)

/-- The first source element of element or step `e` of an instruction that has one of some bits of its slot, by source. -/
def usesAny (t : TileRec) (m : MatIn) (bits : List Nat) (e : Nat) : Option (Nat × Nat × Nat) :=
  (t.uses m e).find? fun u => match t.src[u.1]? with
    | some x => touches x ((bits[u.1]?).getD 0) u.2.1 u.2.2
    | none => false

/-- The elements or steps of an instruction, from the first, of which every operand is there (R131, R147). -/
def avail (s : State) (h : Nat) (t : TileRec) : Nat :=
  let m := s.matIn h t
  let n := t.total m
  let bits := t.src.map (s.missing h)
  if bits.all (· == 0) then n
  else t.progress + (((List.range (n - t.progress)).map (t.progress + ·)).takeWhile fun e => (usesAny t m bits e).isNone).length

/-- Where a micro-operation over `n` elements ends, 0 for all that it can cover: the first point of R270 at or behind them whose operands
are there, else the last; none when there is none. -/
def chunkEnd (s : State) (h : Nat) (t : TileRec) (n : Nat) : Option Nat :=
  let m := s.matIn h t
  let total := t.total m
  let have_ := s.avail h t
  if total ≤ t.progress || (n = 0 && total ≤ have_) then some total
  else
    let stops := ((List.range (have_ - t.progress)).map (t.progress + 1 + ·)).filter fun e => e = total || t.mayStop m e
    if n = 0 then stops.getLast? else (stops.find? fun e => t.progress + n ≤ e).or stops.getLast?

/-- Gives a valueless bit of a slot a free value for good (log entry 4). -/
def settle (s : State) (c id : Nat) : State :=
  match s.slot c id with
  | some x =>
    if x.undef = 0 then s
    else
      let n := cdiv (bitLen x.undef) 64
      { s.updSlot c id (fun y => { y with
          content := (x.content - (x.content &&& x.undef)) ||| (freeBits s.free n &&& x.undef), undef := 0 }) with free := s.free + n }
  | none => s

/-! ## Starting (R127) -/

/-- Starts a copy over `n` elements, 0 for all that are translated; none when it has none (R132, R147, R425). -/
def startCopy (s : State) (h : Nat) (t : TileRec) (n : Nat) : Option State :=
  let total := t.shape.count
  let seen := if t.faultPassed then total else t.xlated
  let seen := if t.isOut then min seen (s.avail h t) else seen
  let last := min seen (limitOf t total)
  if total ≤ t.progress then some (s.copyEnd h { t with faultPassed := true } t.progress)
  else if last ≤ t.progress then none
  else
    let g := t.shape.grain
    let stop := if n = 0 then last else min last (cdiv (t.progress + n) g * g)
    s.copyStart h t (stop - t.progress)

/-- Starts an instruction of K-steps: TMMAS first scans its metadata from the group of its first step (R139, R389). -/
def startMma (s : State) (h : Nat) (t : TileRec) (n : Nat) : Option State :=
  let m := s.matIn h t
  let scan := match t.ins with
    | .tmmas _ => !t.faultPassed && t.fault.isNone
    | _ => false
  let t : TileRec := if scan then
      match m.badGroup (t.progress / 2) with
      | some (g, i) =>
        { t with fault := some { cause := .sparsemeta, tile := some (t.names.getLastD 0), row := i, col := 4 * g, estart := 2 * g } }
      | none => { t with faultPassed := true }
    else t
  let last := limitOf t m.steps
  if last ≤ t.progress then
    if t.fault.isSome then (if scan then some (s.setRecAt h { t with progress := last }) else none)
    else some (s.setRecAt h { t with phase := .finished })
  else
    (s.chunkEnd h t n).map fun e => s.setRecAt h { t with phase := .running, chunk := min e last - t.progress }

/-- Whether a lane micro-operation finds a group: a free one, lent or not, or one of its own block (R113). -/
def laneGroup (s : State) (h : Nat) : Bool :=
  let b := s.blkAt h
  !(s.freeGroups (coreOf h)).isEmpty || !b.groups.isEmpty

/-- The streams of a send (R433): one to each position, which carry the whole content; no position ends it at once. -/
def startSend (s : State) (h : Nat) (t : TileRec) : State :=
  match t.src with
  | [] => s
  | x :: _ =>
    let s := s.settle (coreOf h) x.slot
    let b := s.blkAt h
    let d : Shape := x.rcd
    let head := [d.fmt, d.layout, d.group, (if d.sp then 1 else 0), (if d.kax then 1 else 0)]
    let new := (t.xv.zipIdx).map fun (p, i) =>
      ({ id := s.nextStream + i, gang := b.gang, src := b.gangPos, dst := p.toNat, ch := t.chSeq, header := head
         bytes := d.content, content := 0, arrived := 0, headerSeen := false, receiver := none } : Stream)
    let s := { s with streams := s.streams ++ new, nextStream := s.nextStream + new.length }
    s.setRecAt h { t with streams := new.map (·.id), phase := if new.isEmpty then .finished else .running }

/-- Whether a carry-in is there, or none is needed (R439). -/
def carryHere (b : Block) (t : TileRec) : Bool :=
  match b.chain with
  | some c => c.pos == 0 || c.carries.any fun k => k.1 == t.chSeq
  | none => true

/-- The first element or step of a micro-operation that reads uncorrectable data, and what an instruction keeps of its destination's last
content counts as read: UNCORR with the tile's name and the element (R58, R135). -/
def flawIn (s : State) (h : Nat) (t : TileRec) : Option FaultRec :=
  let bits := t.src.map fun x => ((s.slot (coreOf h) x.slot).map (·.bad)).getD 0
  if bits.all (· == 0) then none
  else
    let m := s.matIn h t
    let n := if t.total m = 0 then t.shape.count else t.total m
    let fault := fun (e : Nat) (u : Nat × Nat × Nat) => ({ cause := .uncorr, tile := (t.srcNames[u.1]?), row := u.2.1, col := u.2.2, estart := e } : FaultRec)
    let kept := t.src.zipIdx.findSome? fun x =>
      if t.keeps x.2 && t.progress = 0 then
        (Shape.cells x.1.rcd).findSome? fun rc => if touches x.1 ((bits[x.2]?).getD 0) rc.1 rc.2 then some (fault 0 (x.2, rc.1, rc.2)) else none
      else none
    kept.or (((List.range (t.upTo n - t.progress)).map (t.progress + ·)).findSome? fun e => (usesAny t m bits e).map (fault e))

/-- Starts the micro-operation of a record that may start; none when it cannot yet. -/
def startRec (s : State) (h : Nat) (t : TileRec) (n : Nat) : Option State :=
  let b := s.blkAt h
  let run := some (s.setRecAt h { t with phase := .running })
  let chunk := (s.chunkEnd h t n).map fun e => s.setRecAt h { t with phase := .running, chunk := e - t.progress }
  match t.ins with
  | .tld _ | .tgath _ => s.startCopy h t n
  | .tst _ | .tscat _ =>
    match s.flawIn h t with
    | some r => some (s.setRecAt h { t with fault := some r })
    | none => s.startCopy h t n
  | .tlda _ | .tsta _ =>
    if t.shape.count ≤ t.progress then some (s.copyEnd h { t with faultPassed := true } t.progress)
    else if t.faultPassed && t.fault.isNone then
      match if t.isOut then s.flawIn h t else none with
      | some r => some (s.setRecAt h { t with fault := some r })
      | none => s.startAtomic h t
    else none
  | .tprobe _ => none
  | .tsend _ | .tmcast _ =>
    match s.flawIn h t with
    | some r => some (s.setRecAt h { t with fault := some r })
    | none => some (s.startSend h t)
  | .tmma _ | .tmmas _ | .tmmaq _ => s.startMma h t n
  | .tscanc _ => if carryHere b t then chunk else none
  | .cpass _ => if carryHere b t then run else none
  | .cinit _ =>
    if t.fault.isSome then none
    else match b.chain with
      | some c => if b.olderPassed t && c.next ≤ c.done then run else none
      | none => if b.olderPassed t then run else none
  | .trecv _ | .tchain _ => run
  | i => if engineOf i == some .lane && !s.laneGroup h then none else chunk

/-- The records of a core that may start in a queue: each block's first, the oldest accepted first. -/
def starters (s : State) (c : Nat) (q : EngineQ) : List (Nat × TileRec) :=
  let all := (s.blocksOf c).flatMap fun e => (e.2.live.filter fun t => engineOf t.ins == some q && s.startable e.1 t).map fun t => (e.1, t)
  all.mergeSort fun x y => x.2.stamp ≤ y.2.stamp

/-- Whether an engine of a core runs a micro-operation. -/
def engineBusy (s : State) (c : Nat) (q : EngineQ) : Bool :=
  (s.blocksOf c).any fun e => e.2.trecs.any fun t => engineOf t.ins == some q && t.phase == .running && t.holds

/-- MICRO_OP_START: the oldest micro-operation of a queue whose operands are ready starts, over `n` elements or K-steps (R127).
One that finds no lane group asks for a shrink (R113, R114). -/
def microOpStart (s : State) (c : Nat) (q : EngineQ) (n : Nat) : State :=
  if s.engineBusy c q then s
  else
    let l := s.starters c q
    match l.findSome? fun x => s.startRec x.1 x.2 n with
    | some s => if q = .lane then s.updCore c fun k => { k with laneWait := false } else s
    | none =>
      if q = .lane && l.any (fun x => !s.laneGroup x.1) then (s.updCore c fun k => { k with laneWait := true }).shrink c none else s

/-! ## Finishing -/

/-- Ends a record's work with flags. -/
def doneRec (s : State) (h : Nat) (t : TileRec) (f : Flags) : State :=
  s.setRecAt h { t with phase := .finished, chunk := 0, flags := t.flags ||| f, vdst := none }

/-- The contents of a record's destination slots. -/
def oldContents (s : State) (h : Nat) (t : TileRec) : List Nat :=
  t.dst.map fun d => ((s.slot (coreOf h) d.slot).map (·.content)).getD 0

/-- A micro-operation has written its record's destinations up to element `e` of `n`: the last one fills them and ends the instruction, any
other leaves it in its queue with what it keeps (R270). -/
def wroteTo (s : State) (h : Nat) (t : TileRec) (e n : Nat) (l segs : List (Nat × Nat)) (f : Flags) : State :=
  if n ≤ e then
    ((t.dst.zip l).foldl (fun (s : State) x => s.fillSlot (coreOf h) x.1.slot x.2.1 x.2.2) s).doneRec h t f
  else
    ((t.dst.zip l).foldl (fun (s : State) x => s.updSlot (coreOf h) x.1.slot fun y => { y with content := x.2.1 }) s).setRecAt h
      { t with progress := e, chunk := 0, phase := .queued, flags := t.flags ||| f, segs := segs }

/-- Writes the V register that a tile instruction names (R376). -/
def writeTileV (s : State) (h : Nat) (t : TileRec) (v : BitVec 8192) : State :=
  match t.vdst with
  | some r => s.onHart h fun s => s.writeV r v
  | none => s

/-- The end of a lane micro-operation: its elements, whatever group ran them (R148, R270, R397 to R409). -/
def finishLane (s : State) (h : Nat) (t : TileRec) : State :=
  let b := s.blkAt h
  let xs := s.sourcesOf h t
  let undef := ((t.src.head?.bind fun x => s.slot (coreOf h) x.slot).map (·.undef)).getD 0
  let r := laneWork t xs undef (s.oldContents h t) (match t.vdst with
    | some v => b.getV v
    | none => 0)
  let s := match r.v with
    | some v => s.writeTileV h t v
    | none => s
  s.wroteTo h t (t.upTo t.laneTotal) t.laneTotal r.slots r.segs r.flags

/-- A matrix micro-operation's effect (R387 to R395). -/
def finishMatrix (s : State) (h : Nat) (t : TileRec) : State :=
  let b := s.blkAt h
  let acc := t.names.getLastD 0
  let region := (b.region t.seq acc).getD
    { rcd := 0, empty := true, rect := (0, 0, 0, 0), rows := 0, cols := 0, elems := [], aov := false }
  let put := fun (s : State) (a : AName) => s.updBlkAt h fun b => b.setRegion t.seq acc a
  let xs := s.sourcesOf h t
  let x := xs.headD ({ slot := 0, rcd := 0, off := 0 }, 0)
  let isF := region.fmt == 0x20
  match t.ins with
  | .tmma _ | .tmmas _ | .tmmaq _ =>
    let m := s.matIn h t
    let (a, part, f) := m.run t.progress t.chunk region t.part
    let p := t.progress + t.chunk
    (put s a).setRecAt h { t with
      progress := p, chunk := 0, part := part, flags := t.flags ||| f, phase := if m.steps ≤ p then .finished else .queued }
  | .topa f =>
    if 0 < t.progress then s.doneRec h t 0 else
    let (a, fl) := topaRun f.aux.toNat t.len f.mode t.mask ((t.vv[0]?).getD 0) ((t.vv[1]?).getD 0) region
    (put s a).doneRec h t fl
  | .tzero _ =>
    (put s { region with elems := region.elems.take t.progress ++ (region.elems.drop t.progress).map (fun _ => 0), aov := false }).doneRec h t 0
  | .tfree _ => (s.updBlkAt h fun b => { b with freeing := b.freeing.filter fun y => y.1 != t.seq }).doneRec h t 0
  | .taccl _ =>
    let d : Shape := x.1.rcd
    let el := (List.range (region.elems.length - t.progress)).map fun j =>
      let i := t.progress + j
      BitVec.ofNat 96 (accLoad d x.2 x.1.off (i / region.cols) (i % region.cols))
    (put s { region with elems := region.elems.take t.progress ++ el, aov := false }).doneRec h t 0
  | .text f =>
    let d : Shape := (t.dst.head?.map (·.rcd)).getD 0
    let r := buildTile (t.window d) ((s.oldContents h t).headD 0) d fun r c =>
      extract isF d.fmt (t.rnd f.mode (cellIdx d r c)) ((region.elems[r * region.cols + c]?).getD 0).toNat
    s.wroteTo h t (t.upTo d.count) d.count [(r.1, gapBits d)] [] r.2
  | .textv f =>
    let w := fmtBits f.aux.toNat
    let n := ((t.xv[0]?).getD 0).toNat
    let r := ((List.range n).drop t.progress).foldl (fun (y : BitVec 8192 × Flags) e =>
      let z := extract isF f.aux.toNat (t.rnd f.mode e) ((region.elems[t.len * region.cols + e]?).getD 0).toNat
      (vSet y.1 w e z.1, y.2 ||| z.2)) (b.getV (f.td.setWidth 5), 0)
    (s.writeTileV h t r.1).doneRec h t r.2
  | _ => s

/-- Sends a packet to the next position of the chain (R439). -/
def sendCarry (s : State) (h : Nat) (t : TileRec) (l : List ScanVal) : State :=
  let b := s.blkAt h
  match b.chain with
  | some c =>
    if c.pos + 1 < c.len then
      { s with carries := s.carries ++ [{ launch := b.launch, key := c.key, pos := c.pos + 1, seq := t.chSeq, carries := l }] }
    else s
  | none => s

/-- The carries that packet k brought; none at position 0. -/
def carryIn (b : Block) (t : TileRec) : Option (List ScanVal) :=
  match b.chain with
  | some c => if c.pos = 0 then none else (c.carries.find? fun k => k.1 == t.chSeq).map (·.2)
  | none => none

/-- The end of a scan micro-operation: the scan of every line, with the carry that came in, and the packet that goes on (R141 to R144,
R436, R437, R439). -/
def finishScan (s : State) (h : Nat) (t : TileRec) : State :=
  let b := s.blkAt h
  let scan := fun (f : FmtT) (carry : Bool) =>
    let xs := s.sourcesOf h t
    let d : Shape := match t.dst with
      | y :: _ => y.rcd
      | [] => (t.src.head?.map (·.rcd)).getD 0
    let prev := xs.getD (if scanOp f = 4 then 2 else 1) ({ slot := 0, rcd := 0, off := 0 }, 0)
    let old := if 0 < t.progress then (s.oldContents h t).headD 0
      else if t.len < (if scanCol f then d.rows else d.cols) then prev.2 else 0
    let r := scanWork t f d xs old (if carry then carryIn b t else none)
    let n := (if scanCol f then d.cols else d.rows) * t.len
    let e := t.upTo n
    let s := if carry && n ≤ e then s.sendCarry h t r.carries else s
    s.wroteTo h t e n [(r.content, gapBits d ||| scaleMask d)] r.carries r.flags
  match t.ins with
  | .tscan f => scan f false
  | .tscanc f => scan f true
  | .cpass f =>
    let n := (b.chain.map (·.lines)).getD 0
    (s.sendCarry h t ((carryIn b t).getD (List.replicate n (scanIdentity (scanOp f))))).doneRec h t 0
  | _ => s

/-- MICRO_OP_FINISH: the running micro-operation of a queue performs its effect, unless a source holds uncorrectable data (R58). -/
def microOpFinish (s : State) (c : Nat) (q : EngineQ) : State :=
  let run := (s.blocksOf c).findSome? fun e =>
    (e.2.trecs.find? fun t => engineOf t.ins == some q && t.phase == .running && t.holds).map fun t => (e.1, t)
  match run with
  | none => s
  | some (h, t) =>
    match if t.isCopy then none else s.flawIn h t with
    | some r => s.setRecAt h { t with fault := some r, phase := .queued, chunk := 0 }
    | none =>
    match q with
    | .copyIn | .copyOut => if t.isAtomic then s.atomicFinish h t else s.copyFinish h t
    | .matrix => s.finishMatrix h t
    | .lane => s.finishLane h t
    | .scan => s.finishScan h t

/-! ## Translation and allocation -/

/-- COPY_TRANSLATE_PAGE: the oldest copy of the block that has pages to translate takes one step; copy-ins need SLIP and a
slot (R128, R468), copy-outs R133. A TPROBE that has begun is completed even where the block is to stop (R270). -/
def copyTranslate (s : State) (h : Nat) : State :=
  let b := s.blkAt h
  let first := fun (q : EngineQ) => b.live.find? fun t =>
    (!b.frozen || t.begun) && engineOf t.ins == some q && !t.faultPassed && (t.isCopy || t.isProbe)
  let ready := fun (t : TileRec) =>
    t.fault.isNone && t.phase == .queued &&
      (if engineOf t.ins == some .copyIn then b.slipOk t && t.dst.all fun d => s.slotPlaced h d.slot else b.olderPassed t)
  match ((first .copyIn).toList ++ (first .copyOut).toList).filter ready with
  | [] => s
  | l =>
    match minBy (fun (t : TileRec) => t.seq) l with
    | some t => if t.isProbe then s.translateProbe h t else s.translateCopy h t
    | none => s

/-- TILE_ACCEPT: the oldest destination without units takes them once R129 allows it; it holds the copy-ins behind it (R128, R468). -/
def tileAccept (s : State) (h : Nat) : State :=
  let want := (s.blkAt h).live.flatMap fun t => (t.dst.filter fun d => !s.slotPlaced h d.slot).map fun d => (t, d)
  (want.head?.bind fun x => s.placeSlot h x.2 (engineOf x.1.ins == some .copyIn)).getD s

/-! ## Retirement and traps (R127, R134) -/

/-- A waiting CBAR whose completion has reached the block completes (R440). -/
def wakeCbar (s : State) (h : Nat) : State :=
  match (s.blkAt h).wait, (s.blkAt h).chain with
  | some (.cbar n), some c => if n < c.done then s.onHart h fun s => s.finishOp else s
  | _, _ => s

/-- The chain after its block retires instruction k: the packet is consumed, and at the last position completion k starts
back (R439, R440). -/
def retireCarry (s : State) (h k : Nat) : State :=
  let b := s.blkAt h
  match b.chain with
  | none => s
  | some c =>
    let c := { c with carries := c.carries.filter fun x => x.1 != k, consumed := k + 1 }
    if c.pos + 1 = c.len then
      let s := s.setBlkAt h { b with chain := some { c with done := max c.done (k + 1) } }
      let s := if c.pos = 0 then s
        else { s with completions := s.completions ++ [{ launch := b.launch, key := c.key, pos := c.pos - 1, seq := k, carries := [] }] }
      s.wakeCbar h
    else s.setBlkAt h { b with chain := some c }

/-- TILE_RETIRE: the oldest tile instruction of a block, whose work is done, retires. -/
def tileRetire (s : State) (h : Nat) : State :=
  match s.oldestRec h with
  | none => s
  | some t =>
    if t.phase != .finished || t.fault.isSome then s
    else
      let s := s.onHart h fun s => s.setFlags t.flags
      let s := match t.emptyBit with
        | some e => s.updBlkAt h fun b =>
          { b with ctl := { b.ctl with vstat := (b.ctl.vstat &&& ~~~(1 : Word)) ||| (if e then 1 else 0) } }
        | none => s
      let s := s.updBlkAt h fun b => { b with trecs := b.trecs.filter fun u => u.seq != t.seq }
      let s := match t.ins with
        | .tscanc _ | .cpass _ => s.retireCarry h t.chSeq
        | .trecv _ | .tchain _ => { s with streams := s.streams.filter fun x => !t.streams.contains x.id }
        | _ => s
      s.sweep h

/-- Ends a sender's work once all its streams have been taken (R435). -/
def endSend (s : State) (gang pos : Nat) : State :=
  match (s.gangOf gang).bind fun g => (g.members[pos]?).join with
  | some h =>
    let left := fun (t : TileRec) => s.streams.any fun x => t.streams.contains x.id && x.arrived < cdiv x.bytes 64
    s.updBlkAt h fun b => { b with trecs := b.trecs.map fun t => match t.ins with
      | .tsend _ | .tmcast _ => if t.phase == .running && !left t then { t with phase := .finished } else t
      | _ => t }
  | none => s

/-- A stream whose header did not match is consumed and discarded (R434). -/
def consume (s : State) (id : Nat) : State :=
  match s.streams.find? fun x => x.id == id with
  | some x =>
    let s := { s with streams := mapIf (fun y => y.id == id) (fun y => { y with sent := cdiv y.bytes 64, arrived := cdiv y.bytes 64 }) s.streams }
    let s := s.endSend x.gang x.src
    { s with streams := s.streams.filter fun y => y.id != id }
  | none => s

/-- The record of a faulting instruction as the handler finds it: parked, reading nothing, holding nothing (R267). -/
def TileRec.park (t : TileRec) : TileRec :=
  { t with phase := .parked, fault := none, src := [], held := [], out := [], xdst := none, vdst := none, streams := [], chunk := 0 }

/-- A trap leaves no copy of the hart waiting for a walk: what walks gave its copies goes, and walks under way no longer
answer them. -/
def forgetWalks (s : State) (h : Nat) : State :=
  (s.setMs fun ms =>
    { ms with misses := ms.misses.map fun m => { m with waiters := m.waiters.filter fun w => w != engineWaiter h } }).updBlkAt h
    fun b => { b with ebuf := [] }

/-- The oldest tile instruction of a hart whose fault is due: the hart is neither halted nor stopped, the elements below the fault have been
performed, and no access of it or of a tile-atomic copy is under way (R134, R279, R271). -/
def trapDue (s : State) (h : Nat) : Option (TileRec × FaultRec) :=
  let b := s.blkAt h
  (s.oldestRec h).bind fun t => t.fault.bind fun r =>
    if b.ctl.haltstat.getLsbD 0 || b.stop != 0 || t.phase == .running || t.progress < r.estart || !t.out.isEmpty ||
        b.live.any (fun u => u.isAtomic && u.phase == .running) then none
    else some (t, r)

/-- TILE_TRAP_TAKEN: the fault of the oldest tile instruction is taken: younger work is discarded, a trap that enters the
handler parks the instruction, one that is escalated aborts the launch (R134, R135, R267). -/
def tileTrapTaken (s : State) (h : Nat) : State :=
  match s.trapDue h with
  | none => s
  | some (t, r) =>
        let s := (s.discardYounger h t.seq).forgetWalks h
        let s := t.streams.foldl (fun s id => s.consume id) s
        let s := if t.refused then s.updBlkAt h fun b => { b with trecs := b.trecs.filter fun u => u.seq != t.seq }
          else s.setRecAt h (TileRec.park t)
        s.onHart h fun s => (s.updBlk fun b => { b with pc := t.pc, rep := none }).takeTrap r t.lit

/-! ## Streams (R433 to R435) -/

/-- The hart of a gang position. -/
def memberHart (s : State) (gang pos : Nat) : Option Nat := (s.gangOf gang).bind fun g => (g.members[pos]?).join

/-- The receiving instruction that a channel serves: the oldest that has started and has no stream. -/
def receiverOn (b : Block) (ch : Nat) : Option TileRec :=
  b.live.find? fun t => match t.ins with
    | .trecv _ | .tchain _ => t.chSeq == ch && t.streams.isEmpty && t.phase == .running && t.fault.isNone
    | _ => false

/-- The header that an instruction's own record gives (R433). -/
def ownHeader (d : Shape) : List Nat := [d.fmt, d.layout, d.group, (if d.sp then 1 else 0), (if d.kax then 1 else 0)]

/-- The receiver of a stream with all its groups ends: the slot is filled and a TCHAIN's binding ends (R434, R435). -/
def endReceive (s : State) (h : Nat) (t : TileRec) : State :=
  match t.dst with
  | d :: _ =>
    let x := ((s.slot (coreOf h) d.slot).map (·.content)).getD 0
    let s := s.fillSlot (coreOf h) d.slot x 0
    let s := s.updBlkAt h fun b => match b.tname d.name with
      | some n => if n.chain = some t.seq then b.setTname d.name { n with chain := none } else b
      | none => b
    s.setRecAt h { t with phase := .finished }
  | [] => s

/-- STREAM_HEADER_ARRIVAL: the first unmatched stream of its triple reaches the receiving instruction that its channel
serves; a header that differs raises FORMAT there (R433, R434). -/
def streamHeader (s : State) (n : Nat) : State :=
  match s.streams.find? fun x => x.id == n with
  | none => s
  | some x =>
    let first := s.streams.find? fun y => y.gang == x.gang && y.src == x.src && y.dst == x.dst && y.ch == x.ch && y.receiver.isNone
    match s.memberHart x.gang x.dst with
    | some h =>
      match receiverOn (s.blkAt h) x.ch with
      | some t =>
        if (s.blkAt h).frozen || x.headerSeen || (first.map (·.id)) != some n || ((t.xv[0]?).getD 0).toNat != x.src then s
        else
          let s := { s with streams := mapIf (fun y => y.id == n) (fun y => { y with headerSeen := true, receiver := some t.seq }) s.streams }
          let t := { t with streams := [n] }
          if ownHeader t.shape = x.header then s.setRecAt h { t with faultPassed := true }
          else
            s.setRecAt h { t with phase := .queued, fault := some { cause := .format, tile := some t.tileNo } }
      | none => s
    | none => s

/-- The stream that a receive channel's buffer serves: the one that a receiver is taking; else that of the oldest receiving instruction
without a stream; with no such instruction the first to arrive (R433). -/
def served (s : State) (x : Stream) : Option Nat :=
  let on := s.streams.filter fun y => y.gang == x.gang && y.dst == x.dst && y.ch == x.ch && y.arrived < cdiv y.bytes 64
  match s.memberHart x.gang x.dst with
  | none => none
  | some h =>
    match on.find? (·.headerSeen) with
    | some y => some y.id
    | none =>
      let r := (s.blkAt h).live.find? fun t => match t.ins with
        | .trecv _ | .tchain _ => t.chSeq == x.ch && t.streams.isEmpty && t.fault.isNone
        | _ => false
      match r with
      | some t => (on.find? fun y => y.src == ((t.xv[0]?).getD 0).toNat).map (·.id)
      | none => ((on.find? fun y => 0 < y.sent).or on.head?).map (·.id)

/-- The next group of a stream leaves its sender for the channel buffer of 64 groups, unless that is full, another stream is served, the
sender is stopped or away, or the group has not reached its own slot (R146, R147, R433, R435). -/
def sendGroup (s : State) (x : Stream) : State :=
  match s.memberHart x.gang x.src with
  | none => s
  | some g =>
    match (s.blkAt g).live.find? fun t => t.streams.contains x.id && t.phase == .running with
    | none => s
    | some t =>
      match t.src.head?.bind fun y => (s.slot (coreOf g) y.slot).map fun z => (y, z) with
      | none => s
      | some (y, z) =>
        if g == awayHart || (s.blkAt g).frozen || s.served x != some x.id || cdiv x.bytes 64 ≤ x.sent || x.arrived + 64 ≤ x.sent ||
            (!z.filled && z.prog.getD 0 ≤ x.sent) then s
        else
          let w := min 512 (8 * x.bytes - 512 * x.sent)
          { s with streams := mapIf (fun y => y.id == x.id) (fun u => { u with
              sent := u.sent + 1, content := setField u.content (512 * u.sent) w (field z.content (y.off + 512 * u.sent) w) }) s.streams }

/-- STREAM_GROUP_ARRIVAL: the next 64-byte group of a stream leaves its sender; the next in the channel buffer reaches the slot of the
receiver, if it takes the stream; what exceeds the slot is discarded (R146, R147, R434). -/
def streamGroup (s : State) (n : Nat) : State :=
  let s := match s.streams.find? fun x => x.id == n with
    | some x => s.sendGroup x
    | none => s
  match s.streams.find? fun x => x.id == n with
  | none => s
  | some x =>
    match s.memberHart x.gang x.dst with
    | none => s
    | some h =>
      match (s.blkAt h).live.find? fun t => t.streams.contains n && t.faultPassed && t.phase == .running && some t.seq == x.receiver with
      | none => s
      | some t =>
        let groups := cdiv x.bytes 64
        if x.sent ≤ x.arrived || (s.blkAt h).frozen then s
        else
          let len := min x.bytes t.shape.content
          let lo := min len (64 * x.arrived)
          let hi := min len (64 * x.arrived + 64)
          let s := match t.dst with
            | d :: _ => s.updSlot (coreOf h) d.slot fun y =>
              { y with content := setField y.content (8 * lo) (8 * (hi - lo)) (field x.content (8 * lo) (8 * (hi - lo)))
                       prog := y.prog.map fun _ => min (x.arrived + 1) (cdiv len 64) }
            | [] => s
          let s := { s with streams := mapIf (fun y => y.id == n) (fun y => { y with arrived := y.arrived + 1 }) s.streams }
          if x.arrived + 1 = groups then (s.endReceive h t).endSend x.gang x.src else s

/-! ## Saffron (R142, R143, R438 to R440) -/

/-- The placed block of a launch at a position of a chain. -/
def chainMember (s : State) (launch key pos : Nat) : Option Nat :=
  s.blocks.findSome? fun (e : Nat × Block) =>
    match e.2.chain with
    | some c => if e.2.placed && e.2.launch == launch && c.key == key && c.pos == pos then some e.1 else none
    | none => none

/-- SAFFRON_CARRY_ARRIVAL: the n-th packet on the network reaches its member, after every earlier one of the member; it waits
while the member is away (R142, R143). -/
def carryArrival (s : State) (n : Nat) : State :=
  match s.carries[n]? with
  | none => s
  | some k =>
    let earlier := (s.carries.take n).any fun x => x.launch == k.launch && x.key == k.key && x.pos == k.pos
    match s.chainMember k.launch k.key k.pos with
    | some h =>
      if earlier then s
      else
        { s with carries := dropAt s.carries n }.updBlkAt h fun b =>
          { b with chain := b.chain.map fun (c : Chain) => { c with carries := c.carries ++ [(k.seq, k.carries)] } }
    | none => s

/-- SAFFRON_COMPLETION_ARRIVAL: the n-th completion reaches its member, goes on to the one before, and ends its CBAR. -/
def completionArrival (s : State) (n : Nat) : State :=
  match s.completions[n]? with
  | none => s
  | some k =>
    let earlier := (s.completions.take n).any fun x => x.launch == k.launch && x.key == k.key && x.pos == k.pos
    match s.chainMember k.launch k.key k.pos with
    | some h =>
      if earlier then s
      else
        let on := if k.pos = 0 then [] else [{ k with pos := k.pos - 1 }]
        let s := { s with completions := dropAt s.completions n ++ on }
        let s := s.updBlkAt h fun b => { b with chain := b.chain.map fun (c : Chain) => { c with done := max c.done (k.seq + 1) } }
        s.wakeCbar h
    | none => s

/-- Whether another block of the launch, placed, suspended or saved, has a CINIT of (key, POS) in force (R438). -/
def chainTaken (s : State) (h key pos : Nat) : Bool :=
  let b := s.blkAt h
  let has := fun (x : Block) => x.launch == b.launch && (match x.chain with
    | some c => c.key == key && c.pos == pos
    | none => false)
  s.blocks.any (fun (e : Nat × Block) => e.1 != h && has e.2) || s.cp.suspended.any (fun x => has x.blk) ||
    s.cp.saved.any fun g => g.blks.any fun x => match x with
      | some y => has y.blk
      | none => false

/-- CINIT_ANSWER: the command processor answers a CINIT (R438). -/
def cinitAnswer (s : State) (h : Nat) : State :=
  let due := (s.blkAt h).live.find? fun t => t.phase == .running && (match t.ins with
    | .cinit _ => true
    | _ => false)
  match due with
  | none => s
  | some t =>
    let w := ((t.xv[0]?).getD 0).toNat
    let pos := field w 0 16
    let len := field w 16 16
    let lines := field w 32 16
    let wide := match t.ins with
      | .cinit f => f.mode.getLsbD 0
      | _ => false
    if len = 0 || lines = 0 || len ≤ pos || s.chainTaken h t.chSeq pos then
      (s.updBlkAt h fun b => { b with chain := none }).setRecAt h { t with phase := .queued, fault := some (carryFault 1) }
    else
      (s.updBlkAt h fun b => { b with chain := some { key := t.chSeq, pos := pos, len := len, lines := lines, wide := wide } }).setRecAt h
        { t with phase := .finished, faultPassed := true }

end State

/-! ## Events -/

def execTileAccept (h : Nat) (s : State) : Out := .next (s.tileAccept h)
def execMicroOpStart (core : Nat) (q : EngineQ) (n : Nat) (s : State) : Out := .next (s.microOpStart core q n)
def execMicroOpFinish (core : Nat) (q : EngineQ) (s : State) : Out := .next (s.microOpFinish core q)
def execCopyTranslatePage (h : Nat) (s : State) : Out := .next (s.copyTranslate h)
def execTileRetire (h : Nat) (s : State) : Out := .next (s.tileRetire h)
def execTileTrapTaken (h : Nat) (s : State) : Out := .next (s.tileTrapTaken h)
def execStreamHeaderArrival (n : Nat) (s : State) : Out := .next (s.streamHeader n)
def execStreamGroupArrival (n : Nat) (s : State) : Out := .next (s.streamGroup n)
def execSaffronCarryArrival (n : Nat) (s : State) : Out := .next (s.carryArrival n)
def execSaffronCompletionArrival (n : Nat) (s : State) : Out := .next (s.completionArrival n)
def execCinitAnswer (h : Nat) (s : State) : Out := .next (s.cinitAnswer h)

end Sys2Proof.Machine
end

