-- ==== Sys2Proof/Machine/Tile.lean ====
section
/-! DEFINITION. Group 6 as it issues: acceptance of the instructions that use an engine, those that retire at acceptance, and
with them VTLD, VTST, QFENCE, CBAR and ERET (spec 15 R380 to R385, R396; spec 14 R370; spec 16 R416, R429; spec 17 R440; spec 10
R268). -/

namespace Sys2Proof.Machine

/-! ## Instructions that use an engine (R127, R132, R134) -/

namespace State

/-- A check of a tile instruction failed: its trap is taken once every older tile instruction of the block has retired (R134).
An instruction with an engine joins the sequencer as refused, any other waits. -/
def tileFault (s s0 : State) (i : Instr) (lit : Option Word) (r : FaultRec) : State :=
  if s0.blk.live.isEmpty then s.takeTrap r lit.isSome else (s0.refuse i lit.isSome r).waitFor .retry

/-- Acceptance of an instruction that uses an engine, or its trap; one whose checks pass but whose operands, X registers `xs` or what `bad`
says, hold uncorrectable data raises UNCORR (R58, R266). -/
def acceptOp (s : State) (i : Instr) (lit : Option Word) (xs : List (BitVec 6)) (vs : List (BitVec 5)) (bad : State → Bool) : State :=
  if vs.any s.blk.vPending || s.blk.live.any (·.refused) then s.waitFor .retry
  else
    match s.accept i none with
    | .ok t => if s.flawedX xs || (!s.blk.sound && bad s) then s.tileFault s i lit { cause := .uncorr } else t.advance lit
    | .wait => s.waitFor .retry
    | .trap s' r => s'.tileFault s i lit r
    | .stop s' => if s'.blk.wait.isNone && !s.blk.live.isEmpty && s'.blk.ctl.haltstat == s.blk.ctl.haltstat then s.waitFor .retry else s'

end State

/-- Whether the V and M registers that a format T instruction captures hold an error in an element that it uses: TOPA its active elements
below VL, the row moves their mask and what TVROW moves (R391, R408). -/
def tileBad (i : Instr) (f : FmtT) (b : Block) (vlen : Nat → Nat) : Bool :=
  let mask := fun (n : Nat) => f.mode != 15 && (List.range n).any (b.badM f.mode.toNat)
  let act := fun (e : Nat) => f.mode == 15 || (b.getM f.mode.toNat).getLsbD e
  match i with
  | .topa f =>
    let w := fmtBits f.aux.toNat
    let n := vlen w
    mask n || (List.range n).any fun e => act e && (b.badV (f.ta.setWidth 5) w e || b.badV (f.tb.setWidth 5) w e)
  | .trowv f =>
    let d := b.shapeOf f.ta
    mask (min (d.cols - immT f) (b.vlmax d.bits))
  | .tvrow f =>
    let d := b.shapeOf f.td
    let n := min (d.cols - immT f) (b.vlmax d.bits)
    mask n || (List.range n).any fun e => act e && b.badV (f.ta.setWidth 5) d.bits e
  | _ => false

/-- Whether the layout record, up to its first element of 0, or the indexes of a gather's rows hold an error (R422, R431). -/
def copyBad (i : Instr) (f : FmtC) (b : Block) : Bool :=
  let n := match i with
    | .tgath _ | .tscat _ => (b.shapeOf f.t).rows
    | _ => (layoutDims (b.getV f.layout) 9 0).length + 1
  (List.range n).any (b.badV f.layout 64)

/-- A format T instruction that uses an engine. -/
def tileOp (i : Instr) (f : FmtT) (xs : List (BitVec 6)) (vs : List (BitVec 5)) (s : State) : Out :=
  guarded f.gm f.lit xs none (fun s => s.acceptOp i f.lit xs vs fun s => tileBad i f s.blk (s.vlen f.xs)) s

/-- A format C instruction that uses an engine: base, offset register, layout record. -/
def copyOp (i : Instr) (f : FmtC) (xs : List (BitVec 6)) (dst : Option (BitVec 6)) (s : State) : Out :=
  guarded f.gm f.lit ([f.base, f.xo] ++ xs) dst
    (fun s => s.acceptOp i f.lit ([f.base, f.xo] ++ xs) [f.layout] fun s => copyBad i f s.blk) s

def execTmma (f : FmtT) (s : State) : Out := tileOp (.tmma f) f [] [] s
def execTmmas (f : FmtT) (s : State) : Out := tileOp (.tmmas f) f [] [] s
def execTmmaq (f : FmtT) (s : State) : Out := tileOp (.tmmaq f) f [] [] s
def execTopa (f : FmtT) (s : State) : Out := tileOp (.topa f) f [f.xs] [f.ta.setWidth 5, f.tb.setWidth 5] s
def execTzero (f : FmtT) (s : State) : Out := tileOp (.tzero f) f [] [] s
def execTaccl (f : FmtT) (s : State) : Out := tileOp (.taccl f) f [] [] s
def execText (f : FmtT) (s : State) : Out := tileOp (.text f) f [] [] s
def execTextv (f : FmtT) (s : State) : Out := tileOp (.textv f) f [f.xs] [f.td.setWidth 5] s
def execTmap (f : FmtT) (s : State) : Out := tileOp (.tmap f) f [] [] s
def execTew (f : FmtT) (s : State) : Out := tileOp (.tew f) f [f.xs] [] s
def execTred (f : FmtT) (s : State) : Out := tileOp (.tred f) f [] [] s
def execTfill (f : FmtT) (s : State) : Out := tileOp (.tfill f) f [f.xs] [] s
def execTtrn (f : FmtT) (s : State) : Out := tileOp (.ttrn f) f [] [] s
def execTcvt (f : FmtT) (s : State) : Out := tileOp (.tcvt f) f [] [] s
def execTscale (f : FmtT) (s : State) : Out := tileOp (.tscale f) f [] [] s
def execTrand (f : FmtT) (s : State) : Out := tileOp (.trand f) f [] [] s
def execTplane (f : FmtT) (s : State) : Out := tileOp (.tplane f) f [] [] s
def execTplaneRw (f : FmtT) (s : State) : Out := tileOp (.tplaneRw f) f [] [] s
def execTpacksMeta (f : FmtT) (s : State) : Out := tileOp (.tpacksMeta f) f [] [] s
def execTpacksSel (f : FmtT) (s : State) : Out := tileOp (.tpacksSel f) f [] [] s
def execTrowv (f : FmtT) (s : State) : Out := tileOp (.trowv f) f [f.xs] [f.td.setWidth 5] s
def execTvrow (f : FmtT) (s : State) : Out := tileOp (.tvrow f) f [f.xs] [f.ta.setWidth 5] s
def execTld (f : FmtC) (s : State) : Out := copyOp (.tld f) f [] none s
def execTst (f : FmtC) (s : State) : Out := copyOp (.tst f) f [] none s
def execTlda (f : FmtC) (s : State) : Out := copyOp (.tlda f) f [f.token] none s
def execTsta (f : FmtC) (s : State) : Out := copyOp (.tsta f) f [f.token] none s
def execTprobe (f : FmtC) (s : State) : Out := copyOp (.tprobe f) f [] (some f.token) s
def execTgath (f : FmtC) (s : State) : Out := copyOp (.tgath f) f [] none s
def execTscat (f : FmtC) (s : State) : Out := copyOp (.tscat f) f [] none s
def execTsend (f : FmtT) (s : State) : Out := tileOp (.tsend f) f [] [] s
def execTmcast (f : FmtT) (s : State) : Out := tileOp (.tmcast f) f [f.xs] [] s
def execTrecv (f : FmtT) (s : State) : Out := tileOp (.trecv f) f [] [] s
def execTchain (f : FmtT) (s : State) : Out := tileOp (.tchain f) f [] [] s
def execTscan (f : FmtT) (s : State) : Out := tileOp (.tscan f) f [f.xs] [] s
def execTscanc (f : FmtT) (s : State) : Out := tileOp (.tscanc f) f [f.xs] [] s
def execCpass (f : FmtT) (s : State) : Out := tileOp (.cpass f) f [] [] s
def execCinit (f : FmtT) (s : State) : Out := tileOp (.cinit f) f [f.xs] [] s

/-! ## Instructions that retire at acceptance (R376) -/

/-- The frame of an instruction that retires at acceptance: every older tile instruction has passed its fault point; `check` finds
its trap, which waits until they have retired (R134); `act` is its effect. -/
def atAcceptance (gm : BitVec 4) (lit : Option Word) (xs : List (BitVec 6)) (dst : Option (BitVec 6))
    (check : State → Option FaultRec) (act : State → State) (s : State) : Out :=
  guarded gm lit xs dst (fun s =>
    if !s.blk.pastFaults || 16 ≤ s.blk.live.length then s.waitFor .retry
    else
      match (match check s with
        | some r => some r
        | none => if s.flawedX xs then some { cause := .uncorr } else none) with
      | some r => if s.blk.live.isEmpty then s.takeTrap r lit.isSome else s.waitFor .retry
      | none => act s) s

/-- TSHAPE.lo (R380). -/
def execTshapeLo (f : FmtT) (s : State) : Out :=
  atAcceptance f.gm f.lit [f.xs] none (fun _ => none) (fun s =>
    let v := s.valueT f
    (s.updBlk fun b => b.setD f.td.toNat (BitVec.ofNat 128 (setField (b.getD f.td.toNat).toNat 0 64 v.toNat))).advance f.lit) s

/-- The record that TSHAPE.hi makes. -/
def hiRecord (s : State) (f : FmtT) : Shape := BitVec.ofNat 128 (setField (s.blk.getD f.td.toNat).toNat 64 64 (s.valueT f).toNat)

/-- TSHAPE.hi (R380). -/
def execTshapeHi (f : FmtT) (s : State) : Out :=
  atAcceptance f.gm f.lit [f.xs] none
    (fun s => if Shape.bad s.blk.gen (hiRecord s f) then some (recordFault f.td.toNat) else none)
    (fun s => (s.updBlk fun b => b.setD f.td.toNat (hiRecord s f)).advance f.lit) s

namespace State

/-- The code object of the block in focus. -/
def myObj (s : State) : Option CodeObj := (s.launchOf s.blk.launch).map (·.obj)

end State

/-- The local part of an A record at a gang position: its rows and columns, none when the block holds no part (R396). -/
def localPart (d : Shape) (pos : Nat) : Option (Nat × Nat) :=
  if !d.dist then some (d.rows, d.cols)
  else
    let pr := pos / 2
    let pc := pos % 2
    if pr < cdiv d.rows 128 && pc < cdiv d.cols 320 then some (min 128 (d.rows - 128 * pr), min 320 (d.cols - 320 * pc)) else none

/-- What TDECL of a T name needs of its core: free units and slots (R129). -/
def State.reserveFits (s : State) (d : Shape) : Bool :=
  2 * d.units ≤ (s.freeUnits s.myCore s.blk.stage).length && s.slotsTaken s.myCore + 2 ≤ 128

/-- The checks of TDECL (R381, R396). -/
def declFault (f : FmtT) (s : State) : Option FaultRec :=
  let b := s.blk
  let d : Shape := b.getD f.ta.toNat
  let n := f.td.toNat
  let a := 48 ≤ n
  let distBad := d.dist && (b.packed || b.gangSize < 2 * (cdiv d.rows 128 - 1) + cdiv d.cols 320)
  let limit := match s.myObj with
    | some o => if a then o.nacc else o.ntile
    | none => 0
  firstFault
    [(d.bad b.gen || fmtAcc d.fmt != decide a || distBad, recordFault f.ta.toNat),
     ((b.tname n).isSome || (b.aname n).isSome || limit ≤ n % 48, tsFault),
     (if a then
        match localPart d b.gangPos with
        | some (r, c) => (s.freeRect s.myCore r c).isNone
        | none => false
      else !s.reserveFits d, tsFault)]

/-- The effect of TDECL: a reservation with a zeroed current slot, or an accumulator region (R381). -/
def declare (f : FmtT) (s : State) : State :=
  let b := s.blk
  let c := s.myCore
  let d : Shape := b.getD f.ta.toNat
  let n := f.td.toNat
  if 48 ≤ n then
    let part := localPart d b.gangPos
    let (r, k) := part.getD (0, 0)
    let a : AName :=
      { rcd := d, empty := part.isNone, rect := ((if part.isSome then s.freeRect c r k else none).getD (0, 0, 0, 0)), rows := r, cols := k
        elems := List.replicate (r * k) 0, aov := false }
    s.updBlk fun b => { b with anames := aset b.anames n a }
  else
    let us := s.freeUnits c b.stage
    let (id, s) := s.fresh
    let s := s.updCore c fun k =>
      { k with slots := k.slots ++ [{ id := id, state := .ready, owner := s.cur, name := n, units := us.take d.units, filled := true }] }
    s.updBlk fun b => b.setTname n { rcd := d, cur := id, resv := [(id, us.take d.units), (0, (us.drop d.units).take d.units)] }

/-- TDECL (R381). -/
def execTdecl (f : FmtT) (s : State) : Out :=
  atAcceptance f.gm f.lit [] none (declFault f) (fun s => (declare f s).advance f.lit) s

/-- Whether a name has a destination slot that still waits for its units (R129). -/
def Block.unplaced (s : State) (n : Nat) : Bool :=
  s.blk.live.any fun t => t.dst.any fun d => d.name == n && !s.slotPlaced s.cur d.slot

/-- TFREE of a T name: its current slot drains, its reservation returns once its slots are EMPTY; a view only ends (R382). -/
def freeName (n : Nat) (s : State) : State :=
  let b := s.blk
  match b.tname n with
  | none => s
  | some t =>
    let s := s.updBlk fun b => { b with tnames := adel b.tnames n }
    match t.view with
    | some _ => s.sweep s.cur
    | none =>
      let s := s.updCore s.myCore fun k =>
        { k with slots := mapIf (fun x => x.owner == s.cur && x.name == n) (fun x => { x with name := 1000 }) k.slots }
      let s := s.updSlot s.myCore t.cur fun x =>
        { x with superseded := some 0, state := if x.state == .ready then .draining else x.state }
      (s.updBlk fun b => { b with lingering := b.lingering ++ [t] }).sweep s.cur

/-- TFREE: of an A name a matrix micro-operation, of a T name at acceptance (R382). -/
def execTfree (f : FmtT) (s : State) : Out :=
  if 48 ≤ f.td.toNat then tileOp (.tfree f) f [] [] s
  else
    atAcceptance f.gm f.lit [] none
      (fun s => firstFault [(s.blk.badT f.td, tsFault), (s.blk.lateDst none f.td, tsFault)])
      (fun s => if Block.unplaced s f.td.toNat then s.waitFor .retry else (freeName f.td.toNat s).advance f.lit) s

/-- The record of a view: D[b] with the base's PITCH (R383). -/
def viewRecord (f : FmtT) (s : State) : Shape := Shape.withPitch (s.blk.getD f.tb.toNat) (Shape.pitch (s.blk.shapeOf f.ta))

/-- The checks of TVIEW (R383). -/
def viewFault (f : FmtT) (s : State) : Option FaultRec :=
  let b := s.blk
  let d := viewRecord f s
  let a := b.shapeOf f.ta
  let o := (s.getX f.xs).toNat
  let row0 := o / 2 ^ 32
  let col0 := o % 2 ^ 32
  let ntile := match s.myObj with
    | some o => o.ntile
    | none => 0
  firstFault
    [(48 ≤ f.td.toNat || b.badT f.ta, tsFault),
     (d.bad b.gen || d.fmt != a.fmt || d.layout != a.layout || d.layout == 2 || d.sp || fmtX d.fmt || fmtQI d.fmt ||
      a.rows < row0 + d.rows || a.cols < col0 + d.cols || a.bitPos row0 col0 % 8 != 0, recordFault f.tb.toNat),
     ((b.tname f.td.toNat).isSome || ntile ≤ f.td.toNat || ((b.tname f.ta.toNat).bind (·.view)).isSome, tsFault)]

/-- TVIEW (R383). -/
def execTview (f : FmtT) (s : State) : Out :=
  atAcceptance f.gm f.lit [f.xs] none (viewFault f) (fun s =>
    let o := (s.getX f.xs).toNat
    let id := ((s.blk.tname f.ta.toNat).map (·.cur)).getD 0
    (s.updBlk fun b => b.setTname f.td.toNat
      { rcd := viewRecord f s, cur := 0, resv := [], view := some { slotId := id, row0 := o / 2 ^ 32, col0 := o % 2 ^ 32 } }).advance
      f.lit) s

/-- A field that may name a T or an A tile, and names none that is declared. -/
def Block.badName (b : Block) (n : BitVec 6) : Bool := if 48 ≤ n.toNat then b.badA n else b.badT n

namespace State

/-- Whether a TWAIT is over: the slot's producer has finished, and the older instructions that it waits for have retired (R384). -/
def twaitOver (s : State) (h : Nat) (name : Option Nat) (id q : Nat) : Bool :=
  (id == 0 || s.slotFilled h id) &&
    !(s.blkAt h).live.any fun t => t.seq < q && (match name with
      | some n => t.names.contains n
      | none => true)

/-- TWAIT at acceptance: it completes, or the hart waits. -/
def twait (s : State) (name : Option Nat) (id : Nat) (lit : Option Word) : State :=
  let q := s.blk.seqNext
  if s.twaitOver s.cur name id q then s.advance lit else s.waitFor (.twait name id q)

end State

/-- TWAIT of one name (R384). -/
def execTwait (f : FmtT) (s : State) : Out :=
  atAcceptance f.gm f.lit [] none (fun s => firstFault [(s.blk.badName f.td, tsFault)]) (fun s =>
    s.twait (some f.td.toNat) (((s.blk.tsrc f.td.toNat).map (·.slot)).getD 0) f.lit) s

/-- TWAIT.all (R384). -/
def execTwaitAll (f : FmtT) (s : State) : Out :=
  atAcceptance f.gm f.lit [] none (fun _ => none) (fun s => s.twait none 0 f.lit) s

/-- TWAIT_COMPLETE: a waiting TWAIT whose condition holds completes (R384). -/
def execTwaitComplete (h : Nat) (s : State) : Out :=
  match (s.blkAt h).wait with
  | some (.twait name id q) => .next (if s.twaitOver h name id q then s.onHart h State.finishOp else s)
  | _ => .next s

/-- The value of TSTAT of a kind but .aov (R385). Bit 1 of an A name: no unfinished instruction writes it (DEDUCED, log entry 26). -/
def tstatValue (f : FmtT) (s : State) : Nat :=
  let b := s.blk
  let n := f.td.toNat
  match f.mode.toNat with
  | 0 =>
    match b.tname n, b.aname n with
    | some t, _ =>
      1 + (if s.slotFilled s.cur (((b.tsrc n).map (·.slot)).getD 0) then 2 else 0) + (if t.view.isSome then 4 else 0) +
        (if t.chain.isSome then 8 else 0)
    | none, some a =>
      1 + (if b.live.any fun t => accDest t.ins == some n && t.phase != .finished then 0 else 2) + 16 + (if a.empty then 32 else 0)
    | none, none => 0
  | 2 => (if 48 ≤ n then (b.accOf f.td).rcd else b.shapeOf f.td).toNat % 2 ^ 64
  | 3 => (if 48 ≤ n then (b.accOf f.td).rcd else b.shapeOf f.td).toNat / 2 ^ 64
  | 4 =>
    match b.tname n with
    | some t => if t.chain.isSome then ((s.slot s.myCore t.cur).bind (·.prog)).getD 0 else 0
    | none => 0
  | _ => b.live.length

/-- TSTAT (R385). -/
def execTstat (f : FmtT) (s : State) : Out :=
  atAcceptance f.gm f.lit [] (some f.xs)
    (fun s => firstFault
      [(f.mode != 0 && f.mode != 5 && s.blk.badName f.td, tsFault), (f.mode == 1 && decide (f.td.toNat < 48), tsFault)])
    (fun s =>
      if f.mode = 1 then
        if s.blk.live.any fun t => engineOf t.ins == some .matrix && t.phase != .finished then s.waitFor .retry
        else (s.writeX f.xs (if (s.blk.accOf f.td).aov then 1 else 0)).advance f.lit
      else (s.writeX f.xs (BitVec.ofNat 64 (tstatValue f s))).advance f.lit) s

/-- TUNPIN releases a token (R429). -/
def execTunpin (f : FmtC) (s : State) : Out :=
  atAcceptance f.gm f.lit [f.token] none
    (fun s =>
      let v := s.getX f.token
      if (s.blk.tokenOf v).isNone then some { cause := .token, detail := v.toNat } else none)
    (fun s =>
      let v := s.getX f.token
      (s.updBlk fun b => { b with tokens := b.tokens.filter fun k => k.value != v }).advance f.lit) s

/-- CBAR: waits for the completion of sequence number (X[xs] + imm10) mod 2^32 (R440, R144). -/
def execCbar (f : FmtT) (s : State) : Out :=
  guarded f.gm f.lit [f.xs] none (fun s =>
    let b := s.blk
    let n := (s.getX f.xs + BitVec.ofNat 64 (immT f)).toNat % 2 ^ 32
    if State.cinitDue b || 16 ≤ b.live.length || b.live.any (·.refused) then s.waitFor .retry
    else
      match b.chain with
      | none => s.tileFault s (.cbar f) f.lit (carryFault 1)
      | some c =>
        if c.next ≤ n then s.tileFault s (.cbar f) f.lit (carryFault 2)
        else if s.flawedX [f.xs] then s.tileFault s (.cbar f) f.lit { cause := .uncorr }
        else if n < c.done then s.advance f.lit
        else s.waitFor (.cbar n)) s

/-! ## VTLD and VTST (R370) -/

/-- The tile offset of element `e` of VTLD and VTST. -/
def tileOffset (f : FmtW) (s : State) (e : Nat) : Nat :=
  (BitVec.ofNat 64 (vGet (s.blk.getV f.vi) 32 e) + f.lit.getD (f.off.signExtend 64)).toNat

/-- What stops an element: ALIGN, then TILESTATE beyond the footprint, then UNCORR of the bits `bad` of the slot (R58). -/
def tileElemFault (f : FmtW) (s : State) (d : Shape) (bad : Nat) (e : Nat) : Option FaultRec :=
  let n := fmtBits f.fmt.toNat / 8
  let o := tileOffset f s e
  if o % n ≠ 0 then some { cause := .align, estart := e }
  else if d.units * 4096 < o + n then some { cause := .tilestate, estart := e }
  else if field bad (8 * o) (8 * n) ≠ 0 then some { cause := .uncorr, tile := some f.base.toNat, estart := e }
  else none

/-- The common part: registers, a declared T name (TILESTATE before LANES, R266), every older tile instruction retired, a slot of its own;
`go` performs the elements before the first that stops. -/
def vTile (f : FmtW) (reads : Bool) (go : State → Nat → List Nat → Option Nat → State) (s : State) : Out :=
  let vlw := max 32 (fmtBits f.fmt.toNat)
  if s.blk.lanes = 0 && (s.blk.tname f.base.toNat).isNone && s.regsReady [f.vl] none && !([f.vd, f.vi].any s.blk.vPending) then
    .next (s.raise .tilestate f.lit)
  else
  vecFrame f.lit [f.vl] none [f.vd, f.vi] (fun s => s.blk.firstBad f.gm (s.vlen f.vl vlw) fun e =>
      s.blk.badV f.vi 32 e || (!reads && s.blk.badV f.vd (fmtBits f.fmt.toNat) e)) (fun flaw s =>
    let b := s.blk
    if !b.live.isEmpty then s.waitFor .retry
    else
      match b.tname f.base.toNat with
      | none => s.raise .tilestate f.lit
      | some t =>
        if t.view.isSome then s.raise .tilestate f.lit
        else
          let es := s.activeList f (s.vlen f.vl vlw)
          let slotBad := if reads then ((s.slot s.myCore t.cur).map (·.bad)).getD 0 else 0
          let stop := fun (e : Nat) => match tileElemFault f s t.rcd slotBad e with
            | some r => some r
            | none => if flaw.any (· ≤ e) then some { cause := .uncorr, estart := e } else none
          let bad := match es.findSome? stop with
            | some r => some r
            | none => flaw.map fun e => ({ cause := .uncorr, estart := e } : FaultRec)
          let ok := es.takeWhile fun e => (stop e).isNone
          let s := go s t.cur ok (bad.map (·.estart))
          match bad with
          | some r => s.takeTrap r f.lit.isSome
          | none => s.advance f.lit) s

/-- VTLD: elements of the current slot; bits that no rule gives a value are free values (log entry 4). -/
def execVtld (f : FmtW) (s : State) : Out :=
  vTile f true (fun s id es stop =>
    let n := fmtBits f.fmt.toNat
    let s := s.settle s.myCore id
    let x := ((s.slot s.myCore id).map (·.content)).getD 0
    (s.writeV f.vd (es.foldl (fun v e => vSet v n e (field x (8 * tileOffset f s e) n)) (s.blk.getV f.vd)) (stop.map fun e => (e, n))).updBlk
      fun b => b.cleanV f.vd n es.contains) s

/-- Uncorrectable words of a slot after some of their bits were written: one that was not wholly written still is (R58). -/
def badWords (old left : Nat) : Nat :=
  if old = 0 then 0
  else (List.range (cdiv (bitLen old) 64)).foldl (fun x i => if field left (64 * i) 64 = 0 then x else x + (2 ^ 64 - 1) <<< (64 * i)) 0

/-- VTST writes elements of the current slot in place, in ascending order. -/
def execVtst (f : FmtW) (s : State) : Out :=
  vTile f false (fun s id es _ =>
    let n := fmtBits f.fmt.toNat
    s.updSlot s.myCore id fun x =>
      let y := es.foldl (fun (x : Slot) e =>
        let at_ := 8 * tileOffset f s e
        { x with
          content := setField x.content at_ n (vGet (s.blk.getV f.vd) n e), undef := setField x.undef at_ n 0
          bad := setField x.bad at_ n 0 }) x
      { y with bad := badWords x.bad y.bad }) s

/-! ## QFENCE (R416, R207) -/

/-- The engine queue of a bit of QFENCE's set. -/
def fenceBit : EngineQ → Nat
  | .copyIn => 0 | .copyOut => 1 | .matrix => 2 | .lane => 3 | .scan => 4

/-- Whether the block's micro-operations in the queues of a set have finished and every earlier access of the hart has been
performed (R207). -/
def State.fenced (s : State) (set : Nat) : Bool :=
  let b := s.blk
  b.sq.isEmpty && b.pend.isEmpty && b.unacked.isEmpty &&
    b.live.all fun t => match engineOf t.ins with
      | some q => t.phase == .finished || !set.testBit (fenceBit q)
      | none => true

/-- QFENCE (R416). -/
def execQfence (f : FmtM) (s : State) : Out :=
  guarded f.gm f.lit [] none (fun s => if s.fenced f.off.toNat then s.advance f.lit else s.waitFor .retry) s

/-! ## ERET (R268) -/

/-- ERET is a re-negotiation point (R114). -/
def State.eretPoint (s : State) : State := s.shrink s.myCore (some s.cur)

/-- The trace record of an ERET: TEPC (R285). -/
def State.eretTrace (s : State) (tepc : Word) : State := s.trace s.myCore 3 s.cur s.blk.pc tepc

/-- ERET with a parked instruction at TEPC: it is accepted again, and the hart goes on behind it, as TCAUSE.LIT says. While it cannot be
accepted the hart waits at the ERET. -/
def State.eretAccept (s : State) (p : TileRec) : State :=
  let b := s.blk
  let k := (s.eretTrace b.ctl.tepc).updBlk State.eretBlock
  match k.accept p.ins (some p) with
  | .ok s => (s.advance (if b.ctl.tcause.getLsbD 36 then some 0 else none)).eretPoint
  | .wait => s.waitFor .retry
  | .trap s' r => if b.live.isEmpty then s'.takeTrap r p.lit else s.waitFor .retry
  | .stop s' =>
    match s'.blk.wait with
    | some _ => s'.updBlk fun x => { x with pc := b.pc, level := b.level, estart := b.estart, skipBp := b.skipBp, skipWatch := b.skipWatch }
    | none => if b.live.isEmpty then s' else s.waitFor .retry

/-- ERET: back to K level; a parked tile instruction is accepted again when TEPC is its PC, else discarded. A TEPC that is no instruction
address raises ALIGN (R306). -/
def execEret (f : FmtY) (s : State) : Out :=
  privileged f.gm f.lit [] none (fun s =>
    let a := s.blk.ctl.tepc
    if a &&& 7 ≠ 0 then s.raiseA .align .fetch a.toNat 0 f.lit
    else
      match s.blk.parked with
      | some p => if a = p.pc then s.eretAccept p else (((s.eretTrace a).dropParked s.cur).updBlk State.eretBlock).eretPoint
      | none => ((s.eretTrace a).updBlk State.eretBlock).eretPoint) s

end Sys2Proof.Machine
end

