-- ==== Sys2Proof/Machine/Sync.lean ====
section
/-! DEFINITION. Named barriers, GSYNC and TSYNC of a gang (spec 05 R118, R119; spec 15 R386; spec 17 R442 to R444). -/

namespace Sys2Proof.Machine

/-- imm21 or the literal as a number (R309). -/
def addendQ (f : FmtQ) : Word := f.lit.getD (f.imm.setWidth 64)

namespace State

/-- A gang, placed or saved by a pre-emption. -/
def anyGang (s : State) (id : Nat) : Option Gang :=
  match s.gangOf id with
  | some g => some g
  | none => (s.cp.saved.find? fun x => x.gang.id == id).map (·.gang)

/-- Changes a gang, placed or saved. -/
def updAnyGang (s : State) (id : Nat) (f : Gang → Gang) : State :=
  (s.updGang id f).setCp fun cp =>
    { cp with saved := mapIf (fun x => x.gang.id == id) (fun x => { x with gang := f x.gang }) cp.saved }

/-- Whether a block is the member of a gang at a position. -/
def isMember (gang pos : Nat) (b : Block) : Bool := !b.child && b.gang == gang && b.gangPos == pos

/-- Changes the block at a position of a gang, on its hart, suspended or saved. -/
def updMember (s : State) (gang pos : Nat) (f : Block → Block) : State :=
  let g := fun (b : Block) => if isMember gang pos b then f b else b
  { s with
    blocks := s.blocks.map fun (e : Nat × Block) => (e.1, if e.2.placed then g e.2 else e.2)
    cp := { s.cp with
      suspended := s.cp.suspended.map fun x => { x with blk := g x.blk }
      saved := s.cp.saved.map fun x => { x with blks := x.blks.map fun b => b.map fun (y : SavedBlk) => { y with blk := g y.blk } } } }

/-- The barriers of the gang of the block in focus. -/
def nbar (s : State) : Nat := ((s.gangOf s.blk.gang).map (·.nbar)).getD 0

/-- Sends a message of the block in focus to its gang's home core (R118). -/
def sendBar (s : State) (m : BarMsg) : State :=
  { s with barMsgs := s.barMsgs ++ [{ gang := s.blk.gang, pos := s.blk.gangPos, hart := s.cur, msg := m }] }

/-- The block in focus arrives at barrier `n`. -/
def arriveAt (s : State) (n : Nat) : State :=
  (s.sendBar (.arrive n)).updBlk fun b => { b with arrivals := aset b.arrivals n false }

/-- BARRIER: a child, or a number at or above NBAR (R118, R442). -/
def barrierFault (s : State) (n : Nat) (lit : Option Word) (go : State → State) : State :=
  if s.blk.child || s.nbar ≤ n then s.raiseD .barrier n lit else go s

end State

/-- A waiting barrier instruction is a re-negotiation point (R114, R443). -/
def State.waitPoint (s : State) (w : Wait) : State := (s.waitFor w).shrink s.myCore (some s.cur)

/-- The frame of the barrier instructions. -/
def barOp (f : FmtQ) (xs : List (BitVec 6)) (go : State → State) (s : State) : Out :=
  guarded f.gm f.lit xs none (fun s => s.barrierFault f.n.toNat f.lit go) s

/-- BARINIT: the request goes to the home core, whose answer the hart awaits (R443). -/
def execBarinit (f : FmtQ) (s : State) : Out :=
  barOp f [f.a] (fun s =>
    let c := (s.getX f.a + addendQ f).toNat
    if c = 0 || 4095 < c then s.raiseD .barrier f.n.toNat f.lit
    else (s.sendBar (.init f.n.toNat c)).issueWait (.barInit f.n.toNat)) s

/-- BARARR: a release, then the arrival (R443, R205). -/
def execBararr (f : FmtQ) (s : State) : Out :=
  barOp f [] (fun s => s.afterRelease .device f.lit fun s => (s.arriveAt f.n.toNat).advance f.lit) s

/-- A BARWAIT without an arrival whose request has not reached the home, or the wait for the running phase (R443). -/
def execBarwait (f : FmtQ) (s : State) : Out :=
  barOp f [] (fun s =>
    let n := f.n.toNat
    match aget s.blk.arrivals n with
    | some true => (s.acquireAt .device).advance f.lit
    | some false => s.waitPoint (.barrier n false false none)
    | none => (s.sendBar (.ask n)).waitPoint (.barrierAsk n)) s

/-- BARSYNC: arrives, then waits (R443). -/
def execBarsync (f : FmtQ) (s : State) : Out :=
  barOp f [] (fun s => s.afterRelease .device f.lit fun s =>
    (s.arriveAt f.n.toNat).waitPoint (.barrier f.n.toNat false false none)) s

/-- BARTEST: whether the phase of the block's latest arrival has completed; then it is an acquire (R443, R205). -/
def execBartest (f : FmtQ) (s : State) : Out :=
  barOp f [] (fun s =>
    let done := (aget s.blk.arrivals f.n.toNat).getD false
    let s := s.writeP f.d.toNat done
    (if done then s.acquireAt .device else s).advance f.lit) s

/-- ELECT: BARSYNC whose completion tells the block of lowest GANGPOS among the arrivals (R443). -/
def execElect (f : FmtQ) (s : State) : Out :=
  barOp f [] (fun s => s.afterRelease .device f.lit fun s =>
    (s.arriveAt f.n.toNat).waitPoint (.barrier f.n.toNat false false (some f.d))) s

/-- GSYNC: a release, the arrival, the wait (R119). -/
def execGsync (f : FmtQ) (s : State) : Out :=
  guarded f.gm f.lit [] none (fun s =>
    if s.blk.child then s.raiseD .barrier 0 f.lit
    else s.afterRelease .device f.lit fun s =>
      let n := s.blk.gsyncs + 1
      ((s.sendBar .gsync).updBlk fun b => { b with gsyncs := n }).waitPoint (.gsync n)) s

/-- TSYNC: every older tile instruction has retired and every engine write is performed; then as GSYNC, counted apart (R386). -/
def execTsync (f : FmtT) (s : State) : Out :=
  atAcceptance f.gm f.lit [] none
    (fun s => if s.blk.child then some { cause := .barrier } else none)
    (fun s =>
      if !s.blk.live.isEmpty then s.waitFor .retry
      else s.afterRelease .device f.lit fun s =>
        let n := s.blk.tsyncs + 1
        ((s.sendBar .tsync).updBlk fun b => { b with tsyncs := n }).waitFor (.tsync n)) s

/-! ## At the home core (R442, R443) -/

namespace State

/-- Whether another arrival of a member at a barrier is still on its way. -/
def arrivalDue (s : State) (gang pos n : Nat) : Bool :=
  s.barMsgs.any fun m => m.gang == gang && m.pos == pos && m.msg == .arrive n

/-- A member after the phase that it arrived in or asked for has completed; `asked` when it only waits for it. -/
def phaseOver (n : Nat) (won asked : Bool) (b : Block) : Block :=
  let b := if asked then b else { b with arrivals := aset b.arrivals n true }
  match b.wait with
  | some (.barrier k _ _ e) => if k = n then { b with wait := some (.barrier n true won e) } else b
  | _ => b

/-- The phase of barrier `n` completes: every member that arrived in it or waits for it is told (R442). -/
def completePhase (s : State) (gang n : Nat) (x : Bar) : State :=
  let low := minBy id x.arr
  let s := x.arr.eraseDups.foldl (fun (s : State) p =>
    if s.arrivalDue gang p n then s else s.updMember gang p (phaseOver n (low == some p) false)) s
  x.asks.foldl (fun (s : State) p => s.updMember gang p (phaseOver n false true)) s

/-- Sets the wake latch of the harts that `p` picks (R349). -/
def wakeHarts (s : State) (p : Nat → Bool) : State :=
  { s with blocks := s.blocks.map fun (e : Nat × Block) => (e.1, if p e.1 then { e.2 with wake := true } else e.2) }

/-- Replaces barrier `n` of a gang. -/
def setBar (s : State) (gang n : Nat) (x : Bar) : State := s.updAnyGang gang fun g => { g with bars := g.bars.set n x }

/-- A position's count of arrivals at GSYNC or TSYNC goes up. -/
def bumpAt (l : List Nat) (p : Nat) : List Nat := l.set p ((l[p]?).getD 0 + 1)

/-- What a message does at the home core. -/
def barDeliver (s : State) (m : BarReq) : State :=
  match s.anyGang m.gang with
  | none => s
  | some g =>
    match m.msg with
    | .gsync => s.updAnyGang m.gang fun g => { g with gsync := bumpAt g.gsync m.pos }
    | .tsync => s.updAnyGang m.gang fun g => { g with tsync := bumpAt g.tsync m.pos }
    | .arrive n =>
      match g.bars[n]? with
      | none => s
      | some x =>
        let x := { x with arrived := x.arrived + 1, arr := x.arr ++ [m.pos] }
        if x.arrived = x.count then
          ((s.completePhase m.gang n x).setBar m.gang n { x with arrived := 0, phase := !x.phase, arr := [], asks := [] }).wakeHarts
            fun h => coreOf h == g.home
        else s.setBar m.gang n x
    | .ask n =>
      match g.bars[n]? with
      | none => s
      | some x =>
        (s.updMember m.gang m.pos fun b =>
          if b.wait = some (.barrierAsk n) then { b with wait := some (.barrier n false false none) } else b).setBar m.gang n
          { x with asks := x.asks ++ [m.pos] }
    | .init n c =>
      match g.bars[n]? with
      | none => s
      | some x =>
        if x.arrived ≠ 0 then
          if (s.blkAt m.hart).wait = some (.barInit n) then
            s.onHart m.hart fun s => s.raiseD .barrier n (if s.blk.pcLit then some 0 else none)
          else s
        else
          let s := s.setBar m.gang n { x with count := c }
          if (s.blkAt m.hart).wait = some (.barInit n) then s.onHart m.hart State.finishOp else s

/-- BARRIER_ARRIVAL: the n-th message on its way reaches its home core; messages of one hart keep their order (R118). -/
def barrierArrival (s : State) (n : Nat) : State :=
  match s.barMsgs[n]? with
  | none => s
  | some m =>
    if (s.barMsgs.take n).any fun x => x.gang == m.gang && x.pos == m.pos then s
    else { s with barMsgs := dropAt s.barMsgs n }.barDeliver m

/-- Whether every member of a gang that has not ended has arrived `k` times; `counts` by position (R119). -/
def allArrived (g : Gang) (counts : List Nat) (k : Nat) : Bool :=
  (g.members.zip counts).all fun x => x.1.isNone || k ≤ x.2

/-- Whether the gang of the block on hart `h` has met its `k`-th GSYNC or TSYNC. -/
def gangMet (s : State) (h : Nat) (counts : Gang → List Nat) (k : Nat) : Bool :=
  match s.anyGang (s.blkAt h).gang with
  | some g => allArrived g (counts g) k
  | none => true

/-- The waiting instruction of hart `h` completes as a DEVICE-scope acquire (R205). -/
def finishAcquire (s : State) (h : Nat) (f : State → State) : State := s.onHart h fun s => (f (s.acquireAt .device)).finishOp

/-- BARRIER_WAITER_RESUME: a BARWAIT, BARSYNC, ELECT or GSYNC whose phase or count is complete resumes. -/
def barrierResume (s : State) (h : Nat) : State :=
  match (s.blkAt h).wait with
  | some (.barrier _ true won e) =>
    s.finishAcquire h fun s => match e with
      | some d => s.writeP d.toNat won
      | none => s
  | some (.gsync k) => if s.gangMet h (·.gsync) k then s.finishAcquire h id else s
  | _ => s

/-- TSYNC_COMPLETE (R386). -/
def tsyncComplete (s : State) (h : Nat) : State :=
  match (s.blkAt h).wait with
  | some (.tsync k) => if s.gangMet h (·.tsync) k then s.finishAcquire h id else s
  | _ => s

end State

def execBarrierArrival (n : Nat) (s : State) : Out := .next (s.barrierArrival n)
def execBarrierWaiterResume (h : Nat) (s : State) : Out := .next (s.barrierResume h)
def execTsyncComplete (h : Nat) (s : State) : Out := .next (s.tsyncComplete h)

end Sys2Proof.Machine
end

