-- ==== Sys2Proof/Machine/HwQueue.lean ====
section
/-! DEFINITION. The hardware queues of a cluster, their spill rings and refills, strip tasks, stage queues and data queues (spec 05
R101 to R109; spec 17 R445 to R448, R452). -/

namespace Sys2Proof.Machine

/-! ## Ring accesses (R103) -/

namespace State

/-- A walk from level `n − 1` down, with the A and D bits of its leaf set, all in one step at the entries' homes (R173 to R176). -/
def walkFrom (s : State) (m : Miss) : Nat → State × Except Cause Xlat
  | 0 => (s, .error .xlate)
  | n + 1 =>
    let m := { m with level := n }
    let a := pteAddr m
    let e := s.ms.homeRead a 8
    if !pteThere m then (s, .error .xlate)
    else if s.ms.anyBad a 8 then (s, .error .uncorr)
    else if badPte e n then (s, .error .xlate)
    else if e.testBit 1 then
      let e' := e ||| pteBits m
      (if e' = e then s else (s.ensureLine a).homeStore a e' 0xFF 8, .ok (leafXlat m e'))
    else walkFrom s { m with table := field e 13 33 * 8192 } n

/-- A walk of a context's tables in one step, or why it fails (R173 to R176; log entry 44). -/
def walkNow (s : State) (ctx va : Nat) (write : Bool) : State × Except Cause Xlat :=
  if !canonical va then (s, .error .xlate)
  else s.walkFrom { die := 0, ctx := ctx, vpn := va % 2 ^ 53 / 8192, va := va, write := write, waiters := []
                    table := ((s.context ctx).map (·.root)).getD 0 } 4

/-- The cluster of the hart in focus. -/
def myCluster (s : State) : Nat := clusterOf s.myCore

/-- The virtual address of ring record `i` (R103). -/
def ringVa (x : HwQueue) (i : Nat) : Nat := x.qring.toNat / 64 * 64 + i % 2 ^ (x.qring.toNat % 64) * 64

/-- Whether a queue owns a ring. -/
def hasRing (x : HwQueue) : Bool := x.qring.toNat % 64 != 0

/-- A ring access of the cluster: its physical address, or the cause that it raises and the address for the fault record (R37, R43, R103,
R175, R58). -/
def ringPa (s : State) (ctx va : Nat) (write : Bool) (lvl : Level) : State × Except (Cause × Nat) Nat :=
  match s.walkNow ctx va write with
  | (s, .error c) => (s, .error (c, va))
  | (s, .ok x) =>
    let pa := x.phys va
    if !x.allows lvl (if write then .store else .load) || !paExists s.plat.scrReach pa then (s, .error (.perm, va))
    else
      match aperture pa with
      | .host a => (s, if (s.ms.hostXlat ((s.context ctx).map (·.pasid)) a).isNone then .error (.xlate, va) else .ok pa)
      | .peer off => (s, if !write && (s.fab.peerTarget off).isNone then .error (.perm, pa) else .ok pa)
      | _ => (s, if !write && s.ms.anyBad (homeAddr pa) 64 then .error (.uncorr, va) else .ok pa)

/-- Whether an access of 64 bytes has to wait at its home: a locked line, a row being copied, scratch under change (R61, R163, R185). -/
def homeBusy (s : State) (pa : Nat) : Bool := (s.ms.lockOf (lineOf (homeAddr pa))).isSome || s.held pa

/-- A record as one number and back. -/
def recVal (r : Rec) : Nat := ofLe (wordBytes r)
def valRec (v : Nat) : Rec := (List.range 8).map fun i => BitVec.ofNat 64 (v >>> (64 * i))

/-- A record of hart `h` written to ring memory; in a peer it travels as a WRITE (R39). -/
def ringWrite (s : State) (h ctx pa : Nat) (r : Rec) : State :=
  match aperture pa with
  | .host _ => s.setMs fun m => m.sysWrite ((s.context ctx).map (·.pasid)) pa (wordBytes r)
  | .peer off => s.peerWrite h pa off fun a => .write a (wordBytes r) (List.replicate 64 true)
  | _ => (s.ensureLine (homeAddr pa)).homeStore pa (recVal r) (2 ^ 64 - 1) 64

/-- The peer waiter that stands for a hardware queue, by its number. -/
def ringWaiter (cluster q : Nat) : Nat := 20000 + 64 * cluster + q

/-- A record read from ring memory; one in a peer is asked for, under a message's number. -/
def ringRead (s : State) (cluster q ctx pa : Nat) : Rec × Option Nat × State :=
  match aperture pa with
  | .host _ => (valRec (ofLe ((s.ms.sysRead ((s.context ctx).map (·.pasid)) pa 64).getD [])), none, s)
  | .peer off =>
    match s.fab.peerTarget off with
    | some (dev, a) =>
      ([], some s.fab.tags, { s with fab := s.fab.request s.plat.rank (ringWaiter cluster q) dev pa false (.read a 64) })
    | none => ([], none, s)
  | _ => let (v, s) := s.homeLoad pa 64; (valRec v, none, s)

/-! ## Pushes (R104, R105, R107) -/

/-- Where R105 sends a push. -/
inductive PushTo where
  | queue
  | ring
  /-- waits for the refill batch in flight -/
  | batch
  /-- waits under R107 -/
  | full
  deriving DecidableEq, Repr

/-- Hardware entries taken: records, and those reserved by a batch (R106). -/
def hwUsed (x : HwQueue) : Nat := x.recs.length + (x.batch.map (·.length)).getD 0

/-- R105. -/
def pushTo (x : HwQueue) : PushTo :=
  let full := 32 ≤ hwUsed x
  if x.closed then .full
  else if x.ringCount = 0 then (if !full then .queue else if hasRing x then .ring else .full)
  else if x.ringCount < 2 ^ (x.qring.toNat % 64) then .ring
  else if full then .full else .batch

/-- Whether the pushing block is the queue's only registered consumer (R107). -/
def onlyConsumer (s : State) (cluster q h : Nat) : Bool :=
  (s.blkAt h).consumers.contains q &&
    !s.blocks.any fun (e : Nat × Block) => e.1 != h && clusterOf (coreOf e.1) == cluster && e.2.placed && e.2.consumers.contains q

/-- What accepting a push gives: accepted, held, or a trap at the pushing instruction. -/
inductive PushRes where
  | ok (s : State)
  | hold
  | trap (s : State) (r : FaultRec)

/-- A queue takes a record of hart `h`, if R105 lets it. -/
def acceptPush (s : State) (cluster q h : Nat) (r : Rec) : PushRes :=
  let x := s.hwq cluster q
  match pushTo x with
  | .queue => .ok (s.setHwq cluster q { x with recs := x.recs ++ [r] })
  | .ring =>
    let va := ringVa x (x.ringHead + x.ringCount)
    let b := s.blkAt h
    match s.ringPa b.ctx va true b.level with
    | (s, .error (c, a)) => .trap s { cause := c, access := .store, va := BitVec.ofNat 64 a }
    | (s, .ok pa) =>
      if s.homeBusy pa then .hold
      else .ok ((s.ringWrite h b.ctx pa r).setHwq cluster q { x with ringCount := x.ringCount + 1 })
  | .batch | .full => .hold

/-- A push that was accepted completes its instruction and wakes the cluster (R349). -/
def pushDone (s : State) (cluster h : Nat) : State :=
  (s.onHart h State.finishOp).wakeHarts fun k => clusterOf (coreOf k) == cluster

/-- Raises a trap at the waiting instruction of hart `h`. -/
def trapWaiting (s : State) (h : Nat) (r : FaultRec) : State := s.onHart h fun s => s.takeTrap r s.blk.pcLit

/-- Whether a push of hart `h` may arrive now: the pushes that arrive in one ck do so in ascending global hart number (R104). -/
def mayArrive (s : State) (x : HwQueue) (h : Nat) : Bool := x.lastCk != s.ck || x.lastHart ≤ h

/-- QUEUE_PUSH_ACCEPT: the n-th push on its way reaches its queue: taken, held behind those that wait, or QDEADLOCK. -/
def pushArrive (s : State) (n : Nat) : State :=
  match s.pushes[n]?.filter fun p => s.mayArrive (s.hwq p.cluster p.q) p.hart with
  | none => s
  | some p =>
    let x := { s.hwq p.cluster p.q with lastCk := s.ck, lastHart := p.hart }
    let s := { s with pushes := dropAt s.pushes n }.setHwq p.cluster p.q x
    let hold := fun (s : State) =>
      let x := s.hwq p.cluster p.q
      s.setHwq p.cluster p.q { x with waitPush := x.waitPush ++ [(p.hart, p.rcd)] }
    if !x.waitPush.isEmpty then
      if pushTo x == .full && s.onlyConsumer p.cluster p.q p.hart then s.trapWaiting p.hart { cause := .qdeadlock, detail := p.q } else hold s
    else
      match s.acceptPush p.cluster p.q p.hart p.rcd with
      | .ok s => s.pushDone p.cluster p.hart
      | .trap s r => s.trapWaiting p.hart r
      | .hold =>
        if pushTo x == .full && s.onlyConsumer p.cluster p.q p.hart then s.trapWaiting p.hart { cause := .qdeadlock, detail := p.q }
        else hold s

/-- QUEUE_WAIT_PUSH_SERVED: the oldest waiting push enters (R107). -/
def pushServe (s : State) (cluster q : Nat) : State :=
  let x := s.hwq cluster q
  match x.waitPush with
  | [] => s
  | (h, r) :: t =>
    match (s.setHwq cluster q { x with waitPush := t }).acceptPush cluster q h r with
    | .ok s => s.pushDone cluster h
    | .trap s r => s.trapWaiting h r
    | .hold => s

/-! ## Refills (R106) -/

/-- The records a batch would take now. -/
def batchSize (x : HwQueue) : Nat := min 8 (min (32 - hwUsed x) x.ringCount)

/-- The context that a cluster's queues belong to (R96). -/
def clusterCtxOf (s : State) (cluster : Nat) : Nat := (aget s.cp.clusterCtx cluster).getD 0

/-- Reads ring records `i` and on, with the messages of those that a peer has to send; none when one does not translate or has to wait. -/
def batchRead (s : State) (cluster q : Nat) (x : HwQueue) : Nat → Nat → Option (List (Rec × Option Nat) × State)
  | _, 0 => some ([], s)
  | i, n + 1 =>
    match s.ringPa (s.clusterCtxOf cluster) (ringVa x i) false .k with
    | (s, .ok pa) =>
      if s.homeBusy pa then none
      else
        let (r, tag, s) := s.ringRead cluster q (s.clusterCtxOf cluster) pa
        (batchRead s cluster q x (i + 1) n).map fun y => ((r, tag) :: y.1, y.2)
    | _ => none

/-- REFILL_BATCH_START. -/
def refillStart (s : State) (cluster q : Nat) : State :=
  let x := s.hwq cluster q
  if x.ringCount = 0 || x.batch.isSome || batchSize x = 0 then s
  else
    match s.batchRead cluster q x x.ringHead (batchSize x) with
    | some (rs, s) =>
      s.setHwq cluster q { x with
        batch := some (rs.map (·.1)), batchAt := s.ck, batchTags := rs.zipIdx.filterMap fun r => r.1.2.map fun t => (t, r.2) }
    | none => s

/-- A peer's answer to a refill: the record, or the failure that the next pop raises (R43). -/
def ringAnswer (s : State) (cluster q tag addr : Nat) (v : Except Cause Nat) : State :=
  let x := s.hwq cluster q
  match x.batchTags.find? (fun t => t.1 == tag), v with
  | some (_, i), .ok v =>
    s.setHwq cluster q { x with batchTags := x.batchTags.filter (fun t => t.1 != tag), batch := x.batch.map fun rs => rs.set i (valRec v) }
  | some _, .error c => s.setHwq cluster q { x with batchTags := [], batch := none, batchBad := some (c, addr) }
  | none, _ => s

/-- REFILL_BATCH_LAND: the batch enters behind every record, and leaves the ring. -/
def refillLand (s : State) (cluster q : Nat) : State :=
  let x := s.hwq cluster q
  match if x.batchTags.isEmpty then x.batch else none with
  | none => s
  | some rs =>
    s.setHwq cluster q { x with
      recs := x.recs ++ rs, batch := none, ringHead := x.ringHead + rs.length, ringCount := x.ringCount - rs.length }

/-- The fault of the refill that a pop would start, or of the one that failed: a ring page that does not translate, a peer that refused,
uncorrectable data (R43, R58, R103). -/
def refillFault (s : State) (x : HwQueue) : Option FaultRec :=
  let fault := fun (c : Cause × Nat) => ({ cause := c.1, access := .load, va := BitVec.ofNat 64 c.2 } : FaultRec)
  if x.ringCount = 0 || x.batch.isSome then none
  else if x.batchBad.isSome then x.batchBad.map fault
  else
    (List.range (min 8 x.ringCount)).findSome? fun i =>
      match (s.ringPa s.blk.ctx (ringVa x (x.ringHead + i)) false s.blk.level).2 with
      | .error c => some (fault c)
      | .ok _ => none

/-- A failed refill has been raised: the next may start. -/
def refillRaised (s : State) (cluster q : Nat) : State := s.setHwq cluster q { s.hwq cluster q with batchBad := none }

/-! ## Pops (R446) -/

/-- The block in focus is a registered consumer of a queue (R107). -/
def registerConsumer (s : State) (q : Nat) : State :=
  s.updBlk fun b => if b.consumers.contains q then b else { b with consumers := b.consumers ++ [q] }

/-- Writes a record to X[r] to X[r + 7]; a popped record is an acquire and resets the previous grant (R104, R448). -/
def takeRecord (s : State) (r : BitVec 6) (x : Rec) : State :=
  let s := (x.zipIdx).foldl (fun (s : State) w => s.writeX (r + BitVec.ofNat 6 w.2) w.1) s
  (s.acquireAt .device).updBlk fun b => { b with stripPrev := 0 }

/-- Takes the oldest record of a queue. -/
def popQueue (s : State) (cluster q : Nat) : Option (Rec × State) :=
  let x := s.hwq cluster q
  match x.recs with
  | [] => none
  | r :: t => some (r, s.setHwq cluster q { x with recs := t })

/-- QUEUE_WAIT_POP_SERVED: the first hart that waits for a record of the queue takes one; an STGGET on a closed, empty queue
completes without (R101, R452). -/
def popServe (s : State) (cluster q : Nat) : State :=
  let x := s.hwq cluster q
  match x.waitPop with
  | [] => s
  | h :: t =>
    match (s.blkAt h).wait with
    | some (.pop _ r p) =>
      let note := fun (v : Bool) (s : State) => match p with
        | some p => s.writeP p.toNat v
        | none => s
      let s' := s.setHwq cluster q { x with waitPop := t }
      match s'.popQueue cluster q with
      | some (v, s'') =>
        match (s.focus h).refillFault x with
        | some f => (s'.refillRaised cluster q).trapWaiting h f
        | none => s''.onHart h fun s => (note true (s.takeRecord r v)).finishOp
      | none => if x.closed && p.isSome && x.ringCount = 0 then s'.onHart h fun s => (note false s).finishOp else s
    | _ => s.setHwq cluster q { x with waitPop := t }

end State

/-- The registers of a record field. -/
def recRegs (r : BitVec 6) : List (BitVec 6) := (List.range 8).map fun i => r + BitVec.ofNat 6 i

/-- The end of a pop with a predicate. -/
def notePred (p : Option (BitVec 6)) (v : Bool) (s : State) : State :=
  match p with
  | some p => s.writeP p.toNat v
  | none => s

/-- Pops a record when one is there and no hart is in line; a closed, empty queue gives none to an STGGET; else the hart joins the
queue's line. -/
def popWait (s : State) (q : Nat) (r : BitVec 6) (p : Option (BitVec 6)) (lit : Option Word) : State :=
  let c := s.myCluster
  let x := s.hwq c q
  let s := s.registerConsumer q
  if x.waitPop.isEmpty && !x.recs.isEmpty then
    match s.refillFault x, s.popQueue c q with
    | some f, _ => (s.refillRaised c q).takeTrap f lit.isSome
    | none, some (v, s) => (notePred p true (s.takeRecord r v)).advance lit
    | none, none => s
  else if x.waitPop.isEmpty && x.closed && p.isSome && x.ringCount = 0 then (notePred p false s).advance lit
  else (s.setHwq c q { x with waitPop := x.waitPop ++ [s.cur] }).waitFor (.pop q r p)

/-- The frame of an instruction that writes a record. -/
def recDest (f : FmtQ) (r : BitVec 6) (body : State → State) (s : State) : Out :=
  guarded f.gm f.lit [] none (fun s => if (recRegs r).any s.xPending then s.waitFor .retry else body s) s

/-- QPOP (R446). -/
def execQpop (f : FmtQ) (s : State) : Out := recDest f f.d (fun s => popWait s f.n.toNat f.d none f.lit) s

/-- QTRY: never waits for a record; harts in line go first (R446). -/
def execQtry (f : FmtQ) (s : State) : Out :=
  recDest f f.d (fun s =>
    let c := s.myCluster
    let q := f.n.toNat
    let x := s.hwq c q
    if !x.waitPop.isEmpty && !x.recs.isEmpty then s.waitFor .retry
    else
      let s := s.registerConsumer q
      match s.popQueue c q with
      | some (v, s') =>
        match s.refillFault x with
        | some r => (s.refillRaised c q).takeTrap r f.lit.isSome
        | none => ((s'.takeRecord f.d v).writeP f.b.toNat true).advance f.lit
      | none => (s.writeP f.b.toNat false).advance f.lit) s

/-- QTAKE: up to m records into the elements of a V register (R446). -/
def execQtake (f : FmtQ) (s : State) : Out :=
  guarded f.gm f.lit [] (some f.a) (fun s =>
    let b := s.blk
    let c := s.myCluster
    let q := f.n.toNat
    let v : BitVec 5 := f.d.setWidth 5
    let x := s.hwq c q
    if b.vPending v || (!x.waitPop.isEmpty && !x.recs.isEmpty) then s.waitFor .retry
    else if b.lanes = 0 then s.raise .lanes f.lit
    else
      let k := min (addendQ f).toNat (min x.recs.length (b.lanes / 8))
      match if k = 0 then none else s.refillFault x with
      | some r => (s.refillRaised c q).takeTrap r f.lit.isSome
      | none =>
        let s := (s.registerConsumer q).setHwq c q { x with recs := x.recs.drop k }
        let put := fun (y : BitVec 8192) (e : Rec × Nat) => (e.1.zipIdx).foldl (fun y w => vSet y 64 (8 * e.2 + w.2) w.1.toNat) y
        let s := s.writeV v (((x.recs.take k).zipIdx).foldl put (b.getV v))
        let s := if k = 0 then s else (s.acquireAt .device).updBlk fun b => { b with stripPrev := 0 }
        (s.writeX f.a (BitVec.ofNat 64 k)).advance f.lit) s

/-- QCNT (R446, R106). -/
def execQcnt (f : FmtQ) (s : State) : Out :=
  guarded f.gm f.lit [] (some f.d) (fun s =>
    let x := s.hwq s.myCluster f.n.toNat
    (s.writeX f.d (BitVec.ofNat 64 (x.recs.length + x.ringCount))).advance f.lit) s

/-- A push: a DEVICE-scope release, then the record goes to its queue and the hart waits until it is accepted (R104). -/
def pushRecord (s : State) (q : Nat) (r : BitVec 6) (lit : Option Word) : State :=
  s.afterRelease .device lit fun s =>
    let p : Push := { cluster := s.myCluster, q := q, hart := s.cur, rcd := (recRegs r).map s.getX }
    { s with pushes := s.pushes ++ [p] }.waitFor (.push q)

/-- QPUSH (R446). -/
def execQpush (f : FmtQ) (s : State) : Out := guarded f.gm f.lit (recRegs f.a) none (fun s => pushRecord s f.n.toNat f.a f.lit) s

/-- The size field of stream `n` of a strip record's word 6 (R108). -/
def stripSize (w6 : Word) (n : Nat) : Nat := field w6.toNat (16 * n) 16

/-- Whether a size is one that a stream may have. -/
def sizeOk (z : Nat) : Bool := z == 0 || z == 1 || z == 2 || z == 4 || z == 8

/-- SPAWN: QPUSH of a strip-task record after its checks (R447). -/
def execSpawn (f : FmtQ) (s : State) : Out :=
  guarded f.gm f.lit (recRegs f.a) none (fun s =>
    let w := fun (i : Nat) => s.getX (f.a + BitVec.ofNat 6 i)
    let bad := (w 0).toNat % 8 != 0 || (List.range 4).any fun n =>
      let z := stripSize (w 6) n
      !sizeOk z || (z != 0 && (w (2 + n)).toNat % z != 0)
    if bad then s.raise .align f.lit else pushRecord s f.n.toNat f.a f.lit) s

/-- STRIP (R109, R448). -/
def execStrip (f : FmtQ) (s : State) : Out :=
  let regs := (List.range 7).map fun i => BitVec.ofNat 6 (16 + i)
  guarded f.gm f.lit regs (some f.d) (fun s =>
    let b := s.blk
    let sizes := (List.range 4).map (stripSize (b.getX 22))
    if b.lanes = 0 then s.raise .lanes f.lit
    else if sizes.any fun z => !sizeOk z then s.raise .align f.lit
    else if regs.any fun r => r != 16 && r != 22 && s.xPending r then s.waitFor .retry
    else
      let w := let m := sizes.foldl max 0; if m = 0 then 8 else m
      let g := min (b.getX 17).toNat (b.lanes * 8 / w)
      let s := s.updBlk fun b =>
        { (sizes.zipIdx).foldl (fun (b : Block) z =>
            let r := BitVec.ofNat 6 (18 + z.2)
            b.setX r (b.getX r + BitVec.ofNat 64 (g * z.1))) (b.setX 17 (b.getX 17 - BitVec.ofNat 64 g)) with
          ctl := { b.ctl with stripb := b.ctl.stripb + BitVec.ofNat 64 b.stripPrev }, stripPrev := g }
      ((s.writeX f.d (BitVec.ofNat 64 g)).writeP f.b.toNat (0 < g)).advance f.lit) s

/-! ## Stage queues (R452) -/

/-- The stages of the launch of the block in focus. -/
def State.myStages (s : State) : Nat := ((s.launchOf s.blk.launch).map (·.stages)).getD 1

/-- STGPUT pushes to queue 56 + STAGE; in the last stage it raises QDEADLOCK. -/
def execStgput (f : FmtQ) (s : State) : Out :=
  guarded f.gm f.lit (recRegs f.a) none (fun s =>
    let q := 56 + s.blk.stage
    if s.myStages ≤ s.blk.stage + 1 then s.raiseD .qdeadlock q f.lit else pushRecord s q f.a f.lit) s

/-- STGGET pops from queue 55 + STAGE; in stage 0 it raises QDEADLOCK. -/
def execStgget (f : FmtQ) (s : State) : Out :=
  recDest f f.d (fun s =>
    let q := 55 + s.blk.stage
    if s.blk.stage = 0 then s.raiseD .qdeadlock q f.lit else popWait s q f.d (some f.b) f.lit) s

/-- The launches with more than `n` stages that have blocks on a cluster: its stage queues are theirs (R100). -/
def State.pipelines (s : State) (cluster n : Nat) : List Launch :=
  s.cp.launches.filter fun l => n < l.stages && s.blocks.any fun (e : Nat × Block) =>
    e.2.placed && e.2.launch == l.id && clusterOf (coreOf e.1) == cluster

/-- Whether stage queue `q` of a cluster closes: no block of its stage, of a launch that uses the queue, is there or will be: a new one, a
child, one restored or resumed (R101). -/
def State.stageEnds (s : State) (cluster q : Nat) : Bool :=
  let st := q - 56
  let ls := s.pipelines cluster (st + 1)
  let mine := fun (b : Block) => b.stage == st && ls.any fun l => l.id == b.launch
  56 ≤ q && q < 63 && (s.hwq cluster q).closed == false && !ls.isEmpty &&
    !s.blocks.any (fun (e : Nat × Block) => e.2.placed && clusterOf (coreOf e.1) == cluster && mine e.2) &&
    !s.cp.saved.any (fun g => g.blks.any fun b => match b with
      | some b => mine b.blk
      | none => false) &&
    !s.cp.suspended.any (fun x => mine x.blk) && !s.cp.children.any (fun k => k.stage == st && ls.any fun l => l.id == k.launch) &&
    (if st = 0 then ls.all fun l => l.aborted || l.gx * l.gy * l.gz ≤ l.nextGang else (s.hwq cluster (q - 1)).closed)

/-- STAGE_QUEUE_CLOSE (R101). -/
def execStageQueueClose (cluster q : Nat) (s : State) : Out :=
  .next (if s.stageEnds cluster q then s.setHwq cluster q { s.hwq cluster q with closed := true } else s)

def execQueuePushAccept (n : Nat) (s : State) : Out := .next (s.pushArrive n)
def execQueueWaitPushServed (cluster q : Nat) (s : State) : Out := .next (s.pushServe cluster q)
def execQueueWaitPopServed (cluster q : Nat) (s : State) : Out := .next (s.popServe cluster q)
def execRefillBatchStart (cluster q : Nat) (s : State) : Out := .next (s.refillStart cluster q)
def execRefillBatchLand (cluster q : Nat) (s : State) : Out := .next (s.refillLand cluster q)

/-! ## Data queues (R155, R445) -/

/-- QBIND: binds X60 to X63 to a data queue of a FIFO bank; TILESTATE when the bank is not in FIFO mode, the queue is another
block's, or the register is bound. -/
def execQbind (f : FmtQ) (s : State) : Out :=
  guarded f.gm f.lit [] none (fun s =>
    let q := (addendQ f).toNat
    let r := f.d.toNat - 60
    let x := s.dataq q
    let free := match x.bound with
      | some h => h == s.cur
      | none => true
    let mode := ((s.core s.myCore).banks[q / 4]?).getD .cache
    if s.xPending f.d then s.waitFor .retry
    else if mode ≠ .fifo || !free || (s.blk.boundTo f.d).isSome then s.raise .tilestate f.lit
    else
      let keep := x.owner == some s.cur
      ((s.setDataq q { bound := some s.cur, owner := some s.cur, entries := if keep then x.entries else [] }).updBlk fun b =>
        { b with fifo := b.fifo.setIfInBounds r (some q) }).advance f.lit) s

/-- QBIND with bit 0 of n11: unbinds; the entries stay for a later binding of the block. -/
def execQbindUnbind (f : FmtQ) (s : State) : Out :=
  guarded f.gm f.lit [] none (fun s =>
    if s.xPending f.d || s.pushesDue f.d ≠ 0 then s.waitFor .retry
    else
      let s := match s.blk.boundTo f.d with
        | some q => s.setDataq q { s.dataq q with bound := none }
        | none => s
      (s.updBlk fun b => { b with fifo := b.fifo.setIfInBounds (f.d.toNat - 60) none }).advance f.lit) s

end Sys2Proof.Machine
end

