-- ==== Sys2Proof/Machine/Tasks.lean ====
section
/-! DEFINITION. Where blocks go and how they start, suspend, resume and end: free harts, placement, FORK, SYNC, TASKEND, EXIT (spec 04
R77, R78; spec 05 R95 to R99, R110 to R112; spec 13 R347; spec 17 R449 to R451). -/

namespace Sys2Proof.Machine

/-! ## Free harts and clusters (R96 to R99) -/

namespace State

/-- A hart that a block may be placed on: its core works, it holds no block, and it is kept for no parent (R112). -/
def hartFree (s : State) (h : Nat) : Bool :=
  !(s.core (coreOf h)).failed && !(s.blkAt h).placed && !s.cp.resumes.any fun r => !r.inplace && r.hart == h

/-- The free harts of a core, ascending. -/
def freeHarts (s : State) (c : Nat) : List Nat := ((List.range 8).map fun k => 8 * c + k).filter s.hartFree

/-- The cores of a cluster. -/
def clusterCores (cl : Nat) : List Nat := (List.range 8).map fun k => 8 * cl + k

/-- The free harts of a cluster. -/
def clusterFree (s : State) (cl : Nat) : Nat := (clusterCores cl).foldl (fun n c => n + (s.freeHarts c).length) 0

/-- A cluster on a die that DIES permits, serving the context or released (R76, R96, R99). -/
def serves (s : State) (ctx dies cl : Nat) : Bool :=
  (dies == 0 || dies == 1 + cl / 10) && (match aget s.cp.clusterCtx cl with
    | some c => c == ctx
    | none => true)

/-- The free stack areas of a launch, ascending, as the addresses of their bases (R77). -/
def freeAreas (l : Launch) : List Nat :=
  ((List.range l.areas).filter fun a => !l.areasUsed.contains a).map fun a => l.stackBase + a * l.areaBytes

/-- The named barriers in use on a home core (R118). -/
def barriersUsed (s : State) (c : Nat) : Nat := (s.cp.gangs.filter fun g => g.home == c).foldl (fun n g => n + g.nbar) 0

end State

/-- The `n` entries of a list that come first under a key. -/
def pickLeast {α : Type} (key : α → Nat) : Nat → List α → List α
  | 0, _ => []
  | n + 1, l =>
    match firstIdx (fun x => l.all fun y => key x ≤ key y) l with
    | some i => (l[i]?).toList ++ pickLeast key n (dropAt l i)
    | none => []

namespace State

/-- The harts that a gang takes on a cluster, by position: spread or packed (R97); none when it does not fit. -/
def gangHarts (s : State) (cl n : Nat) (packed : Bool) : Option (List Nat) :=
  let cores := clusterCores cl
  let count := fun (c : Nat) => (s.freeHarts c).length
  if packed then
    (minBy (fun c => 8 - count c) (cores.filter fun c => n ≤ count c)).map fun c => (s.freeHarts c).take n
  else
    let got := pickLeast (fun c => 8 - count c) n (cores.filter fun c => 0 < count c)
    if got.length < n then none else some ((cores.filter got.contains).filterMap fun c => (s.freeHarts c).head?)

/-- Whether the cluster can take a gang, and the harts (R96, R97). -/
def gangFits (s : State) (l : Launch) (cl n : Nat) (packed : Bool) : Option (List Nat) :=
  if s.serves l.ctx l.dies cl && n ≤ (freeAreas l).length then
    (s.gangHarts cl n packed).bind fun hs =>
      if s.barriersUsed (coreOf (hs.headD 0)) + l.obj.nbar ≤ 2048 then some hs else none
  else none

/-- The cluster with the most free harts among those that can take a gang, the lower number first (R97). -/
def bestCluster (s : State) (cls : List Nat) (fits : Nat → Option (List Nat)) : Option (Nat × List Nat) :=
  (minBy (fun (x : Nat × List Nat) => 64 - s.clusterFree x.1) (cls.filterMap fun cl => (fits cl).map fun hs => (cl, hs)))

/-! ## The start of a block (R78, R289, R449) -/

/-- The instruction fetch of a core forgets the range from the load address to the end of TEXT (R78). -/
def dropText (s : State) (c : Nat) (l : Launch) : State :=
  match l.obj.sections[0]? with
  | some (off, size) =>
    s.updCore c fun k => { k with icache := k.icache.filter fun x =>
      !(x.ctx == l.ctx && (l.obj.base % 2 ^ 53) / 64 ≤ x.vline && x.vline * 64 < l.obj.base % 2 ^ 53 + off + size) }
  | none => s

/-- A launch comes to a core that holds no block of it (R78, R93). -/
def comeTo (s : State) (c launch : Nat) : State :=
  match s.launchOf launch with
  | some l =>
    if s.blocks.any (fun (e : Nat × Block) => coreOf e.1 == c && e.2.placed && e.2.launch == launch) then s else s.dropText c l
  | none => s

/-- A block enters hart `h`, at its start, after a pre-emption or a suspension: youngest on its core, with an acquire; a core that is new to
its launch forgets the launch's instructions (R78, R117, R205). Its WAIT starts at 0 (log entry 97). -/
def enterHart (s : State) (h : Nat) (b : Block) : State :=
  let c := coreOf h
  let s := s.comeTo c b.launch
  let age := (s.core c).nextAge
  let s := s.updCore c fun k =>
    { k.l1InvalidateClean with nextAge := age + 1, last := if s.coreBusy c h then k.last else none }
  let s := s.setBlkAt h { b with placed := true, age := age, waitCnt := 0, bubble := false, stop := 0 }
  s.setCp fun cp => { cp with clusterCtx := aset cp.clusterCtx (clusterOf c) b.ctx }

/-- Writes bytes at a virtual address of a context at DEVICE scope, as the command processor does; a page that does not translate or
forbids it takes none. -/
def cpPut (s : State) (ctx va : Nat) (bs : List Byte) : State :=
  match s.walkNow ctx va true with
  | (s, .ok x) =>
    if x.allows .k .store && paExists s.plat.scrReach (x.phys va) then
      s.setMs fun m => m.sysWrite ((s.context ctx).map (·.pasid)) (x.phys va) bs
    else s
  | (s, .error _) => s

/-- The frame of a block at its placement: PARENT, every other field 0 (R110, R449). -/
def frameBytes (parent : Nat) : List Byte := leBytes 8 (parent / 128 * 128) ++ List.replicate 120 0

/-- A block with what its launch gives it (R78, R262, R289). -/
def freshBlock (s : State) (l : Launch) (area : Nat) : Block :=
  { ctx := l.ctx, launch := l.id, packed := l.packed, gangSize := l.gang, gen := l.obj.gen, slip := l.slip, lmin := l.lmin, lmax := l.lmax
    stackBase := BitVec.ofNat 64 area
    ctl := { tvec := (aget s.cp.ctxTvec l.ctx).getD 0, tdeleg := (aget s.cp.ctxDeleg l.ctx).getD 0 } }

/-- X1 to X8 hold the arguments, X9 the base of the stack area (R78). -/
def startRegs (l : Launch) (area : Nat) (b : Block) : Block :=
  let b := (l.args.zipIdx).foldl (fun (b : Block) a => b.setX (BitVec.ofNat 6 (1 + a.2)) a.1) b
  b.setX 9 (BitVec.ofNat 64 area)

/-- Starts a block of a launch on a hart with its frame; the area is taken (R77, R78, R449). -/
def startBlock (s : State) (h : Nat) (l : Launch) (area parent : Nat) (b : Block) : State :=
  let c := coreOf h
  let s := s.cpPut l.ctx area (frameBytes parent)
  let s := s.updLaunch l.id fun l =>
    { l with areasUsed := l.areasUsed ++ [(area - l.stackBase) / l.areaBytes]
             live := l.live.set b.stage ((l.live[b.stage]?).getD 0 + 1) }
  let s := s.enterHart h b
  s.trace c 8 h b.pc (BitVec.ofNat 64 (s.gangIndex b))

/-- Places a gang of blocks on harts by position (R97, R118). -/
def placeGang (s : State) (l : Launch) (index stage : Nat) (at_ : Nat × Nat × Nat) (hs : List Nat) : State :=
  let id := s.cp.nextGangId
  let n := hs.length
  let g : Gang :=
    { id := id, launch := l.id, index := index, home := coreOf (hs.headD 0), cluster := clusterOf (coreOf (hs.headD 0)), nbar := l.obj.nbar
      members := hs.map some, bars := List.replicate l.obj.nbar { count := n, arrived := 0, phase := false }
      gsync := List.replicate n 0, tsync := List.replicate n 0 }
  let s := s.setCp fun cp => { cp with gangs := cp.gangs ++ [g], nextGangId := id + 1 }
  ((hs.zip (freeAreas l)).zipIdx).foldl (fun (s : State) x =>
    let area := x.1.2
    let b := { startRegs l area (s.freshBlock l area) with
      gang := id, gangSize := n, gx := at_.1, gy := at_.2.1, gz := at_.2.2, gangPos := x.2, stage := stage
      pc := BitVec.ofNat 64 l.entry }
    s.startBlock x.1.1 l area 0 (if stage = 0 then b else { b with packed := true })) s

/-! ## Frames (R110, R112) -/

/-- The address of the frame of the block in focus. -/
def frameVa (s : State) : Nat := s.blk.stackBase.toNat

/-- Sends the AMO of a frame's word 1 for the hart in focus: `kind` 0 FORK, 1 SYNC, 3 SYNC in place, 2 TASKEND; the entries `pre`
go into the store queue before it (R112, R449). -/
def frameAmo (s : State) (frame kind cont : Nat) (pre : List SqOp) (lit : Option Word) : State :=
  match s.checkAddr .amo .atomic (frame + 8) 8 0 lit with
  | .stop s => s
  | .ok pa _ =>
    match aperture pa with
    | .peer _ => s.raiseA .perm .atomic (frame + 8) 0 lit
    | _ =>
      if 16 ≤ s.blk.sq.length + pre.length then s.waitFor .retry
      else
        let (id, s) := s.fresh
        let p : PendLoad :=
          { id := id, dest := .frame kind, pa := pa, n := 8, fill := false, acquire := none, before := 0, pc := s.blk.pc, va := frame + 8
            amo := true }
        let op : SqOp := .frame id pa (if kind = 3 then 1 else kind) cont (kind == 3)
        (s.updBlk fun b => { b with pend := b.pend ++ [p], rel := .none, sq := b.sq ++ pre ++ [op] }).waitFor .frameAmo

/-- Whether a suspension is in place: live tiles, claimed lanes, or live probe tokens (R112). -/
def suspendsInPlace (b : Block) : Bool :=
  !b.tnames.isEmpty || !b.anames.isEmpty || !b.lingering.isEmpty || !b.freeing.isEmpty || !b.trecs.isEmpty || !b.groups.isEmpty ||
    !b.tokens.isEmpty

/-- SYNC's frame write and AMO: words 0 and 2 to 15, then word 1, in this order (R112, R196, R450). -/
def syncFrame (s : State) (cont : Word) (lit : Option Word) : State :=
  let va := s.frameVa
  s.withWord va lit fun w0 s =>
    match s.checkAddr .store .store va 8 0 lit with
    | .stop s => s
    | .ok pa _ =>
      let b := s.blk
      let regs := (List.range 14).map fun i => (pa + 16 + 8 * i, 8, (b.getX (BitVec.ofNat 6 (18 + i))).toNat)
      s.frameAmo va (if suspendsInPlace b then 3 else 1) (cont.toNat / 8 % 2 ^ 50)
        [.store ((pa, 8, w0 / 128 * 128 + b.p.toNat % 128) :: regs) .device true] lit

/-- Takes the answer of a frame AMO away. -/
def takeAns (s : State) : State := s.updBlk fun b => { b with frameAns := none }

/-- The block in focus leaves its hart and waits for its children (R112): its release is done; what it holds on the core goes. -/
def leaveSuspended (s : State) : State :=
  let b := s.blk
  let b := { b with fifo := Vector.replicate 4 none, consumers := [], wait := some (.sync false), rel := .none, frameAns := none, xbuf := [] }
  (s.setCp fun cp => { cp with suspended := cp.suspended ++ [{ frame := b.stackBase, blk := b }] }).removeBlock s.cur true

/-- The block in focus suspends after SYNC's AMO found children (R112, R114). -/
def suspendNow (s : State) (kind : Nat) (lit : Option Word) : State :=
  if kind = 3 then ((s.takeAns).waitFor (.sync true)).shrink s.myCore (some s.cur)
  else s.afterRelease .device lit fun s => s.leaveSuspended

/-! ## TASKEND and EXIT (R112, R347, R451) -/

/-- The resume that a TASKEND whose AMO read `w` in the parent's frame word causes (R112). -/
def resumeOf (s : State) (frame w : Nat) : State :=
  if w % 4096 = 1 && w.testBit 12 then
    let cont := (BitVec.ofNat 53 (8 * field w 14 50)).signExtend 64
    s.setCp fun cp => { cp with resumes := cp.resumes ++
      [{ launch := s.blk.launch, frame := BitVec.ofNat 64 frame, cont := cont, inplace := w.testBit 13, hart := s.cur }] }
  else s

/-- Step 5 of R347: the block in focus leaves. -/
def leave (s : State) : State := (s.trace s.myCore 9 s.cur s.blk.pc 0).removeBlock s.cur false

/-- The end of the block in focus, once its tile work is done: JOIN, the parent's frame, the release `sc`, and it leaves. With children
outstanding it suspends and resumes at the instruction at the PC; where the last child has ended before SYNC's AMO it reads JOIN again (R347,
R451). -/
def endBlock (s : State) (sc : Scope) (lit : Option Word) : State :=
  let b := s.blk
  if !b.live.isEmpty then s.waitFor .retry
  else
    match b.frameAns with
    | some (2, w) =>
      s.withWord s.frameVa lit fun w0 s =>
        if sc = .device then (s.resumeOf (w0 / 128 * 128) w).leave
        else s.afterRelease sc lit fun s => (s.resumeOf (w0 / 128 * 128) w).leave
    | some (k, w) => if w % 4096 = 0 then (s.takeAns.updBlk fun b => { b with words := [] }).waitFor .retry else s.suspendNow k lit
    | none =>
      s.withWord (s.frameVa + 8) lit fun w1 s =>
        if w1 % 4096 ≠ 0 then s.syncFrame b.pc lit
        else if b.child then
          s.withWord s.frameVa lit fun w0 s =>
            s.afterRelease .device lit fun s => s.frameAmo (w0 / 128 * 128) 2 0 [] lit
        else s.afterRelease .system lit fun s => s.leave

end State

/-- EXIT (R347). -/
def execExit (f : FmtA) (s : State) : Out := guarded f.gm f.lit [] none (fun s => s.endBlock .system f.lit) s

/-- TASKEND: in a child a DEVICE-scope release, in another block as EXIT (R451). -/
def execTaskend (f : FmtQ) (s : State) : Out :=
  guarded f.gm f.lit [] none (fun s => s.endBlock (if s.blk.child then .device else .system) f.lit) s

/-- SYNC (R112, R450). One that finds no child outstanding is an acquire, as the resume of its parent is (log entry 25). -/
def execSync (f : FmtQ) (s : State) : Out :=
  guarded f.gm f.lit [] none (fun s =>
    match s.blk.frameAns with
    | some (k, w) =>
      if w % 4096 = 0 then ((s.takeAns.acquireAt .device).shrink s.myCore (some s.cur)).advance f.lit else s.suspendNow k f.lit
    | none => s.syncFrame (s.blk.pc + 8) f.lit) s

/-- The entry that a FORK names (R449). -/
def forkEntry (f : FmtY) (s : State) : Word := f.lit.getD (s.blk.pc + f.imm.signExtend 64)

/-- The child that a FORK of the block in focus makes (R111, R449). -/
def childOf (f : FmtY) (s : State) : Child :=
  let b := s.blk
  { launch := b.launch, home := s.cur, entry := forkEntry f s, arg1 := s.getX f.a, arg2 := s.getX (f.c.setWidth 6)
    parentFrame := b.stackBase, gx := b.gx, gy := b.gy, gz := b.gz, stage := b.stage, fctl := b.ctl.fctl &&& 0x3FFFF, seed := b.ctl.seed
    srgn := b.ctl.srgn, gen := b.gen }

/-- FORK: a release, the JOIN AMO, then the child is handed to placement (R449). -/
def execFork (f : FmtY) (s : State) : Out :=
  guarded f.gm f.lit [f.a, f.c.setWidth 6] none (fun s =>
    match s.blk.frameAns with
    | some (_, w) =>
      if w % 4096 = 4095 then s.takeAns.raise .stack f.lit
      else
        let k := childOf f s
        (s.takeAns.setCp fun cp => { cp with children := cp.children ++ [k] }).advance f.lit
    | none =>
      if (forkEntry f s).toNat % 8 ≠ 0 then s.takeTrap { cause := .align, access := .fetch, va := forkEntry f s } f.lit.isSome
      else s.afterRelease .device f.lit fun s => s.frameAmo s.frameVa 0 0 [] f.lit) s

/-! ## Resuming a parent (R110, R112, R450) -/

namespace State

/-- The 128 bytes of a frame as its context reads them, by word, or why they cannot be read (R110, R175, R58). -/
def readFrame (s : State) (ctx va : Nat) : State × Except Cause (List Nat) :=
  match s.walkNow ctx va false with
  | (s, .ok x) =>
    let pa := x.phys va
    if x.allows .k .load && paExists s.plat.scrReach pa then
      if s.ms.anyBad (homeAddr pa) 128 then (s, .error .uncorr)
      else
        match s.ms.sysRead ((s.context ctx).map (·.pasid)) pa 128 with
        | some bs => (s, .ok ((List.range 16).map fun i => field (ofLe bs) (64 * i) 64))
        | none => (s, .error (match aperture pa with
            | .host _ => .xlate
            | _ => .perm))
    else (s, .error .perm)
  | (s, .error c) => (s, .error c)

/-- What a frame restores: X16, X17, X18 to X31, P0 to P6 (R110). -/
def frameRegs (ws : List Nat) (b : Block) : Block :=
  let w0 := ws.headD 0
  let b := (List.range 14).foldl (fun (b : Block) i => b.setX (BitVec.ofNat 6 (18 + i)) (BitVec.ofNat 64 ((ws[2 + i]?).getD 0))) b
  ((b.setX 16 b.stackBase).setX 17 (BitVec.ofNat 64 (w0 / 128 * 128))) |> fun b => { b with p := BitVec.ofNat 8 (0x80 + w0 % 128) }

/-- What a frame that was read restores. -/
def frameOf (ws : Except Cause (List Nat)) (b : Block) : Block :=
  match ws with
  | .ok ws => frameRegs ws b
  | .error _ => b

/-- A parent whose frame cannot be read traps where it goes on (log entry 83). -/
def frameTrap (s : State) (h frame : Nat) (ws : Except Cause (List Nat)) : State :=
  match ws with
  | .ok _ => s
  | .error c => s.onHart h fun s => s.takeTrap { cause := c, access := .load, va := BitVec.ofNat 64 frame } false

/-- A parent as it goes on at CONT. -/
def resumed (cont : Word) (b : Block) : Block :=
  { b with pc := cont, estart := 0, wait := none, rel := .none, rep := none, xbuf := [], words := [], frameAns := none, skipBp := false, skipWatch := []
           pops := [], bubble := false }

/-- Mask and shape registers of a parent that resumes on another hart are not stated: free values (log entry 4). -/
def freeMD (s : State) (b : Block) : Block × State :=
  let n := s.free
  ({ b with
      m := Vector.ofFn fun i : Fin 12 => BitVec.ofNat 1024 (freeBits (n + 16 * i.val) 16)
      d := Vector.ofFn fun i : Fin 32 => BitVec.ofNat 128 (freeBits (n + 192 + 2 * i.val) 2) },
   { s with free := n + 256 })

/-- A parent that was away goes on at another hart (R112, R450). -/
def resumeAway (s : State) (r : Resume) (x : Suspended) : State :=
  let h := r.hart
  let b0 := x.blk
  let (s, ws) := s.readFrame b0.ctx r.frame.toNat
  let (b, s) := s.freeMD (frameOf ws { b0 with x := Vector.replicate 64 0 })
  let s := s.enterHart h (resumed r.cont b)
  let s := s.setCp fun cp => { cp with suspended := cp.suspended.filter fun y => y.frame != x.frame || y.blk.launch != b0.launch }
  let s := if b0.child then s
    else s.updAnyGang b0.gang fun g => { g with members := g.members.set b0.gangPos (some h) }
  s.frameTrap h r.frame.toNat ws

/-- A parent suspended in place goes on (R112). -/
def resumeInPlace (s : State) (r : Resume) (h : Nat) (b : Block) : State :=
  let (s, ws) := s.readFrame b.ctx r.frame.toNat
  let s := s.setBlkAt h (resumed r.cont (frameOf ws b))
  (s.onHart h fun s => s.acquireAt .device).frameTrap h r.frame.toNat ws

/-- Whether a block is the parent that a resume means. -/
def isParent (r : Resume) (b : Block) : Bool := b.launch == r.launch && b.stackBase == r.frame

/-- PARENT_RESUME: the n-th resume happens once its parent is suspended, one that a pre-emption has saved once it is back; on another hart,
once the child has left it. -/
def parentResume (s : State) (n : Nat) : State :=
  match s.cp.resumes[n]? with
  | none => s
  | some r =>
    let drop := fun (s : State) => s.setCp fun cp => { cp with resumes := dropAt cp.resumes n }
    if r.inplace then
      match s.blocks.find? fun (e : Nat × Block) => e.2.placed && isParent r e.2 && e.2.wait == some (.sync true) && e.2.stop == 0 with
      | some (h, b) => (drop s).resumeInPlace r h b
      | none => s
    else
      match s.cp.suspended.find? fun x => isParent r x.blk with
      | some x => if (s.blkAt r.hart).placed then s else (drop s).resumeAway r x
      | none => s

end State

def execParentResume (n : Nat) (s : State) : Out := .next (s.parentResume n)

end Sys2Proof.Machine
end

