-- ==== Sys2Proof/Machine/Image.lean ====
section
/-! DEFINITION. The context save image, how a block is read from one, and a block's return to a hart with all it holds (spec 10 R271 to
R277; spec 17 R462). -/

namespace Sys2Proof.Machine

/-! ## Stored values of the per-block control registers (R6, R237, R262, R278, R282, R291) -/

/-- The bits of a per-block control register that hold a value; the rest is reserved. -/
def ctlMask (n : Nat) : Nat :=
  if n = 0x00B then 0xF003
  else if n = 0x010 then 0xFFE01F
  else if n = 0x020 then 2 ^ 64 - 7
  else if n = 0x021 then 0xFFFFFE
  else if n = 0x022 then 0xFFF0000000FF
  else if n = 0x028 then 0xFFBF
  else if 0x030 ≤ n && n < 0x034 then 2 ^ 64 - 5
  else if 0x038 ≤ n && n < 0x03C then 0xFFFFFFFF0F
  else 2 ^ 64 - 1

/-- A value as a per-block control register stores it: RM 6 and 7 of FCTL are stored as 0 (R237). -/
def ctlStored (n : Nat) (v : Word) : Word :=
  let x := v &&& BitVec.ofNat 64 (ctlMask n)
  if n = 0x010 && 6 ≤ x.toNat % 8 then x &&& ~~~7 else x

/-- The value of a per-block control register by its number (R289). -/
def ctlGet (b : Block) (n : Nat) : Word :=
  let c := b.ctl
  if n = 0x00B then c.vstat
  else if n = 0x010 then c.fctl
  else if n = 0x011 then c.seed
  else if n = 0x012 then c.stripb
  else if 0x014 ≤ n && n < 0x018 then (c.srgn[n - 0x014]?).getD 0
  else if n = 0x020 then c.tvec
  else if n = 0x021 then c.tdeleg
  else if n = 0x022 then c.tcause
  else if n = 0x023 then c.tinfo
  else if n = 0x024 then c.tepc
  else if n = 0x025 then c.testart
  else if n = 0x026 then c.tva
  else if n = 0x027 then c.savea
  else if n = 0x028 then c.haltstat
  else if 0x030 ≤ n && n < 0x034 then (c.bpc[n - 0x030]?).getD 0
  else if 0x034 ≤ n && n < 0x038 then (c.wpa[n - 0x034]?).getD 0
  else if 0x038 ≤ n && n < 0x03C then (c.wpl[n - 0x038]?).getD 0
  else 0

/-- Stores a value in a per-block control register. -/
def ctlPut (b : Block) (n : Nat) (v : Word) : Block :=
  let c := b.ctl
  let v := ctlStored n v
  let c : Ctl :=
    if n = 0x00B then { c with vstat := v }
    else if n = 0x010 then { c with fctl := v }
    else if n = 0x011 then { c with seed := v }
    else if n = 0x012 then { c with stripb := v }
    else if 0x014 ≤ n && n < 0x018 then { c with srgn := c.srgn.setIfInBounds (n - 0x014) v }
    else if n = 0x020 then { c with tvec := v }
    else if n = 0x021 then { c with tdeleg := v }
    else if n = 0x022 then { c with tcause := v }
    else if n = 0x023 then { c with tinfo := v }
    else if n = 0x024 then { c with tepc := v }
    else if n = 0x025 then { c with testart := v }
    else if n = 0x026 then { c with tva := v }
    else if n = 0x027 then { c with savea := v }
    else if n = 0x028 then { c with haltstat := v }
    else if 0x030 ≤ n && n < 0x034 then { c with bpc := c.bpc.setIfInBounds (n - 0x030) v }
    else if 0x034 ≤ n && n < 0x038 then { c with wpa := c.wpa.setIfInBounds (n - 0x034) v }
    else if 0x038 ≤ n && n < 0x03C then { c with wpl := c.wpl.setIfInBounds (n - 0x038) v }
    else c
  { b with ctl := c }

/-- The control registers of words 0 to 28 of the image (R272). -/
def imageCtl : List Nat :=
  [0x010, 0x011, 0x012, 0x014, 0x015, 0x016, 0x017, 0x00B, 0x020, 0x021, 0x024, 0x025, 0x022, 0x023, 0x026, 0x027,
   0x030, 0x031, 0x032, 0x033, 0x034, 0x035, 0x036, 0x037, 0x038, 0x039, 0x03A, 0x03B, 0x028]

/-! ## Writing an image (R272 to R274) -/

/-- Bytes padded with zeros to `n`. -/
def padTo (n : Nat) (l : List Byte) : List Byte := l ++ List.replicate (n - l.length) 0

/-- A number of 64-bit words as bytes. -/
def bytesOfNats (l : List Nat) : List Byte := l.flatMap (leBytes 8)

/-- One entry of a variable section: a header of 64 bytes and its data, padded to a boundary of 64 (R274). -/
def imageEntry (head : List Nat) (data : List Byte) : List Byte :=
  let d := cdiv data.length 64 * 64
  padTo 64 (bytesOfNats head) ++ padTo d data

/-- The image index of a slot among those of the block. -/
def slotIdx (slots : List Slot) (id : Nat) : Nat := (firstIdx (fun (x : Slot) => x.id == id) slots).getD 0xFF

def slotCode : SlotState → Nat
  | .filling => 0 | .ready => 1 | .draining => 2

/-- The name map: T0 to T47, then A0 to A15 (R272). -/
def imageNames (x : SavedBlk) : List Byte :=
  (List.range 48).flatMap (fun n => match x.blk.tname n with
    | some t =>
      let id := ((x.blk.tsrc n).map (·.slot)).getD 0
      leBytes 1 (slotIdx x.slots id) ++ leBytes 1 (1 + (if t.chain.isSome then 2 else 0)) ++
        leBytes 2 (((x.slots.find? fun y => y.id == t.cur).bind (·.prog)).getD 0)
    | none => [0xFF, 0, 0, 0]) ++
  (List.range 16).flatMap fun n => [0xFF, if (x.blk.aname (48 + n)).isSome then 1 else 0, 0, 0]

/-- A translation in a token: its leaf entry, with the level in bits 9..8 (R174, R272; log entry 19). -/
def imageXlat (x : Xlat) : Nat :=
  x.fmt <<< 58 + x.srgn <<< 56 + x.pa / 8192 <<< 13 + ((x.log2 - 13) / 10) <<< 8 + (if x.d then 128 else 0) + 64 + (if x.s then 32 else 0) +
    (if x.x then 16 else 0) + (if x.w then 8 else 0) + (if x.r then 4 else 0) + 3

/-- The tokens, each at its entry: first address, length, flags, nine translations. Of the flags bit 0 is set in a live one, bit 1 is the
revoked mark, bit 2 says that an instruction has named it since, bits 63..32 are its sequence number (log entry 19). -/
def imageTokens (b : Block) : List Byte :=
  (List.range 16).flatMap fun i => padTo 128 (match b.tokens.find? fun t => t.idx == i with
    | some t => bytesOfNats ([t.va, t.len, 1 + (if t.revoked then 2 else 0) + (if t.named then 4 else 0) + t.seq <<< 32] ++
        (t.pages.take 9).map imageXlat)
    | none => [])

/-- The pending wait as four words: its kind, and what it waits for (log entry 19). -/
def imageWait (x : SavedBlk) (w : Option Wait) : List Nat :=
  match w with
  | none => [0, 0, 0, 0]
  | some (.barrier n o w e) => [2, n, (if o then 1 else 0) + (if w then 2 else 0), (e.map (·.toNat + 1)).getD 0]
  | some (.barrierAsk n) => [3, n, 0, 0]
  | some (.gsync n) => [4, n, 0, 0]
  | some (.tsync n) => [5, n, 0, 0]
  | some (.sync p) => [6, if p then 1 else 0, 0, 0]
  | some (.wfe d) => [7, (d.map (· + 1)).getD 0, 0, 0]
  | some (.twait name id q) => [8, (name.map (· + 1)).getD 0, if id = 0 then 0 else slotIdx x.slots id + 1, q]
  | some _ => [1, 0, 0, 0]

/-- The synchronisation state: the pending wait, the chain with its key, the sequence counters of the chain, of GSYNC and TSYNC, of tile
instructions and of tokens, the queues consumed, the bindings of X60 to X63, where registered barriers stand (R272; log entry 19). -/
def imageSync (x : SavedBlk) : List Byte :=
  let b := x.blk
  let c := b.chain.getD { key := 0, pos := 0, len := 0, lines := 0, wide := false }
  bytesOfNats (imageWait x b.wait ++
    [c.pos + c.len <<< 16 + c.lines <<< 32 + (if c.wide then 1 <<< 48 else 0), c.key, c.next + c.done <<< 32, c.consumed, b.gsyncs + b.tsyncs <<< 32,
      b.seqNext + b.tokSeq <<< 32, b.consumers.foldl (fun n q => n ||| 1 <<< q) 0] ++
    (b.fifo.toList.map fun q => match q with
      | some q => q + 1
      | none => 0))

/-- The 64-bit elements of a captured layout record (R422). -/
def imageDims (l : List (Int × Nat)) : List Nat := (l.take 8).map fun x => wrap 40 x.1 <<< 24 + x.2

/-- One record of an unretired tile instruction: PC, instruction word, literal, image indices of its slots, progress and flags with RM, the
fault record, SEED, STRIPB, SRGN0 to SRGN3, the captured layout record (R272; log entry 19). -/
def imageRec (x : SavedBlk) (t : TileRec) : List Byte :=
  let slots := (t.dst.map (·.slot) ++ t.src.map (·.slot)).map (slotIdx x.slots)
  let ws := (encode t.ins).map (·.toNat)
  let fault := match t.fault with
    | some r => [r.cause.code + r.access.code <<< 8 + (match r.tile with
        | some n => n + 1
        | none => 0) <<< 16 + r.row <<< 24 + r.col <<< 40, r.va.toNat, r.detail, r.estart]
    | none => [0, 0, 0, 0]
  padTo 192 (bytesOfNats ([t.pc.toNat, ws.headD 0, ws.getD 1 0, slots.zipIdx.foldl (fun n i => n + i.1 <<< (8 * i.2)) 0,
    t.progress + (if t.phase == .parked then 1 <<< 32 else 0) + (if t.fault.isSome then 2 <<< 32 else 0) + (t.fctl.toNat % 8) <<< 40] ++ fault ++
    [t.seed.toNat, t.stripb.toNat] ++ t.srgn.map (·.toNat) ++ imageDims t.dims))

/-- The progress index of a V register: 0 from the acceptance of a tile instruction that writes it, which a row move's groups raise (R126,
R376). -/
def Block.vprogNow (b : Block) (r : BitVec 5) : Nat :=
  match b.trecs.find? fun t => t.vdst == some r with
  | some t => ((t.src.head?.map fun x => t.progress / (16 * (64 / Shape.bits x.rcd)))).getD 0
  | none => b.vprogAt r

/-- V registers: those with a progress index above 0, its 128-byte groups (R274). -/
def imageV (b : Block) : List Byte :=
  (List.range 32).flatMap fun r =>
    let n := min (b.vprogNow (BitVec.ofNat 5 r)) b.groups.length
    if n = 0 then [] else imageEntry [r, n] (leBytes (128 * n) ((b.v[r]?).getD 0).toNat)

def imageSlots (x : SavedBlk) : List Byte :=
  x.slots.zipIdx.flatMap fun (y, i) =>
    let n := 4096 * y.units.length
    let d := ((x.blk.tname y.name).map (·.rcd)).getD 0
    imageEntry [i, slotCode y.state, n, d.toNat % 2 ^ 64, d.toNat / 2 ^ 64] (leBytes n y.content)

/-- The accumulators of the block: those whose TFREE has not retired, then the declared ones. -/
def imageAccs (b : Block) : List Byte :=
  (b.freeing.map (·.2) ++ b.anames).flatMap fun (n, a) =>
    imageEntry [n, a.rows, a.cols, if a.aov then 1 else 0, a.rcd.toNat % 2 ^ 64, a.rcd.toNat / 2 ^ 64]
      (a.elems.flatMap fun e => leBytes 12 e.toNat)

def imageFifo (x : SavedBlk) : List Byte :=
  (x.blk.fifo.toList.zip x.queues).flatMap fun (q, y) => match q with
    | some q => imageEntry [q, y.entries.length] (wordBytes y.entries)
    | none => []

def imageCarries (b : Block) : List Byte :=
  match b.chain with
  | none => []
  | some c => c.carries.flatMap fun (k, l) =>
    let n := if c.wide then 16 else 8
    imageEntry [k, l.length, n] (l.flatMap fun p => leBytes 8 p.1 ++ (if c.wide then leBytes 8 p.2 else []))

/-- Whether the results that a record keeps are pairs: the carries of a LINREC. -/
def keepsPairs (t : TileRec) : Bool :=
  match t.ins with
  | .tscan f | .tscanc f => scanOp f == 4
  | _ => false

/-- The results of finished segments that records keep (R270, R274): record, number, bytes of one. -/
def imageParts (b : Block) : List Byte :=
  (b.trecs.take 16).zipIdx.flatMap fun (t, i) =>
    if t.segs.isEmpty then []
    else
      let pair := keepsPairs t
      imageEntry [i, t.segs.length, if pair then 16 else 8] (t.segs.flatMap fun p => leBytes 8 p.1 ++ (if pair then leBytes 8 p.2 else []))

/-- The image of a block that goes on at (PC, ESTART); `gang` is its linear index. -/
def imageOf (x : SavedBlk) (gang : Nat) (pc estart : Word) : List Byte :=
  let b := x.blk
  let secs := [imageV b, imageSlots x, imageAccs b, imageFifo x, imageParts b, imageCarries b]
  let offs := secs.foldl (fun (a : List (Nat × Nat) × Nat) l => (a.1 ++ [(a.2, l.length)], a.2 + l.length)) ([], 9216)
  let head := [0x53584358 + 1 <<< 32, offs.2, pc.toNat, estart.toNat,
    (if b.level == .s then 1 else 0) + (if b.ctl.haltstat.getLsbD 0 then 2 else 0) + (if b.parked.isSome then 4 else 0) +
      b.groups.length <<< 4 + b.gen <<< 8,
    gang <<< 32 + b.gangPos <<< 29 + b.stage <<< 26] ++ offs.1.flatMap fun o => [o.1, o.2]
  let ctl := imageCtl.map (fun n => (ctlGet b n).toNat) ++ [0, b.p.toNat % 128, 0]
  padTo 256 (bytesOfNats head) ++ ((List.range 64).flatMap fun r => leBytes 8 (b.getX (BitVec.ofNat 6 r)).toNat) ++
    bytesOfNats ctl ++ (b.m.toList.flatMap fun m => leBytes 128 m.toNat) ++ (b.d.toList.flatMap fun d => leBytes 16 d.toNat) ++
    imageNames x ++ imageTokens b ++ padTo 256 (imageSync x) ++ padTo 3072 ((b.trecs.take 16).flatMap (imageRec x)) ++
    List.replicate 512 0 ++ secs.flatten

/-! ## Reading an image (R273, R276, R277) -/

/-- An image as its reader sees it: a number of bytes, little-endian, by offset and length. -/
structure ImageView where
  bytes : List Byte
  deriving DecidableEq, Repr

/-- `n` bytes at an offset. -/
def ImageView.get (v : ImageView) (off n : Nat) : Nat := ofLe ((v.bytes.drop off).take n)

/-- Magic and version (R273). -/
def ImageView.good (v : ImageView) : Bool := v.get 0 8 % 2 ^ 48 == 0x53584358 + 1 <<< 32

/-- The entries of a section: where each begins; `size` gives the data bytes from the entry's offset. -/
def imageEntries (size : Nat → Nat) (stop : Nat) : Nat → Nat → List Nat
  | 0, _ => []
  | fuel + 1, off => if stop ≤ off then [] else off :: imageEntries size stop fuel (off + 64 + cdiv (size off) 64 * 64)

/-- The entries of variable section `k`. -/
def ImageView.section (v : ImageView) (k fuel : Nat) (size : Nat → Nat) : List Nat :=
  let off := v.get (8 * (6 + 2 * k)) 8
  imageEntries size (off + v.get (8 * (7 + 2 * k)) 8) fuel off

/-- The value that a code stands for among a list. -/
def fromCode {α : Type} (code : α → Nat) (l : List α) (n : Nat) : Option α := l.find? fun x => code x == n

/-- Every trap cause, and every kind of access. -/
def allCauses : List Cause :=
  [.illop, .priv, .align, .xlate, .perm, .format, .shape, .layout, .token, .tilestate, .lanes, .sparsemeta, .fpexc, .uncorr, .qdeadlock, .barrier,
   .carry, .stack, .softtrap, .breakc, .watch, .translate, .preempt]
def allAccess : List Access := [.none, .fetch, .load, .store, .atomic, .copyIn, .copyOut, .gather, .scatter]

/-- The slots that the image's section lists, over what the block's `l` hold otherwise: index and slot. -/
def readSlots (v : ImageView) (l : List Slot) : List (Nat × Slot) :=
  (v.section 1 128 fun o => v.get (o + 16) 8).filterMap fun o =>
    let i := v.get o 8
    let n := v.get (o + 16) 8
    l[i]?.map fun y =>
      let st := (fromCode slotCode [.filling, .ready, .draining] (v.get (o + 8) 8)).getD y.state
      (i, { y with
        content := v.get (o + 64) n, state := st, filled := if st = y.state then y.filled else st != .filling
        units := if n = 4096 * y.units.length then y.units else List.replicate (n / 4096) 0 })

/-- The declared T names as the name map has them; a name whose declared bit is gone is not declared. -/
def readNames (v : ImageView) (slots : List (Nat × Slot)) (l : List (Nat × TName)) : List (Nat × TName) :=
  l.filterMap fun (n, t) =>
    let w := v.get (0xC00 + 4 * n) 4
    let id := ((slots.find? fun y => y.1 == w % 256).map (·.2.id)).getD (match t.view with
      | some u => u.slotId
      | none => t.cur)
    if !w.testBit 8 then none
    else
      let t := { t with chain := if w.testBit 9 then t.chain else none }
      some (n, match t.view with
        | some u => { t with view := some { u with slotId := id } }
        | none => { t with cur := id })

/-- The progress indices that the name map gives the slots of chained names. -/
def readProg (v : ImageView) (names : List (Nat × TName)) (y : Slot) : Slot :=
  match names.find? fun x => x.2.cur == y.id && x.2.chain.isSome with
  | some x => { y with prog := some (v.get (0xC00 + 4 * x.1 + 2) 2) }
  | none => y

/-- The translations of a token from its first page on. -/
def readPages (ctx : Nat) (old : List Xlat) : Nat → List Nat → List Xlat
  | _, [] => []
  | va, w :: t =>
    if w = 0 then []
    else
      let k := 13 + 10 * field w 8 2
      let page := va / 2 ^ k * 2 ^ k
      { ctx := ctx, page := page, log2 := k, pa := field w 13 33 * 8192, fmt := field w 58 6, srgn := field w 56 2, d := w.testBit 7
        s := w.testBit 5, x := w.testBit 4, w := w.testBit 3, r := w.testBit 2
        pte := ((old.find? fun p => p.page == page).map (·.pte)).getD 0 } :: readPages ctx old (page + 2 ^ k) t

/-- The tokens of an image; a revocation while the block was away stands (R183, R276). -/
def readTokens (v : ImageView) (b : Block) : List Token :=
  (List.range 16).filterMap fun i =>
    let at_ := fun (k : Nat) => v.get (0xD00 + 128 * i + 8 * k) 8
    let f := at_ 2
    if !f.testBit 0 then none
    else
      let old := b.tokens.find? fun t => t.idx == i && t.seq == f >>> 32
      some { idx := i, seq := f >>> 32, va := at_ 0, len := at_ 1
             pages := readPages b.ctx ((old.map (·.pages)).getD []) (at_ 0) ((List.range 9).map fun k => at_ (3 + k))
             revoked := f.testBit 1 || (old.any (·.revoked)), named := f.testBit 2 && !(old.any fun t => t.revoked && !t.named) }

/-- The pending wait as the bytes of an image have it. -/
def waitBytes (v : ImageView) (ids : List (Nat × Slot)) : Option Wait :=
  let at_ := fun (k : Nat) => v.get (0x1500 + 8 * k) 8
  match at_ 0 with
  | 0 => none
  | 2 => some (.barrier (at_ 1) ((at_ 2).testBit 0) ((at_ 2).testBit 1) (if at_ 3 = 0 then none else some (BitVec.ofNat 6 (at_ 3 - 1))))
  | 3 => some (.barrierAsk (at_ 1))
  | 4 => some (.gsync (at_ 1))
  | 5 => some (.tsync (at_ 1))
  | 6 => some (.sync ((at_ 1).testBit 0))
  | 7 => some (.wfe (if at_ 1 = 0 then none else some (at_ 1 - 1)))
  | 8 => some (.twait (if at_ 1 = 0 then none else some (at_ 1 - 1))
      (if at_ 2 = 0 then 0 else ((ids.find? fun y => y.1 + 1 == at_ 2).map (·.2.id)).getD 0) (at_ 3))
  | _ => some .retry

/-- The pending wait of an image; a barrier that was passed, or an answer of the home core that came, while the block was away stands. -/
def readWait (v : ImageView) (ids : List (Nat × Slot)) (old : Option Wait) : Option Wait :=
  match waitBytes v ids, old with
  | some (.barrier n o w e), some (.barrier m o' w' _) => some (if n = m then .barrier n (o || o') (w || w') e else .barrier n o w e)
  | some (.barrierAsk n), some (.barrier m o w e) => some (if n = m then .barrier m o w e else .barrierAsk n)
  | w, _ => w

/-- The synchronisation state of an image in a block. -/
def readSync (v : ImageView) (ids : List (Nat × Slot)) (b : Block) : Block :=
  let at_ := fun (k : Nat) => v.get (0x1500 + 8 * k) 8
  let c := at_ 4
  { b with
    wait := readWait v ids b.wait
    chain := if field c 16 16 = 0 then none
      else some { key := at_ 5, pos := field c 0 16, len := field c 16 16, lines := field c 32 16, wide := c.testBit 48
                  next := field (at_ 6) 0 32, done := at_ 6 >>> 32, consumed := at_ 7 }
    gsyncs := field (at_ 8) 0 32, tsyncs := at_ 8 >>> 32, seqNext := field (at_ 9) 0 32, tokSeq := at_ 9 >>> 32
    consumers := if at_ 10 = b.consumers.foldl (fun n q => n ||| 1 <<< q) 0 then b.consumers else (List.range 64).filter (at_ 10).testBit
    fifo := Vector.ofFn fun i : Fin 4 => if at_ (11 + i.val) = 0 then none else some (at_ (11 + i.val) - 1) }

/-- Record `i` of an image over the block's own; none where the image has none there. The instruction is the block's (log entry 19). -/
def readRec (v : ImageView) (ids : List (Nat × Slot)) (i : Nat) (t : TileRec) : Option TileRec :=
  let at_ := fun (k : Nat) => v.get (0x1600 + 192 * i + 8 * k) 8
  let id := fun (k old : Nat) => ((ids.find? fun y => y.1 == field (at_ 3) (8 * k) 8).map (·.2.id)).getD old
  if (List.range 24).all fun k => at_ k = 0 then none
  else
    let f := at_ 5
    let n := t.dst.length
    some { t with
      pc := BitVec.ofNat 64 (at_ 0)
      dst := t.dst.zipIdx.map fun d => { d.1 with slot := id d.2 d.1.slot }
      src := t.src.zipIdx.map fun x => { x.1 with slot := id (n + x.2) x.1.slot }
      progress := field (at_ 4) 0 32
      phase := if (at_ 4).testBit 32 then .parked else if t.phase = .parked then .queued else t.phase
      fault := if !(at_ 4).testBit 33 then none
        else (fromCode Cause.code allCauses (field f 0 8)).map fun c =>
          { cause := c, access := (fromCode Access.code allAccess (field f 8 8)).getD .none
            tile := if field f 16 8 = 0 then none else some (field f 16 8 - 1)
            row := field f 24 16, col := field f 40 16, va := BitVec.ofNat 64 (at_ 6), detail := at_ 7, estart := at_ 8 }
      fctl := BitVec.ofNat 64 (t.fctl.toNat / 8 * 8 + field (at_ 4) 40 3), seed := BitVec.ofNat 64 (at_ 9), stripb := BitVec.ofNat 64 (at_ 10)
      srgn := (List.range 4).map fun k => BitVec.ofNat 64 (at_ (11 + k))
      dims := if t.dims.isEmpty then [] else layoutDims (BitVec.ofNat 8192 (v.get (0x1600 + 192 * i + 120) 64)) 8 0 }

/-- The results of finished segments that an image gives record `i`. -/
def readParts (v : ImageView) (i : Nat) (t : TileRec) : TileRec :=
  let os := v.section 4 16 fun o => v.get (o + 8) 8 * v.get (o + 16) 8
  { t with segs := match os.find? fun o => v.get o 8 == i with
      | some o =>
        let w := v.get (o + 16) 8
        (List.range (v.get (o + 8) 8)).map fun k => (v.get (o + 64 + w * k) 8, if w = 16 then v.get (o + 72 + w * k) 8 else 0)
      | none => [] }

/-- An accumulator as the image's section holds it at an offset. -/
def readAcc (v : ImageView) (o : Nat) (a : AName) : AName :=
  { a with
    elems := (List.range (a.rows * a.cols)).map fun i => BitVec.ofNat 96 (v.get (o + 64 + 12 * i) 12), aov := (v.get (o + 24) 8).testBit 0 }

/-- The block that an image holds, over what R272 to R274 do not lay out (log entry 19). -/
def readImage (v : ImageView) (x : SavedBlk) : SavedBlk :=
  let b := x.blk
  let w4 := v.get 32 8
  let b := { b with
    x := Vector.ofFn fun i : Fin 64 => BitVec.ofNat 64 (v.get (0x100 + 8 * i.val) 8)
    m := Vector.ofFn fun i : Fin 12 => BitVec.ofNat 1024 (v.get (0x400 + 128 * i.val) 128)
    d := Vector.ofFn fun i : Fin 32 => BitVec.ofNat 128 (v.get (0xA00 + 16 * i.val) 16)
    p := BitVec.ofNat 8 (0x80 + v.get (0x300 + 240) 8 % 128)
    pc := BitVec.ofNat 64 (v.get 16 8) &&& ~~~7, estart := BitVec.ofNat 64 (v.get 24 8)
    level := if w4.testBit 0 then .s else .k
    groups := List.range (field w4 4 4) }
  let b := imageCtl.zipIdx.foldl (fun (b : Block) n => ctlPut b n.1 (BitVec.ofNat 64 (v.get (0x300 + 8 * n.2) 8))) b
  let vs := v.section 0 32 fun o => 128 * v.get (o + 8) 8
  let b := vs.foldl (fun (b : Block) o =>
    let r := v.get o 8
    let n := v.get (o + 8) 8
    { b with v := b.v.setIfInBounds r (BitVec.ofNat 8192 (v.get (o + 64) (128 * n))), vprog := b.vprog.setIfInBounds r n })
    { b with v := Vector.replicate 32 0, vprog := Vector.replicate 32 0 }
  let ids := readSlots v x.slots
  let names := readNames v ids b.tnames
  let slots := ids.map fun y => readProg v names y.2
  let accs := v.section 2 64 fun o => 12 * (v.get (o + 8) 8 * v.get (o + 16) 8)
  let at_ := fun (i : Nat) (a : AName) => match accs[i]? with
    | some o => readAcc v o a
    | none => a
  let b := readSync v ids { b with
    tnames := names, tokens := readTokens v b
    freeing := b.freeing.zipIdx.map fun f => (f.1.1, f.1.2.1, at_ f.2 f.1.2.2)
    anames := (b.anames.zipIdx.map fun a => (a.1.1, at_ (b.freeing.length + a.2) a.1.2)).filter fun a =>
      (v.get (0xCC0 + 4 * (a.1 - 48)) 4).testBit 8
    trecs := b.trecs.zipIdx.filterMap fun t => (readRec v ids t.2 t.1).map (readParts v t.2) }
  let fifo := v.section 3 4 fun o => 8 * v.get (o + 8) 8
  let queues := (b.fifo.toList.zip x.queues).map fun (q, y) =>
    match fifo.find? fun o => some (v.get o 8) == q with
    | some o => { y with entries := (List.range (v.get (o + 8) 8)).map fun i => BitVec.ofNat 64 (v.get (o + 64 + 8 * i) 8) }
    | none => { y with entries := [] }
  let carries := (v.section 5 64 fun o => v.get (o + 8) 8 * v.get (o + 16) 8).map fun o =>
    (v.get o 8, (List.range (v.get (o + 8) 8)).map fun i =>
      let at_ := o + 64 + i * v.get (o + 16) 8
      (v.get at_ 8, if v.get (o + 16) 8 = 16 then v.get (at_ + 8) 8 else 0))
  let b := { b with chain := b.chain.map fun (c : Chain) => { c with carries := carries } }
  { blk := b, slots := slots, queues := queues }

/-- What an image that the device did not write at its address says of its block: slots with their records, names, accumulators. `id` is the
first free number for its slots. Views and instructions cannot be told from it (log entry 19). -/
def ImageView.base (v : ImageView) (id : Nat) (b : Block) : SavedBlk :=
  let shape := fun (o : Nat) => BitVec.ofNat 128 (v.get o 16)
  let sl := v.section 1 128 fun o => v.get (o + 16) 8
  let name := fun (i : Nat) => (List.range 48).find? fun n => v.get (0xC00 + 4 * n) 4 % 512 == 256 + i
  let units := fun (o : Nat) => List.replicate (v.get (o + 16) 8 / 4096) 0
  let top := sl.foldl (fun m o => max m (v.get o 8 + 1)) 0
  let slots := (List.range top).map fun i =>
    ({ id := id + i, state := .ready, owner := 0, name := (name i).getD 1000, filled := true
       units := ((sl.find? fun o => v.get o 8 == i).map units).getD [] } : Slot)
  let accs := v.section 2 64 fun o => 12 * (v.get (o + 8) 8 * v.get (o + 16) 8)
  { blk := { b with
      lingering := [], freeing := [], trecs := [], tokens := [], groups := [], chain := none, fifo := Vector.replicate 4 none, wait := none
      rep := none
      tnames := sl.filterMap fun o => (name (v.get o 8)).map fun n =>
        (n, { rcd := shape (o + 24), cur := id + v.get o 8, resv := [(id + v.get o 8, units o), (0, units o)] })
      anames := accs.map fun o =>
        (v.get o 8, { rcd := shape (o + 32), empty := false, rect := (0, 0, 0, 0), rows := v.get (o + 8) 8, cols := v.get (o + 16) 8
                      elems := [], aov := false }) }
    slots := slots, queues := List.replicate 4 {} }

namespace State

/-- The bytes of an image at a physical address in device memory, none when one of them is uncorrectable. -/
def imageAt (s : State) (pa : Nat) : Option ImageView :=
  let n := field (s.ms.homeRead (pa + 8) 8) 0 32
  if s.ms.anyBad pa n then none
  else (s.ms.sysRead none pa n).map fun bs => { bytes := bs }

/-- The slots of a hart, and the data queues bound to X60 to X63. -/
def savedOf (s : State) (h : Nat) : SavedBlk :=
  let b := s.blkAt h
  let k := s.core (coreOf h)
  { blk := b, slots := k.slots.filter fun x => x.owner == h
    queues := b.fifo.toList.map fun q => match q with
      | some q => (aget k.dataq q).getD {}
      | none => {} }

/-! ## The return of a block to a hart (R275, R276) -/

/-- Gives each reservation of the saved names free units of the core in turn; none when they run out. -/
def takeUnits : List Nat → List (Nat × List Nat) → Option (List (Nat × List Nat) × List Nat)
  | free, [] => some ([], free)
  | free, (id, us) :: t =>
    if free.length < us.length then none
    else (takeUnits (free.drop us.length) t).map fun r => ((id, free.take us.length) :: r.1, r.2)

/-- The same for names in turn. -/
def takeNames : List Nat → List TName → Option (List TName × List Nat)
  | free, [] => some ([], free)
  | free, n :: t =>
    match takeUnits free n.resv with
    | none => none
    | some (resv, rest) => (takeNames rest t).map fun r => ({ n with resv := resv } :: r.1, r.2)

/-- Accumulator regions at their new rectangles, one after the other, for the hart in focus; none when one does not fit. -/
def takeRects (s : State) : List (Nat × AName) → Option State
  | [] => some s
  | (n, a) :: t =>
    if a.empty then takeRects (s.updBlk fun b => { b with anames := aset b.anames n a }) t
    else
      match s.freeRect s.myCore a.rows a.cols with
      | some r => takeRects (s.updBlk fun b => { b with anames := aset b.anames n { a with rect := r } }) t
      | none => none

/-- Free data queues of a core's FIFO banks. -/
def freeQueues (s : State) (c : Nat) : List Nat :=
  let k := s.core c
  (List.range 128).filter fun q => k.banks[q / 4]? == some .fifo && ((aget k.dataq q).getD {}).bound.isNone

/-- Binds the saved data queues to free ones. -/
def takeQueues (s : State) : List (Nat × Option Nat × DataQ) → Option State
  | [] => some s
  | (_, none, _) :: t => takeQueues s t
  | (i, some _, y) :: t =>
    match s.freeQueues s.myCore with
    | q :: _ =>
      takeQueues ((s.setDataq q { bound := some s.cur, owner := some s.cur, entries := y.entries }).updBlk fun b =>
        { b with fifo := b.fifo.setIfInBounds i (some q) }) t
    | [] => none

/-- The waits that an instruction keeps over a move; any other is issued again (R270). -/
def keptWait : Option Wait → Option Wait
  | some (.barrier n o w e) => some (.barrier n o w e)
  | some (.barrierAsk n) => some (.barrierAsk n)
  | some (.gsync n) => some (.gsync n)
  | some (.tsync n) => some (.tsync n)
  | some (.sync p) => some (.sync p)
  | some (.wfe d) => some (.wfe d)
  | some (.twait a b c) => some (.twait a b c)
  | _ => none

/-- Accepts the records again in order: each gets a new place in the core's sequencer. -/
def restamp (s : State) : List TileRec → State × List TileRec
  | [] => (s, [])
  | t :: r =>
    let (id, s) := s.fresh
    let (s, l) := restamp s r
    (s, { t with stamp := id, chunk := 0 } :: l)

/-- Puts a saved block with its slots, names, accumulators, lanes, records and data queues on hart `h`; none when the core lacks what
it needs (R275, R276). -/
def returnTo (s : State) (h : Nat) (x : SavedBlk) : Option State :=
  let c := coreOf h
  let b := x.blk
  let need := b.groups.length
  let open_ := s.openGroups c b.stage
  let resv := (b.tnames.flatMap fun t => t.2.resv) ++ b.lingering.flatMap (·.resv)
  let extra := x.slots.filter fun y => y.placed && !resv.any fun r => r.1 == y.id
  if open_.length < need || 128 < s.slotsTaken c + resv.length + extra.length then none
  else
    match takeNames (s.freeUnits c b.stage) ((b.tnames.map (·.2)) ++ b.lingering) with
    | none => none
    | some (names, rest) =>
      match takeUnits rest (extra.map fun y => (y.id, y.units)) with
      | none => none
      | some (more, _) =>
        let us := names.flatMap (·.resv) ++ more
        let slots := x.slots.map fun (y : Slot) =>
          { y with owner := h, units := if y.placed then ((us.find? fun u => u.1 == y.id).map (·.2)).getD [] else [] }
        let (s, recs) := s.restamp b.trecs
        let b' := { b with
          tnames := (b.tnames.map (·.1)).zip names, lingering := names.drop b.tnames.length, anames := [], freeing := [], trecs := recs
          groups := open_.take need, fifo := Vector.replicate 4 none, wait := keptWait b.wait, rel := .none, stop := 0, xbuf := []
          pops := [], words := [], peerBad := none }
        let s := (s.enterHart h b').updCore c fun k => { k with slots := k.slots ++ slots }
        let at_ := fun (s : State) =>
          (s.takeRects (b.anames ++ b.freeing.map fun f => (1000 + f.1, f.2.2))).bind fun s =>
            let s := s.updBlk fun b1 =>
              { b1 with
                anames := b1.anames.filter fun a => a.1 < 1000
                freeing := b.freeing.map fun f => (f.1, f.2.1, (aget b1.anames (1000 + f.1)).getD f.2.2) }
            s.takeQueues (((b.fifo.toList.zip x.queues).zipIdx).map fun q => (q.2, q.1.1, q.1.2))
        (at_ (s.focus h)).map fun s' => s'.focus s.cur

end State

end Sys2Proof.Machine
end

