-- ==== Sys2Proof/Machine/Gangs.lean ====
section
/-! DEFINITION. What the command processors do with harts: placement of gangs, stage blocks and children, back-pressure, release of
clusters, pre-emption and its undoing (spec 05 R95 to R102, R111, R120, R121; spec 10 R271, R275 to R277). -/

namespace Sys2Proof.Machine

namespace State

/-! ## Gangs and stage blocks (R95 to R98, R100) -/

/-- The clusters in number order. -/
def clusters : List Nat := List.range 20

/-- Whether a block of a stage of a launch is on a cluster. -/
def hasStage (s : State) (l : Launch) (cl st : Nat) : Bool :=
  s.blocks.any fun (e : Nat × Block) => e.2.placed && e.2.launch == l.id && e.2.stage == st && clusterOf (coreOf e.1) == cl

/-- Whether a cluster holds a block of a launch. -/
def hasLaunch (s : State) (l : Launch) (cl : Nat) : Bool :=
  s.blocks.any fun (e : Nat × Block) => e.2.placed && e.2.launch == l.id && clusterOf (coreOf e.1) == cl

/-- The later stages of which a cluster has no block and which more work can still reach (R100, R101). -/
def stagesDue (s : State) (l : Launch) (cl : Nat) : List Nat :=
  if s.hasLaunch l cl then
    ((List.range l.stages).drop 1).filter fun st => !s.hasStage l cl st && !(s.hwq cl (55 + st)).closed
  else []

/-- The number of gangs of the grid. -/
def gangCount (l : Launch) : Nat := l.gx * l.gy * l.gz

/-- The coordinates of a linear index (R95). -/
def gangAt (l : Launch) (n : Nat) : Nat × Nat × Nat := (n % l.gx, n / l.gx % l.gy, n / l.gx / l.gy)

/-- Places one block of a stage on a cluster as a packed gang of 1 (R100, R102). -/
def placeStage (s : State) (l : Launch) (cl st : Nat) : Option State :=
  (s.gangFits l cl 1 true).map fun hs => s.placeGang l 0 st (0, 0, 0) hs

/-- The first stage block that a launch keeps and lacks. -/
def stageDue (s : State) (l : Launch) : Option State :=
  clusters.findSome? fun cl => (s.stagesDue l cl).findSome? fun st => s.placeStage l cl st

/-- The stage queues of a cluster open, without a ring, when a pipeline first places there (R100, R101). -/
def openStages (s : State) (l : Launch) (cl : Nat) : State :=
  if s.hasLaunch l cl then s
  else (List.range (l.stages - 1)).foldl (fun (s : State) i =>
    s.setHwq cl (56 + i) { s.hwq cl (56 + i) with closed := false, qring := 0, ringHead := 0, ringCount := 0, batch := none }) s

/-- Whether a proposed clock bin is due before the next cold reset: a monitor reads below 2.0 %, and 60 s have passed since its notice (R55
step 2). -/
def binDue (s : State) : Bool :=
  s.plat.pendBin != 0 && s.plat.margin < 20 && (match s.plat.pendSince with
    | some t => t + 60000000000 ≤ s.ts
    | none => false)

/-- The next gang of a launch, where it can be placed: not on a cluster that lacks a stage block (R95 to R97, R100). -/
def nextGang (s : State) (l : Launch) : Option (Nat × List Nat) :=
  if gangCount l ≤ l.nextGang || l.aborted || (l.nextGang == 0 && s.binDue) then none
  else s.bestCluster (clusters.filter fun cl => (s.stagesDue l cl).isEmpty) fun cl => s.gangFits l cl l.gang l.packed

/-! ## Restoring a saved gang (R275 to R277) -/

/-- The positions of a saved gang that have an image, ascending. -/
def savedPositions (g : SavedGang) : List Nat := (List.range g.blks.length).filter fun p => ((g.blks[p]?).join).isSome

/-- Whether every block of the gang has stopped and has its image. -/
def savedWhole (s : State) (g : SavedGang) : Bool := !s.cp.gangs.any fun x => x.id == g.gang.id

/-- Whether a saved gang has a TCHAIN stream open: it resumes on its former cluster (R275). -/
def chained (g : SavedGang) : Bool := g.blks.any fun b => match b with
  | some x => x.blk.tnames.any fun t => t.2.chain.isSome
  | none => false

/-- Puts the blocks of a gang on harts in turn; none when a core lacks what one needs. -/
def returnAll (s : State) : List (Nat × SavedBlk) → Option State
  | [] => some s
  | (h, x) :: t =>
    match s.returnTo h x with
    | some s' => returnAll (s'.trace (coreOf h) 7 h x.blk.pc (BitVec.ofNat 64 (coreOf h))) t
    | none => none

/-- The blocks of a saved gang as their images hold them. -/
def gangImages (s : State) (g : SavedGang) : List SavedBlk :=
  (savedPositions g).filterMap fun p =>
    match (g.blks[p]?).join, ((g.images[p]?).join).bind s.imageAt with
    | some x, some v => some (readImage v x)
    | x, _ => x

/-- Whether an image of the gang reads uncorrectable data or has a wrong magic or version (R277). -/
def badImages (s : State) (g : SavedGang) : Bool :=
  (savedPositions g).any fun p =>
    match (g.images[p]?).join with
    | some pa => match s.imageAt pa with
      | some v => !v.good
      | none => true
    | none => false

/-- The gang back on a cluster, if it fits there: its blocks, its barriers on the new home core, its area of the save pool free; the stage
queues of a cluster to which it brings a pipeline open (R100). -/
def restoreOn (s : State) (g : SavedGang) (l : Launch) (cl : Nat) : Option State :=
  if !s.serves l.ctx l.dies cl || (chained g && cl != g.gang.cluster) then none
  else
    let ps := savedPositions g
    match s.gangHarts cl ps.length l.packed with
    | none => none
    | some hs =>
      let home := coreOf (hs.headD 0)
      if 2048 < s.barriersUsed home + g.gang.nbar then none
      else
        match (s.openStages l cl).returnAll (hs.zip (s.gangImages g)) with
        | none => none
        | some s' =>
          let members := (ps.zip hs).foldl (fun (m : List (Option Nat)) x => m.set x.1 (some x.2)) g.gang.members
          let s' := s'.setCp fun cp =>
            { cp with
              gangs := cp.gangs ++ [{ g.gang with members := members, home := home, cluster := cl }]
              saved := cp.saved.filter fun y => y.gang.id != g.gang.id
              poolUsed := cp.poolUsed.filter fun y => !g.images.contains (some y.1) }
          some (s'.wakeHarts fun h => hs.contains h)

/-- A saved gang restored on the cluster that R97 chooses among those that can take it. -/
def restoreGang (s : State) (g : SavedGang) : Option State :=
  match s.launchOf g.gang.launch with
  | none => none
  | some l =>
    let open_ := clusters.filterMap fun cl => (s.restoreOn g l cl).map fun s' => (cl, s')
    (minBy (fun (x : Nat × State) => 64 - s.clusterFree x.1) open_).map (·.2)

/-- Whether a saved gang made room for a launch whose next gang has still to come: some of its victims still run, or the gang can be placed
now. The harts that victims leave are that gang's (R120; log entry 20). -/
def heldForStarved (s : State) (g : SavedGang) : Bool :=
  s.cp.launches.any fun l =>
    g.madeRoom == some l.id && l.starvedAt.isSome && !l.aborted && (s.cp.victims.any (fun v => v.launch == l.id) || (s.nextGang l).isSome)

/-- Whether a saved gang is the next to be offered a hart: of the highest PRIO among those that have stopped
and that no starved launch has displaced (R98). -/
def offered (s : State) (g : SavedGang) : Bool :=
  s.savedWhole g && !s.heldForStarved g && !s.cp.saved.any fun y => s.savedWhole y && !s.heldForStarved y && (g.prio < y.prio || (g.prio == y.prio && y.order < g.order))

/-- GANG_RESTORE: the n-th saved gang is restored where it fits; one whose image cannot be read aborts its launch (R276, R277). -/
def gangRestore (s : State) (n : Nat) : State :=
  match s.cp.saved[n]? with
  | none => s
  | some g =>
    if !s.offered g then s
    else if s.badImages g then
      match s.launchOf g.gang.launch, g.blks.findSome? id with
      | some l, some x => s.abortFor l (0xB0 + g.gang.cluster / 10) x.blk 0 { cause := .preempt } 8
      | _, _ => s
    else (s.restoreGang g).getD s

/-- Whether class 1 of R98 has work that can be placed. -/
def restoreDue (s : State) : Bool := s.cp.saved.any fun g => s.offered g && (s.restoreGang g).isSome

/-! ## FORK children (R98, R111, R449) -/

/-- The hart for a child: the nearest to its parent, the lowest number among equals (R111). -/
def childHart (s : State) (k : Child) (l : Launch) : Option Nat :=
  let near := fun (h : Nat) =>
    if coreOf h = coreOf k.home then 0
    else if clusterOf (coreOf h) = clusterOf (coreOf k.home) then 1
    else if dieOf (coreOf h) = dieOf (coreOf k.home) then 2
    else 3
  minBy (fun h => near h * 2048 + h) (((clusters.filter (s.serves l.ctx l.dies)).flatMap clusterCores).flatMap s.freeHarts)

/-- The block of a child at its start (R449). -/
def childBlock (s : State) (k : Child) (l : Launch) (area : Nat) : Block :=
  let b := s.freshBlock l area
  let b := { b with
    child := true, gx := k.gx, gy := k.gy, gz := k.gz, stage := k.stage, gen := k.gen, pc := k.entry
    ctl := { b.ctl with fctl := k.fctl, seed := k.seed, srgn := k.srgn } }
  ((((b.setX 1 k.arg1).setX 2 k.arg2).setX 9 (BitVec.ofNat 64 area)).setX 16 (BitVec.ofNat 64 area)).setX 17 k.parentFrame

/-- Where a pending child goes: as a packed gang of 1, to the cluster with the most free harts (R97, R98, R111 step 2). -/
def pendingHart (s : State) (l : Launch) : Option Nat :=
  (s.bestCluster (clusters.filter (s.serves l.ctx l.dies)) fun cl => s.gangHarts cl 1 true).bind fun x => x.2.head?

/-- A child placed, if a hart and a stack area are free. -/
def placeChild (s : State) (k : Child) : Option State :=
  match s.launchOf k.launch with
  | none => none
  | some l =>
    match (if k.pending then s.pendingHart l else s.childHart k l), (freeAreas l).head? with
    | some h, some a => some (s.startBlock h l a k.parentFrame.toNat (s.childBlock k l a))
    | _, _ => none

/-- FORK_CHILD_PLACE: the n-th child goes to the free hart nearest to its parent, or becomes pending; a pending one waits while nothing is
free or a pre-empted gang comes first (R98, R111). -/
def forkChildPlace (s : State) (n : Nat) : State :=
  match s.cp.children[n]? with
  | none => s
  | some k =>
    if k.pending && s.restoreDue then s
    else
      match s.placeChild k with
      | some s' => s'.setCp fun cp => { cp with children := dropAt cp.children n }
      | none => s.setCp fun cp => { cp with children := cp.children.set n { k with pending := true } }

/-- Whether class 2 of R98 has work that can be placed. -/
def childDue (s : State) : Bool := s.cp.children.any fun k => k.pending && (s.placeChild k).isSome

/-! ## New work (R95 to R98) -/

/-- A launch places a stage block that it lacks, else its next gang. -/
def placeNext (s : State) (l : Launch) : Option State :=
  if l.aborted then none
  else
    match s.stageDue l with
    | some s' => some s'
    | none =>
      (s.nextGang l).map fun x =>
        let s := s.openStages l x.1
        (s.placeGang l l.nextGang 0 (gangAt l l.nextGang) x.2).updLaunch l.id fun l => { l with nextGang := l.nextGang + 1, starvedAt := none }

/-- Whether launch `a` comes before launch `b` in classes 1 and 3 of R98. -/
def launchBefore (a b : Launch) : Bool := b.prio < a.prio || (a.prio == b.prio && a.order < b.order)

/-- GANG_PLACEMENT: a launch places its next gang or stage block, unless work of R98 that comes first can be placed.
The blocks of a gang are placed together, the lower GANGPOS the older (R467). -/
def gangPlacement (s : State) (id : Nat) : State :=
  match s.launchOf id with
  | none => s
  | some l =>
    if s.restoreDue || s.childDue || s.cp.launches.any (fun k => launchBefore k l && (s.placeNext k).isSome) then s
    else (s.placeNext l).getD s

/-- HART_FREE: a free hart is offered to a pre-empted gang, a pending child, a new gang or stage block, in this order (R98). -/
def hartOffer (s : State) (h : Nat) : State :=
  if !s.hartFree h then s
  else
    match s.cp.saved.zipIdx.findSome? fun g =>
        if s.offered g.1 then (if s.badImages g.1 then some (s.gangRestore g.2) else s.restoreGang g.1) else none with
    | some s' => s'
    | none =>
      match s.cp.children.zipIdx.findSome? fun k => if k.1.pending then (s.placeChild k.1).map fun s' => (k.2, s') else none with
      | some (n, s') => s'.setCp fun cp => { cp with children := dropAt cp.children n }
      | none =>
        let order := fun (l : Launch) => (3 - l.prio) * 2 ^ 64 + l.order
        ((minBy order (s.cp.launches.filter fun l => (s.placeNext l).isSome)).bind s.placeNext).getD s

/-! ## Back-pressure (R102) -/

/-- The back-pressured stage of a cluster whose pipelines have up to `n` stages: behind the fullest stage queue, at 16 records or more. -/
def pressedStage (s : State) (n cl : Nat) : Option Nat :=
  let o := fun (i : Nat) => (s.hwq cl (56 + i)).recs.length
  (minBy (fun i => 64 - o i) ((List.range (n - 1)).filter fun i => 16 ≤ o i)).map (· + 1)

/-- The TILE-mode banks of a core of which no unit is used. -/
def unusedBanks (s : State) (c : Nat) : List Nat :=
  let us := s.freeUnits c 0
  (List.range 32).filter fun b => (List.range 8).all fun i => us.contains (8 * b + i)

/-- Lends the free lane groups and unused banks of each core of a cluster that holds a block of the stage of a pipeline; other cores lend
nothing. -/
def lend (s : State) (cl : Nat) (ls : List Launch) (st : Option Nat) : State :=
  (clusterCores cl).foldl (fun (s : State) c =>
    match st with
    | some n =>
      if s.blocks.any fun (e : Nat × Block) => coreOf e.1 == c && e.2.placed && e.2.stage == n && ls.any (fun l => l.id == e.2.launch) then
        let gs := s.freeGroups c
        let bs := s.unusedBanks c
        s.updCore c fun k => { k with lent := gs, lentBanks := bs, lentStage := n }
      else s.updCore c fun k => { k with lent := [], lentBanks := [], lentStage := 0 }
    | none => s.updCore c fun k => { k with lent := [], lentBanks := [], lentStage := 0 }) s

/-- BACKPRESSURE_EVALUATION of a cluster, once in each 4,096 ck: one more block of the back-pressured stage, of the first launch that can
place one, and the lending until the next (R102). A cluster that holds no pipeline any more lends nothing. -/
def backpressure (s : State) (cl : Nat) : State :=
  let ls := s.pipelines cl 1
  let now := s.ck / 4096
  if ls.isEmpty then s.lend cl [] none
  else if aget s.cp.evalAt cl = some now then s
  else
    let s := s.setCp fun cp => { cp with evalAt := aset cp.evalAt cl now }
    let st := s.pressedStage (ls.foldl (fun m l => max m l.stages) 0) cl
    let s := match st with
      | some n => (ls.findSome? fun (l : Launch) => if n < l.stages && !l.aborted then s.placeStage l cl n else none).getD s
      | none => s
    s.lend cl ls st

/-! ## Release of clusters (R99) -/

/-- Whether every hardware queue and ring of a cluster is empty. -/
def queuesEmpty (s : State) (cl : Nat) : Bool :=
  !s.pushes.any (fun p => p.cluster == cl) &&
    s.queues.all fun e => e.1 / 64 != cl ||
      (e.2.recs.isEmpty && e.2.ringCount == 0 && e.2.batch.isNone && e.2.waitPush.isEmpty)

/-- Whether a cluster holds no block and keeps no hart for a parent. -/
def clusterIdle (s : State) (cl : Nat) : Bool :=
  !s.blocks.any (fun (e : Nat × Block) => e.2.placed && clusterOf (coreOf e.1) == cl) &&
    !s.cp.resumes.any fun r => !r.inplace && clusterOf (coreOf r.hart) == cl

/-- CLUSTER_RELEASE (R99). QRING of its queues keeps its value (log entry 98). -/
def clusterRelease (s : State) (cl : Nat) : State :=
  if (aget s.cp.clusterCtx cl).isSome && s.clusterIdle cl && s.queuesEmpty cl then
    s.setCp fun cp => { cp with clusterCtx := adel cp.clusterCtx cl }
  else s

/-! ## Pre-emption (R120, R121, R271) -/

/-- The harts that the blocks of a gang are on. -/
def gangOn (g : Gang) : List Nat := g.members.filterMap fun m => match m with
  | some h => if h = awayHart then none else some h
  | none => none

/-- The gangs of a cluster that a launch may pre-empt, the first victim first (R120). -/
def victimOrder (s : State) (prio cl : Nat) : List Gang :=
  let p := fun (g : Gang) => (s.launchOf g.launch).map (·.prio)
  let o := fun (g : Gang) => ((s.launchOf g.launch).map (·.order)).getD 0
  let gs := s.cp.gangs.filter fun g => g.cluster == cl && (match p g with
    | some q => q < prio
    | none => false) && !(gangOn g).isEmpty
  pickLeast (fun g => (p g).getD 0 * 2 ^ 96 + (2 ^ 63 - o g) * 2 ^ 32 + (2 ^ 32 - 1 - g.index)) gs.length gs

/-- The device as it would be without the blocks of some gangs. -/
def without (s : State) (gs : List Gang) (cl : Nat) : State :=
  let gone := gs.flatMap gangOn
  let s := { s with blocks := s.blocks.filter fun (e : Nat × Block) => !gone.contains e.1 }
  let s := s.setCp fun cp => { cp with gangs := cp.gangs.filter fun g => !gs.any fun x => x.id == g.id }
  s.clusterRelease cl

/-- The fewest victims of a cluster that let the next gang of a launch fit there. -/
def victimsOn (s : State) (l : Launch) (cl : Nat) : Option (List Gang) :=
  let all := s.victimOrder l.prio cl
  ((List.range (all.length + 1)).drop 1).findSome? fun n =>
    let gs := all.take n
    if ((s.without gs cl).gangFits l cl l.gang l.packed).isSome then some gs else none

/-- The first free place of the save pool for an image of `n` units beside what is used. -/
def poolPlace (s : State) (used : List (Nat × Nat)) (n : Nat) : Option Nat :=
  let base := s.plat.savePoolB.toNat
  let size := s.plat.savePoolS.toNat / 4096
  let fits := fun (a : Nat) => a + 4096 * n ≤ base + 4096 * size && used.all fun u => a + 4096 * n ≤ u.1 || u.1 + 4096 * u.2 ≤ a
  minBy id ((base :: used.map fun u => u.1 + 4096 * u.2).filter fits)

/-- Places of the save pool for the images of harts in turn; none when they do not all fit (R121). -/
def poolPlaces (s : State) (used : List (Nat × Nat)) : List (Nat × Nat) → Option (List (Nat × Nat × Nat))
  | [] => some []
  | (h, n) :: t =>
    match s.poolPlace used n with
    | some a => (poolPlaces s (used ++ [(a, n)]) t).map fun l => (h, a, n) :: l
    | none => none

/-- The 4 KiB units that the image of the block on a hart takes. -/
def imageUnits (s : State) (h : Nat) : Nat := cdiv (imageOf (s.savedOf h) 0 0 0).length 4096

/-- Gangs as victims of a starved launch, each block with its place in the save pool; none when the pool does not hold the images of all. -/
def asVictims (s : State) (launch : Nat) (gs : List Gang) : Option (List Victim) :=
  let hs := gs.flatMap fun g => (gangOn g).map fun h => (h, g.id)
  (s.poolPlaces s.cp.poolUsed (hs.map fun x => (x.1, s.imageUnits x.1))).map fun l =>
    (hs.zip l).map fun x => { hart := x.1.1, gang := x.1.2, launch := launch, pa := x.2.2.1, units := x.2.2.2 }

/-- The victims of a starved launch: on the cluster with the fewest pre-empted blocks, the lower number first (R120). -/
def victimsFor (s : State) (l : Launch) : Option (List Gang) :=
  let opts := clusters.filterMap fun cl => if l.dies == 0 || l.dies == 1 + cl / 10 then s.victimsOn l cl else none
  minBy (fun gs => (gs.flatMap gangOn).length) opts

/-- PREEMPTION_STARVATION: the next gang of a launch has been unplaceable for 50 µs: victims are chosen, if the save pool holds their
images (R120, R121). -/
def starvation (s : State) (id : Nat) : State :=
  match s.launchOf id with
  | none => s
  | some l =>
    if l.aborted || gangCount l ≤ l.nextGang then s
    else if (s.nextGang l).isSome then (if l.starvedAt.isSome then s.updLaunch id fun l => { l with starvedAt := none } else s)
    else
      match l.starvedAt with
      | none => s.updLaunch id fun l => { l with starvedAt := some s.ts }
      | some t =>
        if s.ts < t + 50000 || !s.cp.victims.isEmpty then s
        else
          match s.victimsFor l with
          | some gs => match s.asVictims id gs with
            | some vs => s.setCp fun cp => { cp with victims := vs }
            | none => s
          | none => s

/-- Whether an instruction stops only at its completion, so that a pre-emption waits for it (R270). -/
def mustFinish (i : Instr) : Bool :=
  match i with
  | .tlda _ | .tsta _ | .tprobe _ | .taccl _ | .cpass _ | .cinit _ | .tfree _ => true
  | _ => false

/-- Running micro-operations of a block that must end before it can stop. -/
def unstopped (b : Block) : Bool :=
  b.trecs.any fun t => t.begun || t.phase == .running && (mustFinish t.ins || !t.locks.isEmpty || !t.locksLeft.isEmpty || !t.out.isEmpty)

/-- The engines stop the block's started micro-operations at their points, a copy once its accesses under way are answered (R270, R271
step 2). -/
def stopEngines (b : Block) : Block :=
  { b with trecs := b.trecs.map fun t =>
      if t.phase == .running && t.holds && !mustFinish t.ins && t.locks.isEmpty && t.locksLeft.isEmpty && t.out.isEmpty then
        { t with phase := .queued, chunk := 0 }
      else t }

/-- The entry of a gang among the saved ones, made when its first block stops. -/
def savedEntry (s : State) (g : Gang) (v : Victim) : State :=
  if s.cp.saved.any fun x => x.gang.id == g.id then s
  else
    let l := s.launchOf g.launch
    let n := g.members.length
    s.setCp fun cp => { cp with saved := cp.saved ++
      [{ gang := g, prio := (l.map (·.prio)).getD 0, order := (l.map (·.order)).getD 0, images := List.replicate n none
         blks := List.replicate n none, madeRoom := some v.launch }] }

/-- Steps 3 and 4 of R271 for the block on hart `h`: its image goes to the save pool, what it holds returns to the core. When the last
block of the gang has stopped, the gang is saved. -/
def saveBlock (s : State) (h : Nat) (g : Gang) (v : Victim) : State :=
  let b := s.blkAt h
  let x := s.savedOf h
  let img := imageOf x (s.gangIndex b) b.pc b.estart
  let n := cdiv img.length 4096
  let kept := (s.cp.victims.filter fun u => u.hart != h).map fun u => (u.pa, u.units)
  match if n ≤ v.units then some v.pa else s.poolPlace (s.cp.poolUsed ++ kept) n with
  | none => s
  | some pa =>
    let s := s.trace (coreOf h) 6 h b.pc (BitVec.ofNat 64 pa)
    let s := (s.setMs fun m => m.sysWrite none pa img).savedEntry g v
    let s := s.setCp fun cp =>
      { cp with
        poolUsed := cp.poolUsed ++ [(pa, n)]
        saved := mapIf (fun y => y.gang.id == g.id)
          (fun y => { y with images := y.images.set b.gangPos (some pa), blks := y.blks.set b.gangPos (some x) }) cp.saved }
    let s := s.removeBlock h true
    match s.gangOf g.id with
    | some g' =>
      if (gangOn g').isEmpty then
        s.setCp fun cp =>
          { cp with
            gangs := cp.gangs.filter fun y => y.id != g.id
            saved := mapIf (fun y => y.gang.id == g.id) (fun y => { y with gang := g' }) cp.saved }
      else s
    | none => s

/-- PREEMPTION_STOP: a victim issues nothing more; a vector store stops at the first element that it has not sent; its engines stop; its
release is done; its image is written (R270, R271). -/
def preemptStop (s : State) (h : Nat) : State :=
  match s.cp.victims.find? fun v => v.hart == h with
  | none => s
  | some v =>
    match s.gangOf v.gang with
    | none => s.setCp fun cp => { cp with victims := cp.victims.filter fun x => x.hart != h }
    | some g =>
      let b := s.blkAt h
      let still := unstopped b || !b.pend.isEmpty || !stopsInWait b.wait
      -- a trap due in the same ck is taken first (R271)
      if b.stop = 0 then (if (s.trapDue h).isSome then s.tileTrapTaken h else
        s.setBlkAt h (stopEngines { b with stop := 1, estart := BitVec.ofNat 64 (max b.estart.toNat b.sentTo) }))
      else if stopEngines b ≠ b then s.setBlkAt h (stopEngines b)
      else if still then s
      else if b.stop = 1 then
        if (s.focus h).quiescent .device then s.saveBlock h g v
        else if b.sq.length < 16 then
          s.setBlkAt h { b with stop := 2, sq := b.sq ++ [.release .device none false .drain false] }
        else s
      else if b.sq.isEmpty && b.unacked.isEmpty then s.saveBlock h g v
      else s

end State

def execGangPlacement (launch : Nat) (s : State) : Out := .next (s.gangPlacement launch)
def execForkChildPlace (n : Nat) (s : State) : Out := .next (s.forkChildPlace n)
def execHartFree (h : Nat) (s : State) : Out := .next (s.hartOffer h)
def execBackpressureEvaluation (cluster : Nat) (s : State) : Out := .next (s.backpressure cluster)
def execClusterRelease (cluster : Nat) (s : State) : Out := .next (s.clusterRelease cluster)
def execPreemptionStarvation (launch : Nat) (s : State) : Out := .next (s.starvation launch)
def execPreemptionStop (h : Nat) (s : State) : Out := .next (s.preemptStop h)
def execGangRestore (n : Nat) (s : State) : Out := .next (s.gangRestore n)

end Sys2Proof.Machine
end

