-- ==== Sys2Proof/Machine/Events.lean ====
section
/-! DEFINITION. Events of a context, SIGNAL and TIME (spec 17 R453 to R456; spec 03 R52). -/

namespace Sys2Proof.Machine

namespace State

/-- The count of an event of a context (R453). -/
def eventCount (s : State) (ctx e : Nat) : Word := ((s.context ctx).bind fun c => aget c.events e).getD 0

/-- Adds 1 to an event's count. -/
def bumpEvent (s : State) (ctx e : Nat) : State :=
  match s.context ctx with
  | some c => s.setContext ctx { c with events := aset c.events e ((aget c.events e).getD 0 + 1) }
  | none => s

end State

/-- The event that EVSIG and EVWAIT name (R454). -/
def eventOf (f : FmtQ) (s : State) : Nat := (s.getX f.a + addendQ f).toNat

/-- EVSIG: a release, the count goes up, every hart of the device wakes (R454, R349). -/
def execEvsig (f : FmtQ) (s : State) : Out :=
  guarded f.gm f.lit [f.a] none (fun s =>
    let e := eventOf f s
    if 255 < e || e = 0 then s.raise .perm f.lit
    else s.afterRelease .device f.lit fun s => ((s.bumpEvent s.blk.ctx e).wakeHarts fun _ => true).advance f.lit) s

/-- EVWAIT: completes as an acquire once the count has reached X[b] (R454). -/
def execEvwait (f : FmtQ) (s : State) : Out :=
  guarded f.gm f.lit [f.a, f.b] (some f.d) (fun s =>
    let e := eventOf f s
    let v := s.getX f.b
    let n := s.eventCount s.blk.ctx e
    if 255 < e then s.raise .perm f.lit
    else if v.toNat ≤ n.toNat then ((s.acquireAt .device).writeX f.d n).advance f.lit
    else s.issueWait (.evwait e v f.d)) s

/-- EVWAIT_SATISFIED: a waiting EVWAIT whose count has been reached completes (R454). -/
def execEvwaitSatisfied (h : Nat) (s : State) : Out :=
  match (s.blkAt h).wait with
  | some (.evwait e v d) =>
    let n := s.eventCount (s.blkAt h).ctx e
    .next (if v.toNat ≤ n.toNat then s.finishAcquire h fun s => s.writeX d n else s)
  | _ => .next s

/-- SIGNAL: a SYSTEM-scope release whose write is a store of X[b], or an add at the home or target (R455). -/
def signalOp (add : Bool) (f : FmtQ) (s : State) : Out :=
  guarded f.gm f.lit [f.a, f.b] none (fun s =>
    let va := (s.getX f.a + f.lit.getD (f.imm.signExtend 64)).toNat
    if (s.blk.releasing && s.blk.rel == .none) || !s.sqRoom then s.waitFor .retry
    else
      s.access .store .store va 8 f.lit fun s pa =>
        let host := match aperture pa with
          | .host _ => true
          | _ => false
        if add && host then s.raiseA .perm .store va 0 f.lit
        else
          let push := fun (s : State) =>
            (s.sqPush (.release .system (some (pa, 8, (s.getX f.b).toNat)) add .drain false)).advance f.lit
          if s.peerWrites || s.blk.rel != .none then s.afterRelease .system f.lit push else push s) s

def execSignal (f : FmtQ) (s : State) : Out := signalOp false f s
def execSignalAdd (f : FmtQ) (s : State) : Out := signalOp true f s

/-- TIME: the device timestamp (R456, R45). -/
def execTime (f : FmtQ) (s : State) : Out :=
  guarded f.gm f.lit [] (some f.d) (fun s => (s.writeX f.d (BitVec.ofNat 64 s.ts)).advance f.lit) s

end Sys2Proof.Machine
end

