-- ==== Sys2Proof/Machine/Sha.lean ====
section
/-! DEFINITION. SHAKE256 with 512 bits of output, which the spec names and does not give: FIPS 202 (PRESUMED, log entry 21). -/

namespace Sys2Proof.Machine

/-- The shift register of the round constants, a step on: x^8 + x^6 + x^5 + x^4 + 1 over GF(2). -/
def iotaStep (r : Nat) : Nat := if r < 128 then 2 * r else (2 * r) ^^^ 0x171

/-- A round constant from the register: its next seven output bits stand at bits 0, 1, 3, 7, 15, 31 and 63; and the register after them. -/
def iotaWord : Nat → Nat → Nat → Nat → Nat × Nat
  | 0, _, r, v => (v, r)
  | n + 1, bit, r, v => iotaWord n (2 * bit + 1) (iotaStep r) (v + (r % 2) <<< bit)

/-- The constants of `n` rounds. -/
def iotaWords : Nat → Nat → List Word
  | 0, _ => []
  | n + 1, r => let x := iotaWord 7 0 r 0
    BitVec.ofNat 64 x.1 :: iotaWords n x.2

/-- The way of ρ and π through the lanes but (0, 0): at its t-th place (x, y), reached after turning by the offsets 1, 3, 6, …, the lane
moves to (y, 2 x + 3 y). Each entry is the lane's old place, its turn, its new place, as x + 5 y. -/
def laneWalk : Nat → Nat → Nat → Nat → Nat → List (Nat × Nat × Nat)
  | 0, _, _, _, _ => []
  | n + 1, x, y, t, turn =>
    let z := (2 * x + 3 * y) % 5
    (x + 5 * y, turn % 64, y + 5 * z) :: laneWalk n y z (t + 1) (turn + t + 1)

/-- The sum of a column. -/
def column (a : List Word) (x : Nat) : Word := ((a.drop x).foldl (fun (s : Nat × Word) w => (s.1 + 1, if s.1 % 5 = 0 then s.2 ^^^ w else s.2)) (0, 0)).2

/-- θ: every lane takes the columns on its left and, turned by one, on its right. -/
def theta (a : List Word) : List Word :=
  let side := (List.range 5).map fun x => column a ((x + 4) % 5) ^^^ (column a ((x + 1) % 5)).rotateLeft 1
  a.zipWith (· ^^^ ·) (side ++ side ++ side ++ side ++ side)

/-- ρ and π: the lanes go round their way; lane (0, 0) stays. -/
def rhoPi (a : List Word) : List Word :=
  (laneWalk 24 1 0 1 1).foldl (fun b e => b.set e.2.2 (((a[e.1]?).getD 0).rotateLeft e.2.1)) a

/-- χ on a row of five lanes. -/
def chiRow : List Word → List Word
  | [a, b, c, d, e] => [a ^^^ (~~~b &&& c), b ^^^ (~~~c &&& d), c ^^^ (~~~d &&& e), d ^^^ (~~~e &&& a), e ^^^ (~~~a &&& b)]
  | r => r

/-- χ on `n` rows. -/
def chi : Nat → List Word → List Word
  | 0, _ => []
  | n + 1, a => chiRow (a.take 5) ++ chi n (a.drop 5)

/-- One round of Keccak-f[1600] with the constant `k` of ι. -/
def keccakRound (a : List Word) (k : Word) : List Word := (chi 5 (rhoPi (theta a))).modify 0 (· ^^^ k)

/-- Keccak-f[1600]: 24 rounds. -/
def keccakF (a : List Word) : List Word := (iotaWords 24 1).foldl keccakRound a

/-- Absorbs blocks of 136 bytes. -/
def absorb : Nat → List Word → List Byte → List Word
  | 0, a, _ => a
  | n + 1, a, m =>
    let block := (List.range 17).map fun i => BitVec.ofNat 64 (ofLe ((m.drop (8 * i)).take 8))
    absorb n (keccakF (a.zipWith (· ^^^ ·) (block ++ List.replicate 8 0))) (m.drop 136)

/-- The padded message: suffix 1111, then pad10*1. -/
def shakePad (m : List Byte) : List Byte :=
  let k := 136 - m.length % 136
  m ++ (if k = 1 then [0x9F] else 0x1F :: List.replicate (k - 2) 0 ++ [0x80])

/-- SHAKE256 with 64 bytes of output. -/
def shake256 (m : List Byte) : List Byte :=
  let p := shakePad m
  let a := absorb (p.length / 136) (List.replicate 25 0) p
  (a.take 8).flatMap fun w => leBytes 8 w.toNat

end Sys2Proof.Machine
end

