-- ==== Sys2Proof/Machine/System.lean ====
section
/-! DEFINITION. Group 8 but ERET, with the debug halt, bank and slice conversions, invalidation of translations, and measurement
(spec 01 R22 to R29; spec 02 R33, R36, R46; spec 03 R48, R49, R56, R60, R65, R66; spec 05 R103, R115; spec 07 R153, R154, R163, R164, R171, R183,
R472; spec 09 R257 to R259; spec 10 R278 to R281; spec 11 R288 to R291; spec 17 R457 to R465). -/

namespace Sys2Proof.Machine

/-- imm26 or the literal as a number (R457). -/
def valueY (f : FmtY) : Word := f.lit.getD (f.imm.setWidth 64)

/-- imm26 sign-extended, or the literal. -/
def signedY (f : FmtY) : Word := f.lit.getD (f.imm.signExtend 64)

/-! ## Debug halt (R278 to R281) -/

namespace State

/-- Whether a micro-operation of the block still runs under a freeze: one that has an engine, an answer of the command processor to come, or
a TPROBE that has begun; a stream stands still (R270, R280). -/
def runsOps (b : Block) : Bool := b.trecs.any fun t => t.begun || t.phase == .running && (t.holds || (match t.ins with
  | .cinit _ => true
  | _ => false))

/-- HALTSTAT as it reads: QUIET, FROZEN and TRAPPEND follow from the sequencer (R278, R279, R280). -/
def haltstatOf (b : Block) : Word :=
  let v := b.ctl.haltstat
  let frozen := v.getLsbD 4 && !runsOps b
  let quiet := frozen || !b.trecs.any fun t => t.phase == .running || t.phase == .queued
  let pend := v.getLsbD 0 && (match b.live.head? with
    | some t => t.fault.isSome
    | none => false)
  (v &&& 0xFF39) ||| (if quiet then 2 else 0) ||| (if frozen then 4 else 0) ||| (if pend then 0x80 else 0)

/-- A halt ends: issue goes on, stopped micro-operations restart, the wake latch is set (R278, R280, R349). REASON reads 0 again (log
entry 22). -/
def endHalt (s : State) (h : Nat) : State :=
  let b := s.blkAt h
  if !b.ctl.haltstat.getLsbD 0 then s
  else
    (s.trace (coreOf h) 5 h b.pc 0).setBlkAt h
      { b with ctl := { b.ctl with haltstat := b.ctl.haltstat &&& 0x20 }, wake := true, skipBp := true }

/-- A request of a debug halt: HALTREQ := 1 (R279). -/
def askHalt (s : State) (h : Nat) : State := if (s.blkAt h).ctl.haltstat.getLsbD 0 then s else s.haltHart h 1

/-- FREEZEREQ := 1: the hart halts and its micro-operations stop (R280). -/
def askFreeze (s : State) (h : Nat) : State :=
  (s.askHalt h).updBlkAt h fun b => stopEngines { b with ctl := { b.ctl with haltstat := b.ctl.haltstat ||| 0x10 } }

/-- A write of HALTSTAT's STEP, FREEZEREQ and HALTREQ (R278). -/
def writeHaltstat (s : State) (h : Nat) (v : Word) : State :=
  let s := s.updBlkAt h fun b =>
    { b with ctl := { b.ctl with haltstat := (b.ctl.haltstat &&& ~~~(0x20 : Word)) ||| (v &&& 0x20) } }
  let old := (s.blkAt h).ctl.haltstat
  if v.getLsbD 4 && !old.getLsbD 4 then s.askFreeze h else if v.getLsbD 3 then s.askHalt h else s.endHalt h

/-! ## Device registers (R22 to R29, R33, R36, R46, R48, R49, R56, R121, R164, R171) -/

/-- A number as fields: (shift, value). -/
def packFields (l : List (Nat × Nat)) : Word := BitVec.ofNat 64 (l.foldl (fun n f => n + f.2 <<< f.1) 0)

/-- The identity block (R22 to R29). -/
def identity (p : Platform) (i : Nat) : Word :=
  match i with
  | 0 => packFields [(48, 0x4E44), (32, 0x0509), (24, p.step.toNat), (16, 1), (8, p.clkbin.toNat)]
  | 1 => p.serial
  | 2 => packFields [(60, 2), (56, 0xA), (52, 8), (48, 8), (40, 0x80), (32, 0x80), (20, 0x800), (12, 0x20)]
  | 3 => packFields [(60, 0xC), (54, 0x24), (48, 0x10), (43, 0x10), (38, 0xC), (32, 0xD), (24, 0x2E), (16, 0x35)]
  | 4 => p.memrate.setWidth 64
  | 5 => p.fuseN
  | 6 => p.fuseS
  | _ => packFields [(56, 7), (47, 0x120), (38, 0x103)]

def bootstat (p : Platform) : Word := packFields [(12, p.bootState), (8, p.failStk), (0, p.bootCause)]

/-- LASTOFF: the last offset in ns, saturated (R46). -/
def lastOff (p : Platform) : Nat := (max (-32767) (min 32767 p.lastOff) % 65536).toNat

def tsctl (p : Platform) : Word :=
  packFields [(48, p.tsctlRootDev), (32, if p.tsctlRoot then 1 else 0), (31, if p.synced then 1 else 0), (0, lastOff p)]

def agestat (p : Platform) : Word :=
  packFields [(48, min p.hours 65535), (40, p.margin), (32, p.worstMon), (24, p.pendBin), (16, p.voff)]

def scrmap (p : Platform) : Word := packFields ((List.range 12).map fun i => (4 * i, (p.scrWays[i]?).getD 0))

def meshwt (p : Platform) : Word := packFields [(12, p.meshLat), (8, p.meshBulk), (4, p.meshRsp), (0, p.meshCtl)]

def pwrramp (p : Platform) : Word := packFields [(16, p.pwrFall), (0, p.pwrRise)]

/-- The stored value of a field of PWRRAMP (R48). -/
def rampField (n : Nat) : Nat := max 50 (min 400 n)

def setPwrramp (v : Word) (p : Platform) : Platform :=
  { p with pwrFall := rampField (field v.toNat 16 16), pwrRise := rampField (field v.toNat 0 16) }

def setPwrfloor (v : Word) (p : Platform) : Platform := { p with pwrFloor := min 90 (field v.toNat 0 8) }

/-- The stored value of QRING (R103). -/
def qringStored (v : Word) : Word :=
  let n := v.toNat % 64
  (v &&& ~~~63) ||| (if n = 0 then 0 else if n < 5 then 5 else if 20 < n then 20 else BitVec.ofNat 64 n)

/-- Whether a hardware queue is a stage queue of a launch that runs on the cluster (R100). -/
def stageQueue (s : State) (cl q : Nat) : Bool :=
  56 ≤ q && s.cp.launches.any fun l => q - 56 + 1 < l.stages && s.blocks.any fun (e : Nat × Block) =>
    e.2.placed && e.2.launch == l.id && clusterOf (coreOf e.1) == cl

/-- SETC to QRING: ignored while the ring holds records or a batch is in flight, and for a stage queue (R103, R100). -/
def writeQring (s : State) (q : Nat) (v : Word) : State :=
  let cl := s.myCluster
  let x := s.hwq cl q
  if x.ringCount ≠ 0 || x.batch.isSome || s.stageQueue cl q then s
  else s.setHwq cl q { x with qring := qringStored v, ringHead := 0, ringCount := 0 }

/-! ## GETC and SETC (R288 to R291, R458) -/

/-- BANKMODE (R153). -/
def bankmode (c : Core) : Word :=
  packFields ((List.range 32).map fun b => (2 * b, match c.banks[b]? with
    | some .cache | none => 0
    | some .tile => 1
    | some .fifo => 2
    | some (.switching _ _) => 3))

/-- The value of a control register for the hart in focus. -/
def ctlRead (s : State) (n : Nat) : Word :=
  let b := s.blk
  let nat := fun (x : Nat) => BitVec.ofNat 64 x
  if n = 0x000 then nat (s.cur % 8)
  else if n = 0x001 then nat (s.myCore % 8)
  else if n = 0x002 then nat (s.myCluster % 10)
  else if n = 0x003 then nat (dieOf s.myCore)
  else if n = 0x004 then nat b.gx
  else if n = 0x005 then nat b.gy
  else if n = 0x006 then nat b.gz
  else if n = 0x007 then nat b.gangPos
  else if n = 0x008 then nat b.stage
  else if n = 0x009 then nat b.lanes
  else if n = 0x00A then b.estart
  else if n = 0x00C then nat b.gen
  else if n = 0x018 then (if (s.core s.myCore).schedPol then 1 else 0)
  else if n = 0x019 then bankmode (s.core s.myCore)
  else if n = 0x01A then pwrramp s.plat
  else if n = 0x01B then nat s.plat.pwrFloor
  else if n = 0x028 then haltstatOf b
  else if 0x100 ≤ n && n < 0x140 then (s.hwq s.myCluster (n - 0x100)).qring
  else ctlGet b n

/-- Whether a control register is one that K-level code may not name (R289). -/
def ctlPriv (n : Nat) : Bool := (0x020 ≤ n && n < 0x028) || (0x030 ≤ n && n < 0x03C)

/-- Whether GETC and SETC of a register wait for every older tile instruction (R239, R288). -/
def ctlWaits (n : Nat) : Bool := n == 0x010 || n == 0x00B

/-- SETC's effect; read-only registers ignore it (R288). -/
def ctlWrite (s : State) (n : Nat) (v : Word) : State :=
  let sup := s.blk.level == .s
  if n = 0x018 then s.updCore s.myCore fun c => { c with schedPol := v.getLsbD 0 }
  else if n = 0x01A then (if sup then s.setPlat (setPwrramp v) else s)
  else if n = 0x01B then (if sup then s.setPlat (setPwrfloor v) else s)
  else if n = 0x028 then (if sup then s.writeHaltstat s.cur v else s)
  else if 0x100 ≤ n && n < 0x140 then s.writeQring (n - 0x100) v
  else s.updBlk fun b => ctlPut b n v

end State

/-- The frame of GETC and SETC: PRIV, then the wait for tile instructions. -/
def ctlOp (f : FmtY) (srcs : List (BitVec 6)) (dst : Option (BitVec 6)) (body : State → State) (s : State) : Out :=
  guarded f.gm f.lit srcs dst (fun s =>
    if State.ctlPriv f.c.toNat && s.blk.level == .k then s.raise .priv f.lit
    else if State.ctlWaits f.c.toNat && !s.blk.live.isEmpty then s.waitFor .retry
    else body s) s

def execGetc (f : FmtY) (s : State) : Out :=
  ctlOp f [] (some f.d) (fun s => (s.writeX f.d (s.ctlRead f.c.toNat)).advance f.lit) s

def execSetc (f : FmtY) (s : State) : Out :=
  ctlOp f [f.a] none (fun s =>
    let v := s.getX f.a + signedY f
    let s := s.ctlWrite f.c.toNat v
    let halted := s.blk.ctl.haltstat.getLsbD 0
    (s.advance f.lit).updBlk fun b => { b with skipBp := b.skipBp || halted }) s

/-! ## HALT, SUSPEND, RESUMEB, TRACE (R463, R464) -/

/-- HALT: REASON 5. -/
def execHalt (f : FmtY) (s : State) : Out :=
  privileged f.gm f.lit [] none (fun s => ((s.haltHart s.cur 5).advance f.lit).updBlk fun b => { b with skipBp := true }) s

/-- The naming rules of SUSPEND and RESUMEB: no hart or no block does nothing, another context raises PERM. -/
def onNamedHart (f : FmtY) (act : State → Nat → State) (s : State) : Out :=
  privileged f.gm f.lit [f.a] none (fun s =>
    let h := (s.getX f.a).toNat
    if 1279 < h || !(s.blkAt h).placed then s.advance f.lit
    else if (s.blkAt h).ctx ≠ s.blk.ctx then s.raise .perm f.lit
    else act s h) s

/-- SUSPEND: HALTREQ := 1 on a hart of the same context; it completes as that hart reads HALTED = 1. -/
def execSuspend (f : FmtY) (s : State) : Out :=
  onNamedHart f (fun s h =>
    let t := (s.askHalt h).advance f.lit
    if h = s.cur then t.updBlk fun b => { b with skipBp := true } else t) s

/-- RESUMEB: HALTREQ := 0. -/
def execResumeb (f : FmtY) (s : State) : Out := onNamedHart f (fun s h => (s.endHalt h).advance f.lit) s

/-- TRACE: a record of kind 1. -/
def execTrace (f : FmtY) (s : State) : Out :=
  guarded f.gm f.lit [f.a] none (fun s => (s.trace s.myCore 1 s.cur s.blk.pc (s.getX f.a + signedY f)).advance f.lit) s

/-! ## PROBEV and NBRD (R464) -/

/-- What PROBEV reads by index. -/
def probeWord (p : Platform) (i : Nat) : Word :=
  if i < 8 then State.identity p i
  else if i = 8 then State.bootstat p
  else if i = 9 then BitVec.ofNat 64 p.rank
  else if i = 10 then State.tsctl p
  else if i = 11 then State.agestat p
  else if i = 12 then State.scrmap p
  else if i = 13 then State.meshwt p
  else if i = 14 then p.savePoolB
  else p.savePoolS

def execProbev (f : FmtY) (s : State) : Out :=
  privileged f.gm f.lit [] (some f.d) (fun s => (s.writeX f.d (probeWord s.plat f.c.toNat)).advance f.lit) s

/-- The class of a numeric behaviour record: 0 float, 1 integer, 2 X, 3 QI, 4 scan; none for a pair that is not accepted (R248, R257). -/
def nbClass (a b : Nat) : Option Nat :=
  if a = 0x3F && b = 0x3F then some 4
  else
    match classA a, classA b with
    | some 3, some 0 => some 3
    | some x, some y => if x = y && x < 3 then some x else none
    | _, _ => none

/-- NBW0 of a class (R257, R259). -/
def nbw0 (k a b : Nat) : Word :=
  let scan := k = 4
  let pl := if scan then 0 else planes a
  State.packFields
    [(63, 1), (60, k), (54, a), (48, b), (42, if scan then 0x10 else if k = 1 then 0x21 else 0x20), (34, if scan then 64 else 96),
     (26, if scan then 53 else if k = 1 then 96 else 80), (22, pl), (18, cdiv pl 2), (10, if scan then 8 else 0),
     (9, if k = 2 || k = 3 then 1 else 0), (8, if k = 3 then 1 else 0), (7, if k = 3 then 1 else 0)]

/-- NBW1 of a class (R258, R259). -/
def nbw1 (k : Nat) : Word :=
  let v := fun (l : List Nat) => (l[k]?).getD 0
  State.packFields
    [(60, v [1, 1, 1, 1, 3]), (56, v [2, 6, 2, 2, 3]), (52, v [0, 0, 2, 2, 0]), (48, v [0, 0, 5, 2, 0]), (44, 4), (42, 0), (40, 1),
     (38, v [1, 0, 1, 1, 1]), (36, v [1, 2, 1, 1, 1]), (34, v [0, 0, 0, 0, 1])]

/-- The word that a selector of NBRD names; of a pair that is not accepted, 0 (R257, R464). -/
def nbWord (sel : Word) : Word :=
  let a := field sel.toNat 0 6
  let b := field sel.toNat 6 6
  match nbClass a b with
  | none => 0
  | some k => if sel.getLsbD 12 then nbw1 k else nbw0 k a b

def execNbrd (f : FmtY) (s : State) : Out :=
  guarded f.gm f.lit [f.a] (some f.d) (fun s => (s.writeX f.d (nbWord (s.getX f.a + signedY f))).advance f.lit) s

/-! ## BANKCFG (R154, R460) -/

/-- The bank mode of a code. -/
def bankModeOf (n : Nat) : BankMode := if n = 0 then .cache else if n = 1 then .tile else .fifo

namespace State

/-- Whether a bank may leave its mode (R154 step 1). -/
def bankFree (s : State) (c b : Nat) : Bool :=
  let k := s.core c
  match k.banks[b]? with
  | some .tile => let us := s.freeUnits c 0; (List.range 8).all fun i => us.contains (8 * b + i)
  | some .fifo => (List.range 4).all fun i => ((aget k.dataq (4 * b + i)).getD {}).bound.isNone
  | _ => true

/-- The BANKCFG in focus joins those of its bank that wait; its turn comes when it is the first of them (R154). -/
def joinBank (s : State) (b : Nat) : State :=
  s.updCore s.myCore fun k => if k.bankWait.contains (b, s.cur) then k else { k with bankWait := k.bankWait ++ [(b, s.cur)] }
def bankTurn (s : State) (b : Nat) : Bool :=
  match (s.core s.myCore).bankWait.find? fun x => x.1 == b with
  | some x => x.2 == s.cur
  | none => true
def leaveBank (s : State) (b : Nat) : State := s.updCore s.myCore fun k => { k with bankWait := k.bankWait.filter (· != (b, s.cur)) }

def setBank (s : State) (c b : Nat) (m : BankMode) : State := s.updCore c fun k => { k with banks := k.banks.setIfInBounds b m }

/-- The way of a bank leaves the L1: its dirty bytes are written back, with acknowledgements that the hart in focus awaits. -/
def evictWay (s : State) (c b : Nat) : State :=
  let lines := (s.core c).l1.filter fun l => l.way == b
  let s := s.updCore c fun k => { k with l1 := k.l1.filter fun l => l.way != b }
  lines.foldl (fun (s : State) l =>
    if l.dirty = 0 then s
    else
      let (id, s) := s.fresh
      (s.sendWriteBack c s.cur id l).updBlk fun b => { b with unacked := b.unacked ++ [(id, stackOf (l.line * 64))] }) s

/-- BANK_SWITCH_FINISH: a switching bank takes its mode 1,024 ck after its last write-back was acknowledged (R154 step 3). -/
def bankFinish (s : State) (c b : Nat) : State :=
  match (s.core c).banks[b]? with
  | some (.switching m since) =>
    let w := (s.blocksOf c).find? fun e => match e.2.wait with
      | some (.bank b' _) => b' == b
      | _ => false
    let acked := match w with
      | some e => e.2.unacked.isEmpty
      | none => true
    if !acked then s
    else if since = 0 then s.setBank c b (.switching m (max 1 s.ck))
    else if s.ck < since + 1024 then s
    else
      let s := s.setBank c b (bankModeOf m)
      let s := if m = 2 then s.updCore c fun k => { k with dataq := k.dataq.filter fun e => e.1 / 4 != b } else s
      match w with
      | some e => s.onHart e.1 finishOp
      | none => s
  | _ => s

end State

/-- BANKCFG: privileged; those of one bank are performed one at a time in issue order, each making its check when it starts (R154). -/
def execBankcfg (f : FmtY) (s : State) : Out :=
  privileged f.gm f.lit [] none (fun s =>
    let c := s.myCore
    let b := f.c.toNat
    let m := (valueY f).toNat
    match (s.core c).banks[b]? with
    | none => s.raise .illop f.lit
    | some (.switching _ _) => (s.joinBank b).waitFor .retry
    | some old =>
      if !s.bankTurn b || (old = .cache && old ≠ bankModeOf m && (!s.blk.pend.isEmpty || !s.blk.sq.isEmpty || !s.blk.unacked.isEmpty)) then
        (s.joinBank b).waitFor .retry
      else
        let s := s.leaveBank b
        if old = bankModeOf m then s.advance f.lit
        else if !s.bankFree c b then s.raise .tilestate f.lit
        else
          let s := if old = .cache then s.evictWay c b else s
          (s.setBank c b (.switching m 0)).issueWait (.bank b m)) s

def execBankSwitchFinish (core bank : Nat) (s : State) : Out := .next (s.bankFinish core bank)

/-! ## L2CFG (R163, R460) -/

namespace State

/-- Whether a Mace lock stands on a line in ways that a conversion concerns (R163). -/
def conversionLocked (s : State) (t lo hi : Nat) : Bool :=
  s.ms.locks.any fun k => stackOf k.line == t &&
    (match aperture k.line with
      | .scratch _ off => lo * 0x200000 ≤ off && off < hi * 0x200000
      | _ => match s.ms.sliceLine k.line with
        | some l => lo ≤ l.way && l.way < hi
        | none => false)

/-- The scratch bytes of ways `lo` to `hi − 1` of a stack become what an unlisted byte is: zero (R163; log entry 1). -/
def clearScratch (s : State) (t lo hi : Nat) : State :=
  let keep : Host.Cell → Bool := fun c =>
    match aperture c.1 with
    | .scratch t' off => !(t' == t && lo * 0x200000 ≤ off && off < hi * 0x200000)
    | _ => true
  s.setMs fun m => { m with mem := m.mem.filter keep }

/-- L2CFG_COMPLETE: the ways of a stack change, the hart that waits goes on, and the next L2CFG of the stack starts (R163). -/
def l2Finish (s : State) (t : Nat) : State :=
  match aget s.plat.scrTarget t with
  | none => s
  | some n =>
    let old := (s.plat.scrWays[t]?).getD 0
    let lo := min old n
    let hi := max old n
    if s.conversionLocked t lo hi then s
    else
      let lines := if old < n then s.ms.slice.filter fun l => l.stack == t && lo ≤ l.way && l.way < hi else []
      let s := lines.foldl (fun (s : State) l => s.setMs fun m => m.evictLine l) s
      let next := (s.plat.scrWait.find? fun x => x.1 == t).map (·.2.2)
      let done := s.blocks.find? fun (e : Nat × Block) => e.2.wait == some (.l2cfg t) && !s.plat.scrWait.any fun x => x.1 == t && x.2.1 == e.1
      let s := (s.clearScratch t lo hi).setPlat fun p =>
        { p with
          scrWays := p.scrWays.setIfInBounds t n
          scrTarget := match next with
            | some m => aset p.scrTarget t m
            | none => adel p.scrTarget t
          scrWait := match firstIdx (fun x => x.1 == t) p.scrWait with
            | some i => dropAt p.scrWait i
            | none => p.scrWait }
      match done with
      | some e => s.onHart e.1 finishOp
      | none => s

end State

def execL2cfg (f : FmtY) (s : State) : Out :=
  privileged f.gm f.lit [f.a] none (fun s =>
    let t := f.c.toNat
    let n := min (s.getX f.a + valueY f).toNat 12
    (s.setPlat fun p =>
      if (aget p.scrTarget t).isSome then { p with scrWait := p.scrWait ++ [(t, s.cur, n)] }
      else { p with scrTarget := aset p.scrTarget t n }).issueWait (.l2cfg t)) s

def execL2cfgComplete (stack : Nat) (s : State) : Out := .next (s.l2Finish stack)

/-! ## Invalidation of translations (R183, R472) -/

/-- The virtual address of a page base of 53 bits, canonical in 64. -/
def canonVa (p : Nat) : Nat := if p < 2 ^ 52 then p else p + (2 ^ 64 - 2 ^ 53)

/-- Whether a page of 2^log2 bytes holds a byte of a range that wraps at 2^64 (R472). -/
def pageInRange (page log2 lo len : Nat) : Bool :=
  let a := canonVa page
  let hit := fun (x y : Nat) => a < y && x < a + 2 ^ log2
  len != 0 && (hit lo (min (lo + len) (2 ^ 64)) || hit 0 (lo + len - 2 ^ 64))

/-- Whether an invalidation affects a translation. -/
def affects (ctx : Nat) (all : Bool) (lo len : Nat) (x : Xlat) : Bool := x.ctx == ctx && (all || pageInRange x.page x.log2 lo len)

namespace State

/-- Whether a walk under way may return a translation that an invalidation affects: the largest page around its address, of 8 GiB, has a
byte of the range (R183 step 4). -/
def mayReturn (ctx : Nat) (all : Bool) (lo len : Nat) (m : Miss) : Bool :=
  m.ctx == ctx && (m.started || m.done) && (all || pageInRange (m.va % 2 ^ 53 / 2 ^ 33 * 2 ^ 33) 33 lo len)

/-- Step 1: translations leave every TLB and cache. What walks under way return is installed nowhere (step 4); prefetches that wait for one
are not made. -/
def dropXlats (s : State) (ctx : Nat) (all : Bool) (lo len : Nat) : State :=
  let hit := affects ctx all lo len
  { s with
    cores := s.cores.map fun e =>
      (e.1, { e.2 with
        tlb := e.2.tlb.filter fun x => !hit x
        prefWait := e.2.prefWait.filter fun p => (s.blkAt p.1).ctx != ctx })
    ms := { s.ms with
      dieCache := s.ms.dieCache.filter fun e => !hit e.2
      upper := s.ms.upper.filter fun u => u.2.ctx != ctx
      misses := mapIf (mayReturn ctx all lo len) (fun m => { m with stale := true }) s.ms.misses } }

/-- Step 2: tokens that hold an affected page are revoked, those of saved images too; one that a later instruction names has been named
(step 3). -/
def revoke (s : State) (ctx : Nat) (all : Bool) (lo len : Nat) : State :=
  let mark := fun (b : Block) =>
    { b with tokens := b.tokens.map fun t =>
        if !t.revoked && t.pages.any (affects ctx all lo len) then { t with revoked := true, named := false } else t }
  let saved := fun (y : SavedBlk) => { y with blk := mark y.blk }
  { s with
    blocks := s.blocks.map fun e => (e.1, mark e.2)
    cp := { s.cp with
      saved := s.cp.saved.map fun g => { g with blks := g.blks.map fun b => b.map saved }
      images := s.cp.images.map fun e => (e.1, saved e.2) } }

/-- Begins an invalidation: what it waits for is noted (R183 steps 3 and 4). -/
def beginInval (s : State) (ctx : Nat) (all : Bool) (lo len : Nat) (hart queue : Option Nat) : Nat × State :=
  let s := (s.dropXlats ctx all lo len).revoke ctx all lo len
  let mine := s.blocks.filter fun (e : Nat × Block) => e.2.placed && e.2.ctx == ctx
  let tokens := mine.flatMap fun e =>
    if hart = some e.1 then [] else (e.2.tokens.filter fun t => t.revoked && !t.named).map fun t => (e.1, e.2.age, t.seq)
  let copies := mine.flatMap fun e =>
    (e.2.trecs.filter fun t => t.held.any (affects ctx all lo len)).map fun t => (e.1, e.2.age, t.seq)
  let busy := (mine.filter fun e => !(e.2.sq.isEmpty && e.2.pend.isEmpty && e.2.unacked.isEmpty)).map fun e => (e.1, e.2.age)
  let walks := mine.flatMap fun e =>
    ((s.ms.misses.filter fun m => mayReturn ctx all lo len m && (m.waiters.contains e.1 || m.waiters.contains (engineWaiter e.1))).map fun m =>
      (e.1, e.2.age, m.vpn)) ++
    (((e.2.xbuf ++ e.2.ebuf).filter fun y => y.res.any (affects ctx all lo len)).map fun y => (e.1, e.2.age, y.page / 8192))
  let id := s.cp.nextInval
  let x : Inval := { id := id, ctx := ctx, lo := lo, len := len, all := all, hart := hart, queue := queue, tokens := tokens
                     copies := copies, busy := busy, walks := walks }
  (id, s.setCp fun cp => { cp with invals := cp.invals ++ [x], nextInval := id + 1 })

/-- Whether a walk that was under way as an invalidation began, or what it gave, or the accesses made through it, are still there. -/
def walkHeld (s : State) (x : Inval) (t : Nat × Nat × Nat) : Bool :=
  let b := s.blkAt t.1
  let waits := fun (m : Miss) => m.ctx == x.ctx && m.vpn == t.2.2 && m.stale && (m.waiters.contains t.1 || m.waiters.contains (engineWaiter t.1))
  s.ms.misses.any waits ||
    (b.xbuf ++ b.ebuf).any (fun y => y.page / 8192 == t.2.2 && y.res.any (affects x.ctx x.all x.lo x.len)) ||
    b.trecs.any (fun r => r.held.any (affects x.ctx x.all x.lo x.len)) ||
    !(b.sq.isEmpty && b.pend.isEmpty && b.unacked.isEmpty)

/-- What an invalidation still waits for. -/
def pruneInval (s : State) (x : Inval) : Inval :=
  let here := fun (h age : Nat) => let b := s.blkAt h; b.placed && b.age == age
  { x with
    tokens := x.tokens.filter fun t => here t.1 t.2.1 && (s.blkAt t.1).tokens.any fun k => k.seq == t.2.2 && !k.named
    copies := x.copies.filter fun t => here t.1 t.2.1 && (s.blkAt t.1).trecs.any fun r => r.seq == t.2.2 && !r.held.isEmpty
    busy := x.busy.filter fun t =>
      here t.1 t.2 && (let b := s.blkAt t.1; !(b.sq.isEmpty && b.pend.isEmpty && b.unacked.isEmpty))
    walks := x.walks.filter fun t => here t.1 t.2.1 && s.walkHeld x t }

/-- INVALIDATION_COMPLETE: it has nothing left to wait for; the hart or the command that asked goes on. -/
def invalFinish (s : State) (id : Nat) : State :=
  match s.cp.invals.find? fun x => x.id == id with
  | none => s
  | some x =>
    let y := s.pruneInval x
    if y.tokens.isEmpty && y.copies.isEmpty && y.busy.isEmpty && y.walks.isEmpty then
      let s := s.setCp fun cp => { cp with invals := cp.invals.filter fun z => z.id != id }
      let s := match x.hart with
        | some h => if (s.blkAt h).wait = some (.inval id) then s.onHart h finishOp else s
        | none => s
      match x.queue with
      | some q => if (s.queue q).invalId = some id then s.updQueue q fun k => { k with status := some (0, 0), invalId := none } else s
      | none => s
    else s.setCp fun cp => { cp with invals := mapIf (fun z => z.id == id) (fun _ => y) cp.invals }

end State

/-- TLBINV: the hart waits for the invalidation (R461). -/
def tlbinv (all : Bool) (f : FmtY) (s : State) : Out :=
  privileged f.gm f.lit [f.a, f.d] none (fun s =>
    let len := (s.getX f.d).toNat
    if !all && len = 0 then s.advance f.lit
    else
      let (id, s) := s.beginInval s.blk.ctx all (s.getX f.a).toNat len (some s.cur) none
      s.issueWait (.inval id)) s

def execTlbinvRange (f : FmtY) (s : State) : Out := tlbinv false f s
def execTlbinvAll (f : FmtY) (s : State) : Out := tlbinv true f s
def execInvalidationComplete (n : Nat) (s : State) : Out := .next (s.invalFinish n)

/-! ## Ranges of memory (R462, R465) -/

namespace State

/-- Translates `len` bytes from `va` in ascending order for the hart in focus, and goes on with their physical pieces; the first page
that fails raises its cause, and nothing else has happened. -/
def withRange (s : State) (k : AKind) (acc : Access) (lit : Option Word) (go : State → List (Nat × Nat) → State) :
    Nat → Nat → Nat → List (Nat × Nat) → State
  | 0, _, _, done => go s done
  | fuel + 1, va, len, done =>
    if len = 0 then go s done
    else
      let n := min len (8192 - va % 8192)
      match s.translate k va with
      | .miss => s.awaitWalk k va
      | .fail c => s.raiseA c acc va 0 lit
      | .ok _ pa =>
        match aperture pa with
        | .peer _ => s.raiseA .perm acc va 0 lit
        | .host a =>
          if (s.ms.hostXlat s.myPasid a).isNone then s.raiseA .xlate acc va 0 lit
          else withRange s k acc lit go fuel ((va + n) % 2 ^ 64) (len - n) (done ++ [(pa, n)])
        | _ => withRange s k acc lit go fuel ((va + n) % 2 ^ 64) (len - n) (done ++ [(pa, n)])

/-- The pages that a range may touch. -/
def pagesOf (len : Nat) : Nat := len / 8192 + 2

/-- The L1 of the core in focus takes the bytes that its hart writes at their home (R159, R193). -/
def l1Written (s : State) (pa : Nat) (bs : List Byte) : State :=
  (List.range (cdiv (pa % 64 + bs.length) 64)).foldl (fun (s : State) i =>
    let line := pa / 64 + i
    let lo := max pa (line * 64)
    let n := min (pa + bs.length) (line * 64 + 64) - lo
    if cacheable lo then
      (s.noteBytes s.myCore lo (2 ^ n - 1) n).updCore s.myCore fun x => x.l1Through lo n (ofLe ((bs.drop (lo - pa)).take n))
    else s) s

/-- Writes bytes over physical pieces at the home. -/
def putPieces (s : State) : List (Nat × Nat) → List Byte → State
  | [], _ => s
  | (pa, n) :: t, bs => putPieces ((s.setMs fun m => m.sysWrite s.myPasid pa (bs.take n)).l1Written pa (bs.take n)) t (bs.drop n)

/-- Reads the bytes of physical pieces, dirty L1 bytes of the core merged (R159). -/
def getPieces (s : State) : List (Nat × Nat) → List Byte
  | [] => []
  | (pa, n) :: t =>
    let here := ((s.ms.sysRead s.myPasid pa n).getD []).zipIdx.map fun (b, i) =>
      if cacheable (pa + i) then BitVec.ofNat 8 ((s.core s.myCore).mergeDirty (pa + i) 1 b.toNat) else b
    here ++ getPieces s t

/-- Whether an access of the pieces has to wait at a home (R61, R163, R185). -/
def piecesBusy (s : State) (l : List (Nat × Nat)) : Bool :=
  l.any fun p => (List.range (cdiv (p.1 % 256 + p.2) 256)).any fun i => s.homeBusy (p.1 / 256 * 256 + 256 * i)

/-- Whether a byte of the pieces is uncorrectable. -/
def badPieces (s : State) (l : List (Nat × Nat)) : Bool :=
  l.any fun p => s.ms.anyBad (homeAddr p.1) p.2 || (List.range p.2).any fun i => (s.core s.myCore).l1Bad (p.1 + i) 1

end State

/-! ## CTXSAVE and CTXLOAD (R462) -/

/-- CTXSAVE: every older tile instruction has retired; the image is written, with a DEVICE-scope release. -/
def execCtxsave (f : FmtY) (s : State) : Out :=
  privileged f.gm f.lit [f.a] (some f.d) (fun s =>
    let va := (s.getX f.a).toNat
    if !s.blk.live.isEmpty then s.waitFor .retry
    else if va % 64 ≠ 0 then s.raiseA .align .store va 0 f.lit
    else
      let b := s.blk
      let x := s.savedOf s.cur
      let img := imageOf x (s.gangIndex b) (b.pc + 8) 0
      s.withRange .store .store f.lit (fun s pieces =>
        if s.piecesBusy pieces then s.waitFor .retry
        else s.afterRelease .device f.lit fun s =>
          let pa := (pieces.headD (0, 0)).1
          let s := (s.putPieces pieces img).setCp fun cp => { cp with images := aset cp.images pa x }
          (s.writeX f.d (BitVec.ofNat 64 img.length)).advance f.lit) (State.pagesOf img.length) va img.length []) s

namespace State

/-- The block in focus gives up what it holds on its core, and takes the state of an image on the same hart; none when the core lacks
what it needs. The image's identity is the block's own. -/
def loadImage (s : State) (h : Nat) (v : ImageView) (x : SavedBlk) : Option State :=
  let b := s.blkAt h
  let y := readImage v x
  let blk := { y.blk with
    placed := true, ctx := b.ctx, launch := b.launch, gang := b.gang, gangSize := b.gangSize, packed := b.packed, child := b.child
    gx := b.gx, gy := b.gy, gz := b.gz, gangPos := b.gangPos, stage := b.stage, gen := b.gen, slip := b.slip, lmin := b.lmin
    lmax := b.lmax, stackBase := b.stackBase }
  let cleared := { s with blocks := adel s.blocks h }.updCore (coreOf h) fun k => k.releaseHart h
  cleared.returnTo h { y with blk := blk }

/-- What the device knows of an image at a physical address beside its bytes: what it wrote there, else what the bytes say. -/
def imageBase (s : State) (h pa : Nat) (v : ImageView) : State × SavedBlk :=
  match aget s.cp.images pa with
  | some x => (s, x)
  | none => (s.setMs fun m => { m with nextId := m.nextId + 256 }, v.base s.ms.nextId (s.blkAt h))

end State

/-- CTXLOAD: a wrong magic, version or generation, or uncorrectable data, escalates PREEMPT; missing resources raise TILESTATE. -/
def execCtxload (f : FmtY) (s : State) : Out :=
  privileged f.gm f.lit [f.a] none (fun s =>
    let va := (s.getX f.a).toNat
    if !s.blk.live.isEmpty || !s.blk.sq.isEmpty || !s.blk.pend.isEmpty || !s.blk.unacked.isEmpty then s.waitFor .retry
    else
      s.withRange .load .load f.lit (fun s head =>
        let n := ofLe ((s.getPieces head).drop 8 |>.take 4)
        s.withRange .load .load f.lit (fun s pieces =>
          let v : ImageView := { bytes := s.getPieces pieces }
          if s.piecesBusy pieces then s.waitFor .retry
          else if s.badPieces pieces || !v.good || field (v.get 32 8) 8 2 ≠ s.blk.gen then s.raise .preempt f.lit
          else
            let (s, x) := s.imageBase s.cur (pieces.headD (0, 0)).1 v
            match s.loadImage s.cur v x with
            | some s' => s'
            | none => s.raise .tilestate f.lit) (State.pagesOf n) va (max n 16) []) 2 va 16 []) s

/-! ## SCRUB and MEASURE (R465) -/

/-- SCRUB: waits for Mace locks in the range; correction changes no byte. -/
def execScrub (f : FmtY) (s : State) : Out :=
  privileged f.gm f.lit [f.a, f.d] none (fun s =>
    let lo := (s.getX f.a).toNat
    let len := (s.getX f.d).toNat
    let top := 0x00C000000000
    if len = 0 then s.advance f.lit
    else if top < lo + len then s.raiseA .perm .none (max lo top) 0 f.lit
    else if s.ms.locks.any fun k => lineOf lo ≤ k.line && k.line < lo + len then s.waitFor .retry
    else s.advance f.lit) s

/-- MEASURE: the bytes go to the security unit, whose answer the hart awaits. -/
def execMeasure (f : FmtY) (s : State) : Out :=
  privileged f.gm f.lit [f.a] (some f.d) (fun s =>
    let n := min (s.getX f.d).toNat (2 ^ 20)
    let va := (s.getX f.a).toNat
    let r := f.c.toNat
    if r < 4 then s.raise .priv f.lit
    else if s.xPending f.d || !s.blk.sq.isEmpty || !s.blk.pend.isEmpty || !s.blk.unacked.isEmpty then s.waitFor .retry
    else
      s.withRange .load .load f.lit (fun s pieces =>
        if s.piecesBusy pieces then s.waitFor .retry
        else if s.badPieces pieces then s.raiseA .uncorr .load va 0 f.lit
        else
          let id := s.cp.nextExtend
          let x : Extend := { id := id, reg := r, data := s.getPieces pieces }
          let s := s.setCp fun cp => { cp with extensions := cp.extensions ++ [x], nextExtend := id + 1 }
          (s.writeX f.d (BitVec.ofNat 64 n)).issueWait (.measure id)) (State.pagesOf n) va n []) s

end Sys2Proof.Machine
end

