-- ==== Sys2Proof/Machine/CpMemory.lean ====
section
/-! DEFINITION. Memory as the command processors and the management cores reach it: translation of a range in a context or physically,
reads and writes of its parts (spec 04 R67, R74, R85, R91, R475; spec 07 R150, R173 to R176; log entry 84). -/

namespace Sys2Proof.Machine

/-! ## Status codes (R75) -/

def stOk : Nat := 0
def stBadcmd : Nat := 1
def stDenied : Nat := 2
def stXlate : Nat := 3
def stRevoked : Nat := 4
def stBadsig : Nat := 5
def stBadobj : Nat := 6
def stTimeout : Nat := 7
def stFault : Nat := 8
def stUncorr : Nat := 9

namespace State

/-! ## Addresses of a command (R74, R150, R475) -/

/-- Whether host memory answers a context's request (R37). -/
def hostOk (s : State) (ctx a : Nat) : Bool :=
  ctx == 0 || (s.ms.hostXlat ((s.context ctx).map (·.pasid)) a).isSome

/-- Whether a physical address names memory that a context's commands reach: not a hole; a peer through a valid window. -/
def reachable (s : State) (ctx pa : Nat) : Bool :=
  match aperture pa with
  | .peer off => (s.fab.peerTarget off).isSome
  | .host a => s.hostOk ctx a
  | _ => paExists s.plat.scrReach pa

/-- The physical address of a byte of a context that a command reads or writes at K level, or the command's status; context 0 names device
memory and the host aperture directly (R74, R475). -/
def cpXlat (s : State) (ctx va : Nat) (write : Bool) : State × Except Nat Nat :=
  if ctx = 0 then
    (s, match aperture va with
      | .device _ | .host _ => .ok va
      | _ => .error stXlate)
  else
    match s.walkNow ctx va write with
    | (s, .ok x) =>
      (s, if x.allows .k (if write then .store else .load) && s.reachable ctx (x.phys va) then .ok (x.phys va) else .error stXlate)
    | (s, .error .uncorr) => (s, .error stUncorr)
    | (s, .error _) => (s, .error stXlate)

/-- The PASID that a context's host accesses carry. -/
def pasidOf (s : State) (ctx : Nat) : Option Nat := if ctx = 0 then none else (s.context ctx).map (·.pasid)

/-- Reads bytes over physical pieces. -/
def cpBytes (s : State) (ctx : Nat) (l : List (Nat × Nat)) : List Byte :=
  l.flatMap fun p => (s.ms.sysRead (s.pasidOf ctx) p.1 p.2).getD (List.replicate p.2 Config.hostByte)

/-- Writes bytes over physical pieces. -/
def cpWrite (s : State) (ctx : Nat) : List (Nat × Nat) → List Byte → State
  | [], _ => s
  | (pa, n) :: t, bs => cpWrite (s.setMs fun m => m.sysWrite (s.pasidOf ctx) pa (bs.take n)) ctx t (bs.drop n)

/-! ## Reads and writes of a queue's command (R39, R43, R72, R74) -/

/-- What a read of a command gives so far: its bytes; a status; or the state in which it goes on at the next event. -/
inductive Got where
  | ok (s : State) (bs : List Byte)
  | fails (s : State) (st : Nat)
  | waits (s : State)

/-- Sends a command's request to a peer (R39). -/
def cpPeer (s : State) (n dev addr : Nat) (posted : Bool) (body : SxlBody) : State :=
  { s with fab := s.fab.request s.plat.rank (queueWaiter n) dev addr posted body }

/-- Whether a write of the command to the 128-byte block of a home address is under way: what comes after it waits. -/
def blockOut (s : State) (n pa : Nat) : Bool := (s.queue n).acks.any fun a => a.2 / 128 == homeAddr pa / 128

/-- Sends a command's request to a home, as request `id`: the command processor of the north die runs every command (R14, R474). -/
def cpSend (s : State) (n id pa : Nat) (op : HomeOp) : State :=
  s.sendReq .lat { id := id, hart := queueWaiter n, src := .cp 0, pa := pa, op := op }

/-- Starts a read of `k` bytes, within one 128-byte block. -/
def readPart (s : State) (n va k : Nat) : Got :=
  let q := s.queue n
  match s.cpXlat q.ctx va false with
  | (s, .error st) => .fails s st
  | (s, .ok pa) =>
    match aperture pa with
    | .peer off =>
      match s.fab.peerTarget off with
      | some (dev, a) => .waits ((s.cpPeer n dev a false (.read a k)).updQueue n fun q => { q with out := some (2 ^ 60, k) })
      | none => .fails s stXlate
    | .host _ => .waits (s.updQueue n fun q => { q with got := q.got ++ s.cpBytes q.ctx [(pa, k)] })
    | _ =>
      if s.blockOut n pa then .waits s
      else
        let (id, s) := s.fresh
        .waits ((s.cpSend n id pa (.read k)).updQueue n fun q => { q with out := some (id, k) })

/-- The answer to a command's read: its value with the mask of uncorrectable bytes, none when a peer failed it. -/
def readAnswer (s : State) (n id : Nat) : Option (Option (Nat × Nat) × State) :=
  if 2 ^ 60 ≤ id then (s.queue n).peerVal.map fun v => (v.map fun x => (x.1, if x.2 then 2 ^ 128 - 1 else 0), s)
  else
    (s.pickMsg fun _ m => match m with
      | (.cp _, .resp i v bad) => if i == id then some (v, bad) else none
      | _ => none).map fun r => (some r.1, r.2)

/-- The bytes of a part before the first uncorrectable one. -/
def goodPrefix (bad k : Nat) : Nat := ((List.range k).find? fun i => bad.testBit i).getD k

/-- One event of a read of `len` bytes, in parts within 128-byte blocks, ascending (R39, R74). The bytes before a failure stay in `got`. -/
def readBytes (s : State) (n va len : Nat) : Got :=
  let q := s.queue n
  if len ≤ q.got.length then .ok (s.updQueue n fun q => { q with got := [] }) (q.got.take len)
  else
    match q.out with
    | none =>
      let a := (va + q.got.length) % 2 ^ 64
      s.readPart n a (min (len - q.got.length) (128 - a % 128))
    | some (id, k) =>
      match s.readAnswer n id with
      | none => .waits s
      | some (none, s) => .fails (s.updQueue n fun q => { q with out := none, peerVal := none }) stXlate
      | some (some (v, bad), s) =>
        let m := goodPrefix bad k
        let got := q.got ++ leBytes m v
        if m < k then .fails (s.updQueue n fun q => { q with out := none, peerVal := none, got := got }) stUncorr
        else if len ≤ got.length then .ok (s.updQueue n fun q => { q with out := none, peerVal := none, got := [] }) got
        else .waits (s.updQueue n fun q => { q with out := none, peerVal := none, got := got })

/-- A command's status is set. -/
def ends (s : State) (n st : Nat) (result : Nat := 0) : State :=
  s.updQueue n fun q => { q with status := some (st, BitVec.ofNat 64 result) }

/-- The acknowledgements of a command's writes that have come. -/
def takeAcks (s : State) (n : Nat) : State :=
  let mine := fun (m : Node × Msg) => match m with
    | (.cp _, .ack id) => if (s.queue n).acks.any fun a => a.1 == id then some id else none
    | _ => none
  match s.ms.inbox.filterMap mine with
  | [] => s
  | ids =>
    (s.setMs fun ms => { ms with inbox := ms.inbox.filter fun m => (mine m).isNone }).updQueue n fun q =>
      { q with acks := q.acks.filter fun a => !ids.contains a.1 }

/-- Whether a write of a command is under way. -/
def writesOut (s : State) (n : Nat) : Bool :=
  !(s.queue n).acks.isEmpty || s.fab.waits.any fun w => w.hart == queueWaiter n && w.posted

/-- The status of a command whose writes are all sent, once they have been performed; a peer's refusal of one gives XLATE (R72, R74). -/
def endsAfter (s : State) (n st : Nat) (result : Nat := 0) : State :=
  if s.writesOut n then s else if (s.queue n).wfail then s.ends n stXlate else s.ends n st result

/-- Writes bytes of one 128-byte block for a command, then goes on with `k`. -/
def writePart (s : State) (n va : Nat) (bs : List Byte) (k : State → State) : State :=
  match s.cpXlat (s.queue n).ctx va true with
  | (s, .error st) => s.endsAfter n st
  | (s, .ok pa) =>
    match aperture pa with
    | .peer off =>
      match s.fab.peerTarget off with
      | some (dev, a) => k (s.cpPeer n dev a true (.write a bs (List.replicate bs.length true)))
      | none => s.endsAfter n stXlate
    | .host _ => k ((s.cpWrite (s.queue n).ctx [(pa, bs.length)] bs).updQueue n fun q => { q with flush := true })
    | _ =>
      if s.blockOut n pa then s
      else
        let (id, s) := s.fresh
        k ((s.cpSend n id pa (.write (ofLe bs) (2 ^ bs.length - 1) bs.length)).updQueue n fun q =>
          { q with acks := q.acks ++ [(id, homeAddr pa)] })

/-! ## Accesses of the management cores (R91; log entry 12) -/

/-- Why a management core's access stops: a page that does not translate or names no memory on the device or the host, or a home that
holds the access. -/
inductive MgmtStop where
  | fails | waits

/-- The physical pieces of a range in ascending order. -/
def mgmtPieces (ctx : Nat) (write : Bool) : Nat → State → Nat → Nat → Except MgmtStop (State × List (Nat × Nat))
  | 0, s, _, len => if len = 0 then .ok (s, []) else .error .fails
  | fuel + 1, s, va, len =>
    if len = 0 then .ok (s, [])
    else
      let n := min len (4096 - va % 4096)
      match s.walkNow ctx va write with
      | (_, .error _) => .error .fails
      | (s, .ok x) =>
        let pa := x.phys va
        let peer := match aperture pa with
          | .peer _ => true
          | _ => false
        if peer || !s.reachable ctx pa then .error .fails
        else (mgmtPieces ctx write fuel s ((va + n) % 2 ^ 64) (len - n)).map fun r => (r.1, (pa, n) :: r.2)

/-- The pieces of a range of a context, if no home holds an access to them. -/
def mgmtRange (s : State) (ctx va len : Nat) (write : Bool) : Except MgmtStop (State × List (Nat × Nat)) :=
  match mgmtPieces ctx write (len / 4096 + 2) s va len with
  | .ok (s, l) => if s.piecesBusy l then .error .waits else .ok (s, l)
  | .error e => .error e

/-- A management core writes bytes at a virtual address of a context. -/
def mgmtWrite (s : State) (ctx va : Nat) (bs : List Byte) : Except MgmtStop State :=
  (s.mgmtRange ctx va bs.length true).map fun r => r.1.cpWrite ctx r.2 bs

/-- A management core reads bytes at a virtual address of a context. -/
def mgmtRead (s : State) (ctx va len : Nat) : Except MgmtStop (State × List Byte) :=
  match s.mgmtRange ctx va len false with
  | .ok (s, l) => if l.any (fun p => s.ms.anyBad (homeAddr p.1) p.2) then .error .fails else .ok (s, s.cpBytes ctx l)
  | .error e => .error e

end State

/-- Whether a core's instruction cache line was fetched through a virtual address of a range (R472). -/
def fetchedIn (ctx lo len : Nat) (l : ICLine) : Bool := l.ctx == ctx && pageInRange (l.vline * 64) 6 lo len

namespace State

/-- Every core drops from its instruction cache what it fetched through a range of a context, and makes again the fetches of it that are
under way (R81, R472). -/
def dropFetch (s : State) (ctx lo len : Nat) : State :=
  let s := { s with cores := s.cores.map fun (e : Nat × Core) => (e.1, { e.2 with icache := e.2.icache.filter fun l => !fetchedIn ctx lo len l }) }
  { s with blocks := s.blocks.map fun (e : Nat × Block) =>
      (e.1, if e.2.ctx == ctx then { e.2 with pend := e.2.pend.filter fun p => match p.dest with
          | .icache vline _ => !pageInRange (vline * 64) 6 lo len
          | _ => true } else e.2) }

end State

end Sys2Proof.Machine
end

