-- ==== Sys2Proof/Machine/Byino.lean ====
section
/-! DEFINITION. The service of a TRANSLATE by the management cores, its lock, and the patching of call sites (spec 04 R88 to R94). -/

namespace Sys2Proof.Machine

/-- The CALL that replaces a CALLT word whole: same guard and link register (R91 step 5, R343, R322). None when the distance does not
fit. -/
def callFor (w : Word) (site target : Nat) : Option Word :=
  let d := target + 2 ^ 64 - site
  let off := BitVec.ofNat 64 d
  if (off.setWidth 32).signExtend 64 = off then
    (encB 0x062 { gm := wordGm w, a := w.extractLsb' 44 6, k := 0, off := off.setWidth 32 }).head?
  else none

/-- The digest of a function: its Byino words, then its call-site and symbolic-quantity records (R90, R91). -/
def funcDigest (f : FuncInfo) : List Byte := shake256 (wordBytes f.words ++ f.recs)

/-- A cached translation that may serve a function (R91 step 3). -/
def CachedXlat.serves (c : CachedXlat) (dig : List Byte) (l : Launch) (fuse : Word) : Bool :=
  c.digest == dig && c.lmin == l.lmin && c.lmax == l.lmax && fuse.toNat ≤ c.secVer

/-- The address that the next translation takes in a context's area; none when it does not fit. -/
def Context.areaPlace (c : Context) (bytes : Nat) : Option Nat :=
  let start := cdiv (c.xaBase + c.xaUsed) 8 * 8
  if start + bytes ≤ c.xaBase + c.xaBytes then some start else none

/-- Puts a translation into a context's area. -/
def Context.cache (c : Context) (x : CachedXlat) : Context :=
  { c with xaUsed := x.va + 8 * x.code.length - c.xaBase, cached := c.cached ++ [x] }

namespace State

/-- Whether a hart still waits for a TRANSLATE. -/
def waitsXlate (s : State) (ctx base f h : Nat) : Bool :=
  let b := s.blkAt h
  b.placed && b.wait == some (.translate f) && b.ctx == ctx && ((s.launchOf b.launch).map fun l => l.obj.base) == some base

/-- Step 3: a cached translation of a function, or a new one, with its place in the area. -/
def findXlat (s : State) (l : Launch) (c : Context) (f : FuncInfo) : Option (CachedXlat × Context) :=
  let dig := funcDigest f
  match c.cached.find? (fun x => x.serves dig l s.plat.fuseCounter) with
  | some x => some (x, c)
  | none =>
    match Config.byc f.words f.recs l.lmin l.lmax with
    | none | some [] => none
    | some code =>
      (c.areaPlace (8 * code.length)).map fun va =>
        let x : CachedXlat := { va := va, digest := dig, secVer := l.obj.secVer, lmin := l.lmin, lmax := l.lmax, code := code }
        (x, c.cache x)

/-- Step 5: one call site becomes a direct CALL, and every core drops it from its instruction cache. A site that cannot be read or
written stays a CALLT. -/
def patchSite (s : State) (l : Launch) (target off : Nat) : Except MgmtStop State :=
  let va := l.obj.base + ((l.obj.sections[0]?).getD (0, 0)).1 + off
  match s.mgmtRead l.ctx va 8 with
  | .error .waits => .error .waits
  | .error .fails => .ok s
  | .ok (t, bs) =>
    let w := BitVec.ofNat 64 (ofLe bs)
    match if wordOp w = 0x064 then callFor w va target else none with
    | none => .ok t
    | some c =>
      match t.mgmtWrite l.ctx va (leBytes 8 c.toNat) with
      | .ok t => .ok (t.dropFetch l.ctx va 8)
      | .error .waits => .error .waits
      | .error .fails => .ok t

/-- The call sites of a function in turn. -/
def patchSites (l : Launch) (target : Nat) : List Nat → State → Except MgmtStop State
  | [], s => .ok s
  | off :: t, s =>
    match s.patchSite l target off with
    | .ok s => patchSites l target t s
    | .error e => .error e

/-- Steps 4 and 5: the code enters the area, its entry becomes valid, its call sites are patched. -/
def putXlat (s : State) (l : Launch) (f entry : Nat) (x : CachedXlat) (c : Context) : Except MgmtStop State :=
  match (s.mgmtWrite l.ctx x.va (wordBytes x.code)).bind fun s => s.mgmtWrite l.ctx entry (leBytes 8 (x.va + 1)) with
  | .error e => .error e
  | .ok s => patchSites l x.va ((l.obj.sites.filter fun t => t.2 == f).map (·.1)) (s.setContext l.ctx c)

/-- Steps 2 to 5 of R91 for a hart that takes the lock; none while a home holds an access. -/
def serveXlate (s : State) (h f entry : Nat) (l : Launch) (c : Context) : Option State :=
  match s.mgmtRead l.ctx entry 8 with
  | .error .waits => none
  | .error .fails => some (s.mgmtAbort h f 8)
  | .ok (s, bs) =>
    if (ofLe bs).testBit 0 then some s
    else if l.obj.secVer < s.plat.fuseCounter.toNat then some (s.mgmtAbort h f 4)
    else
      match (l.obj.funcs[f]?).bind (s.findXlat l c) with
      | none => some (s.mgmtAbort h f 8)
      | some (x, c) =>
        match s.putXlat l f entry x c with
        | .error .waits => none
        | .error .fails => some (s.mgmtAbort h f 8)
        | .ok s => some s

/-- TRANSLATE_SERVICE: the lock of the function is taken if no waiting hart has it, and the function is translated (R91 steps 1 to 5). -/
def translateService (s : State) (h : Nat) : State :=
  match (s.blkAt h).wait, s.launchOf (s.blkAt h).launch with
  | some (.translate f), some l =>
    let base := l.obj.base
    let mine := fun (k : Nat × Nat × Nat × Nat) => k.1 == l.ctx && k.2.1 == base && k.2.2.1 == f
    if s.cp.xlocks.any fun k => mine k && s.waitsXlate l.ctx base f k.2.2.2 then s
    else
      let t := s.setCp fun cp => { cp with xlocks := (cp.xlocks.filter fun k => !mine k) ++ [(l.ctx, base, f, h)] }
      match l.obj.sections[3]?, s.context l.ctx with
      | some (off, _), some c => (t.serveXlate h f (base + off + 8 * f) l c).getD s
      | _, _ => t.mgmtAbort h f 8
  | _, _ => s

/-- TRANSLATION_LOCK_RESUME: the lock is released, and every hart that waits for the function executes its CALLT again (R91 step 6). -/
def translateResume (s : State) (h : Nat) : State :=
  match s.cp.xlocks.find? (fun k => k.2.2.2 == h) with
  | none => s
  | some (ctx, base, f, _) =>
    let wakes := s.waitsXlate ctx base f
    let s' := s.setCp fun cp => { cp with xlocks := cp.xlocks.filter fun k => k.2.2.2 != h }
    { s' with blocks := s'.blocks.map fun e => (e.1, if wakes e.1 then { e.2 with wait := none } else e.2) }

end State

def execTranslateService (h : Nat) (s : State) : Out := .next (s.translateService h)
def execTranslationLockResume (h : Nat) (s : State) : Out := .next (s.translateResume h)

end Sys2Proof.Machine
end

