-- ==== Sys2Proof/Machine/Commands.lean ====
section
/-! DEFINITION. The command processor: consuming and completing commands, and every command but LAUNCH and LOAD-CODE (spec 04 R67 to
R75, R80 to R83; spec 07 R472; spec 17 R453; R474, R475). -/

namespace Sys2Proof.Machine

/-! ## Choosing and reading a command (R70, R71, R73, R474) -/

/-- Whether a queue has a command ready to start (R34, R68, R69, R83). -/
def Queue.ready (q : Queue) : Bool :=
  q.enable && !q.halted && q.cmd.isNone && q.records.isEmpty && (q.tail + 2 ^ q.log2size - q.head) % 2 ^ q.log2size != 0

/-- The number of words that a command uses after its header; none for an OP that is not listed (R74). -/
def opWords (op : Nat) : Option Nat :=
  if op = 0 then none else [1, 3, 4, 3, 4, 2, 5, 3, 7][op - 1]?

/-- The status of a command whose header or unused words are not as R73 and R74 require. -/
def headerStatus (ws : List Word) : Option Nat :=
  let h := (ws.headD 0).toNat
  match opWords (field h 56 8) with
  | none => some stBadcmd
  | some n => if field h 49 7 ≠ 0 || field h 32 16 ≠ 0 || (ws.drop (n + 1)).any (· ≠ 0) then some stBadcmd else none

namespace State

/-- Changes a queue; one that comes to have a command ready notes when (R71). -/
def changeQueue (s : State) (n : Nat) (f : Queue → Queue) : State :=
  let old := s.queue n
  let new := f old
  s.setQueue n (if new.ready && !old.ready then { new with readySince := s.ts } else new)

/-- The queue that is served next (R71). -/
def nextQueue (s : State) : Option Nat :=
  let qs := s.cp.queues.filter fun e => e.2.ready && e.2.out.isNone
  let late := qs.filter fun e => e.2.readySince + 1000000 ≤ s.ts
  match late with
  | e :: _ => some e.1
  | [] =>
    (minBy (fun (e : Nat × Queue) => (3 - e.2.prio) * 1024 + (e.1 + 1023 - s.cp.lastQueue) % 1024) qs).map (·.1)

/-- A queue consumes its next command: its words, or the status of a failed read; HEAD advances. A malformed one already has its status. -/
def enterCommand (s : State) (n : Nat) (r : Except Nat (List Byte)) : State :=
  let q := s.queue n
  let (ws, st) := match r with
    | .ok bs =>
      let ws := (List.range 8).map fun i => BitVec.ofNat 64 (field (ofLe bs) (64 * i) 64)
      (ws, headerStatus ws)
    | .error e => (List.replicate 8 0, some e)
  (s.setQueue n
    { q with
      head := (q.head + 1) % 2 ^ q.log2size, cmd := some (ws, q.head), status := st.map fun e => (e, 0), startAt := s.ts
      waiting := false, moved := 0, got := [], out := none, peerVal := none, acks := [], wfail := false, invalId := none }).setCp fun cp =>
    { cp with lastQueue := n }

/-- Asks for the eight words of a queue's next command: at once in host memory, by a request in device memory (R67, R75). -/
def readCommand (s : State) (n : Nat) : State :=
  let q := s.queue n
  let at_ := q.qbase.toNat / 64 * 64 + 64 * q.head
  match aperture at_ with
  | .device _ =>
    let (id, s) := s.fresh
    (s.cpSend n id at_ (.read 64)).updQueue n fun q => { q with out := some (id, 64) }
  | .host a => s.enterCommand n (if s.hostOk q.ctx a then .ok (s.cpBytes q.ctx [(at_, 64)]) else .error stXlate)
  | _ => s.enterCommand n (.error stXlate)

/-- A command that has come, with its queue; the reads of different queues overlap (R474). -/
def commandCome (s : State) : Option (Nat × (Nat × Nat) × State) :=
  s.cp.queues.findSome? fun (e : Nat × Queue) =>
    match e.2.cmd, e.2.out with
    | none, some (id, _) => match s.readAnswer e.1 id with
      | some (some r, s) => some (e.1, r, s)
      | _ => none
    | _, _ => none

/-- COMMAND_CONSUME: a command that has come is consumed, unless its queue has been disabled or halted meanwhile; else the next command of
the queue that is served next is asked for. -/
def consumeCommand (s : State) : State :=
  if s.plat.bootState ≠ 4 || s.plat.outOfService then s
  else
    match s.commandCome with
    | some (n, (v, bad), s) =>
      if (s.queue n).ready then s.enterCommand n (if bad = 0 then .ok (leBytes 64 v) else .error stUncorr)
      else s.updQueue n fun q => { q with out := none }
    | none =>
      match s.nextQueue with
      | some n => s.readCommand n
      | none => s

/-- COMMAND_COMPLETE: CDONE counts, the record is posted, and a failure halts the queue (R72, R82). It is a SYSTEM-scope release: a read
that flushes the command's host writes comes first (R37). -/
def completeCommand (s : State) (n : Nat) : State :=
  let q := s.queue n
  match q.cmd, if q.flush || q.records.any (fun r => !s.recDue r) then none else q.status with
  | some (ws, index), some (st, result) =>
    let h := (ws.headD 0).toNat
    let s := s.setQueue n { q with cmd := none, status := none, cdone := q.cdone + 1, halted := q.halted || (st != stOk && st != stTimeout) }
    let s := if h.testBit 48 then
        s.postRecord n
          [BitVec.ofNat 64 s.ts, s.recWord1 0xB0 1 st n, BitVec.ofNat 64 (h % 2 ^ 32 * 2 ^ 32 + index), result, 0, 0, 0, 0]
      else s
    s.setQueue n { s.queue n with readySince := s.ts }
  | _, _ => s

/-! ## The frame of a command -/

/-- The words of a queue's command with the given OP while it has no status. -/
def command (s : State) (n op : Nat) : Option (List Nat) :=
  let q := s.queue n
  match q.cmd, q.status with
  | some (ws, _), none => if field (ws.headD 0).toNat 56 8 = op then some (ws.map (·.toNat)) else none
  | _, _ => none

/-- Runs a command of one word list, after the acknowledgements of its writes are in. -/
def onCommand (s : State) (n op : Nat) (f : State → List Nat → State) : State :=
  match s.command n op with
  | some ws => f (s.takeAcks n) ws
  | none => s

/-- Word `i` of a command. -/
def wordOf (ws : List Nat) (i : Nat) : Nat := (ws[i]?).getD 0

/-! ## COPY, FILL, SIGNAL (R74) -/

/-- The bytes of a COPY's next part, of at most `k`, for which no byte written in the part is read again in it: a destination page may
be the very page of the source (R74: as if byte by byte). -/
def aheadOf (s : State) (ctx a b k : Nat) : Nat :=
  match (s.cpXlat ctx b false).2 with
  | .error _ => k
  | .ok d =>
    let k1 := min k (4096 - a % 4096)
    let stop := fun (o : Nat) => match (s.cpXlat ctx ((a + o) % 2 ^ 64) false).2 with
      | .ok p => if homeAddr p < homeAddr d + o then o + (homeAddr d - homeAddr p) else k
      | .error _ => k
    min (max 1 (stop 0)) (if k1 < k then min k (max k1 (stop k1)) else k)

/-- A part of a COPY is written. -/
def copyPut (s : State) (n b : Nat) (bs : List Byte) : State :=
  s.writePart n b bs fun s => s.updQueue n fun q => { q with moved := q.moved + bs.length }

/-- COPY: the next part, in ascending order; the bytes before one that cannot be read are written first. -/
def copyStep (s : State) (n : Nat) : State :=
  s.onCommand n 2 fun s ws =>
    let src := wordOf ws 1
    let dst := wordOf ws 2
    let len := wordOf ws 3
    let q := s.queue n
    if len = 0 || 2 ^ 40 < len || (src < dst + len && dst < src + len) then s.ends n stBadcmd
    else if len ≤ q.moved || q.wfail then s.endsAfter n stOk
    else
      let a := (src + q.moved) % 2 ^ 64
      let b := (dst + q.moved) % 2 ^ 64
      let k := s.aheadOf q.ctx a b (min (len - q.moved) (128 - b % 128))
      match s.readBytes n a k with
      | .ok s bs => s.copyPut n b bs
      | .waits s => s
      | .fails s st =>
        let bs := (s.queue n).got
        if bs.isEmpty then s.endsAfter n st else (s.updQueue n fun q => { q with got := [] }).copyPut n b bs

/-- FILL: the next part. -/
def fillCmd (s : State) (n : Nat) : State :=
  s.onCommand n 3 fun s ws =>
    let dst := wordOf ws 1
    let len := wordOf ws 2
    let size := wordOf ws 4
    let q := s.queue n
    if !([1, 2, 4, 8].contains size) then s.ends n stBadcmd
    else if dst % size ≠ 0 || len % size ≠ 0 then s.ends n stBadcmd
    else if len ≤ q.moved || q.wfail then s.endsAfter n stOk
    else
      let b := (dst + q.moved) % 2 ^ 64
      let k := min (len - q.moved) (128 - b % 128)
      s.copyPut n b ((List.range (k / size)).flatMap fun _ => leBytes size (wordOf ws 3))

/-- The addition of a SIGNAL at the home, in host memory or at a peer. -/
def signalAdd (s : State) (n va v : Nat) : State :=
  let q := s.queue n
  let sent := fun (s : State) => s.updQueue n fun q => { q with moved := 8 }
  match s.cpXlat q.ctx va true with
  | (s, .error st) => s.ends n st
  | (s, .ok pa) =>
    match aperture pa with
    | .peer off =>
      match s.fab.peerTarget off with
      | some (dev, a) => sent (s.cpPeer n dev a true (.signal a (BitVec.ofNat 64 v) true))
      | none => s.ends n stXlate
    | .host _ =>
      let old := ofLe (s.cpBytes q.ctx [(pa, 8)])
      sent ((s.cpWrite q.ctx [(pa, 8)] (leBytes 8 ((old + v) % 2 ^ 64))).updQueue n fun q => { q with flush := true })
    | _ =>
      let (id, s) := s.fresh
      sent ((s.cpSend n id pa (.amo .add 8 v 0)).updQueue n fun q => { q with out := some (id, 8) })

/-- SIGNAL: one store, or one addition modulo 2^64. -/
def signalCmd (s : State) (n : Nat) : State :=
  s.onCommand n 4 fun s ws =>
    let va := wordOf ws 1
    let v := wordOf ws 2
    let q := s.queue n
    if va % 8 ≠ 0 || 1 < wordOf ws 3 then s.ends n stBadcmd
    else if q.moved = 0 then (if wordOf ws 3 = 1 then s.signalAdd n va v else s.copyPut n va (leBytes 8 v))
    else
      match q.out with
      | none => s.endsAfter n stOk
      | some (id, _) =>
        match s.readAnswer n id with
        | some (some (_, bad), s) => (s.updQueue n fun q => { q with out := none }).endsAfter n (if bad = 0 then stOk else stUncorr)
        | _ => s

/-! ## WAIT and QUEUE-FENCE (R74, R453) -/

/-- WAIT: its checks, then it waits. -/
def waitCmd (s : State) (n : Nat) : State :=
  s.onCommand n 5 fun s ws =>
    let kind := wordOf ws 3
    let q := s.queue n
    if q.ctx = 0 && kind = 2 then s.ends n stDenied
    else if 2 < kind || (kind = 2 && 255 < wordOf ws 1) || (kind < 2 && wordOf ws 1 % 8 ≠ 0) then s.ends n stBadcmd
    else if q.waiting then s else s.updQueue n fun q => { q with waiting := true }

/-- The value that a WAIT compares: a count, or a word that is read anew. -/
def waitValue (s : State) (n : Nat) (ws : List Nat) : Got :=
  if wordOf ws 3 = 2 then .ok s (leBytes 8 (s.eventCount (s.queue n).ctx (wordOf ws 1)).toNat)
  else s.readBytes n (wordOf ws 1) 8

/-- Whether a value meets a WAIT's condition. -/
def waitMet (ws : List Nat) (v : Nat) : Bool := if wordOf ws 3 = 1 then v == wordOf ws 2 else wordOf ws 2 ≤ v

/-- Whether a command waits in WAIT or QUEUE-FENCE. -/
def inWait (s : State) (n : Nat) : Bool := (s.queue n).waiting

/-- A WAIT whose value has come: it completes when its condition holds, or with TIMEOUT when the timeout has expired. -/
def waitEnds (s : State) (n : Nat) (ws : List Nat) (v : Nat) : State :=
  let limit := wordOf ws 4 * 1000
  if waitMet ws v then s.ends n stOk v
  else if limit ≠ 0 && (s.queue n).startAt + limit ≤ s.ts then s.ends n stTimeout v
  else s

/-- One look at what a WAIT waits for. -/
def waitLook (s : State) (n : Nat) (ws : List Nat) : State :=
  match s.waitValue n ws with
  | .fails s st => s.ends n st
  | .waits s => s
  | .ok s bs => s.waitEnds n ws (ofLe bs)

/-- WAIT_SATISFIED: the word is read, and the WAIT completes when its condition holds. -/
def waitSatisfied (s : State) (n : Nat) : State :=
  s.onCommand n 5 fun s ws => if s.inWait n then s.waitLook n ws else s

/-- WAIT_TIMEOUT: the timeout has expired and the condition does not hold; RESULT is the last value read. -/
def waitTimeout (s : State) (n : Nat) : State :=
  s.onCommand n 5 fun s ws =>
    let limit := wordOf ws 4 * 1000
    if !s.inWait n || limit = 0 || s.ts < (s.queue n).startAt + limit then s else s.waitLook n ws

/-- QUEUE-FENCE: its checks, then it waits. -/
def fenceCmd (s : State) (n : Nat) : State :=
  s.onCommand n 6 fun s ws =>
    if s.inWait n then s
    else if 1023 < wordOf ws 1 || !(s.queue (wordOf ws 1)).enable then s.ends n stBadcmd
    else s.updQueue n fun q => { q with waiting := true }

/-- QUEUE_FENCE_SATISFIED. -/
def fenceMet (s : State) (n : Nat) : State :=
  s.onCommand n 6 fun s ws =>
    if s.inWait n && wordOf ws 2 ≤ (s.queue (wordOf ws 1)).cdone.toNat then s.ends n stOk else s

/-! ## INVALIDATE (R81, R472) -/

/-- The host's answers that a context's accesses use are forgotten (R37, R81). -/
def dropAts (s : State) (ctx : Nat) : State :=
  match s.context ctx with
  | some c => s.setMs fun m => { m with atsAll := aset m.atsAll c.pasid ((aget m.atsAll c.pasid).getD 0 + 1) }
  | none => s

/-- Kinds 0 and 2: the command waits for the invalidation. -/
def invalXlats (s : State) (n : Nat) (all : Bool) (lo len : Nat) : State :=
  let q := s.queue n
  if q.invalId.isSome then s
  else if !all && len = 0 then s.ends n stOk
  else
    let (id, s) := (s.dropAts q.ctx).beginInval q.ctx all lo len none (some n)
    s.updQueue n fun q => { q with invalId := some id }

/-- An INVALIDATE of one kind; another kind is left to its own event, one above 2 is malformed. -/
def invalCmd (s : State) (n kind : Nat) : State :=
  s.onCommand n 8 fun s ws =>
    let q := s.queue n
    if q.ctx = 0 then s.ends n stDenied
    else if 2 < wordOf ws 1 then s.ends n stBadcmd
    else if wordOf ws 1 ≠ kind then s
    else if kind = 1 then (s.dropFetch q.ctx (wordOf ws 2) (wordOf ws 3)).ends n stOk
    else s.invalXlats n (kind == 2) (wordOf ws 2) (wordOf ws 3)

/-! ## CONTEXT (R80) -/

/-- The peer allow list of an extension record. -/
def allowList (bs : List Byte) : List (Nat × Nat) :=
  ((List.range 16).map fun i => (ofLe ((bs.drop (4 * i)).take 2), ofLe ((bs.drop (4 * i + 2)).take 2))).filter fun p => p.1 ≤ p.2

/-- The key digests of an extension record. -/
def digestList (bs : List Byte) : List (List Byte) :=
  ((List.range 4).map fun i => (bs.drop (128 + 64 * i)).take 64).filter fun d => d.any (· ≠ 0)

/-- Whether an extension record has a reserved byte or flag bit set. -/
def badExtension (bs : List Byte) : Bool :=
  ofLe ((bs.drop 64).take 8) / 2 ≠ 0 || ((bs.drop 72).take 56).any (· ≠ 0) || (bs.drop 384).any (· ≠ 0)

/-- A context as a create or modify command gives it; of the PASID word, its low 20 bits (R80; log entry 94). -/
def contextOf (ws : List Nat) (bs : List Byte) (objs : List CodeObj) (events : List (Nat × Word)) : Context :=
  { root := wordOf ws 3, pasid := wordOf ws 4 % 2 ^ 20, xaBase := wordOf ws 5, xaBytes := wordOf ws 6, xaUsed := 0
    allow := allowList bs, reqSig := (ofLe ((bs.drop 64).take 8)).testBit 0, digests := digestList bs, objs := objs, cached := []
    events := events }

/-- Whether a launch of a context runs. -/
def contextRuns (s : State) (c : Nat) : Bool := s.cp.launches.any fun l => l.ctx == c

/-- A CONTEXT command of one operation, after the checks that all share. -/
def contextCmd (s : State) (n op : Nat) (f : State → List Nat → State) : State :=
  s.onCommand n 9 fun s ws =>
    if wordOf ws 1 = 0 || 3 < wordOf ws 1 || wordOf ws 2 = 0 || 255 < wordOf ws 2 then s.ends n stBadcmd
    else if (s.queue n).vf ≠ 0 then s.ends n stDenied
    else if wordOf ws 1 = op then f s ws else s

/-- The extension record of a command, checked. -/
def withExtension (s : State) (n : Nat) (ws : List Nat) (f : State → List Byte → State) : State :=
  match s.readBytes n (wordOf ws 7) 512 with
  | .fails s st => s.ends n st
  | .waits s => s
  | .ok s bs => if badExtension bs then s.ends n stBadcmd else f s bs

/-- CONTEXT create. -/
def contextCreate (s : State) (n : Nat) : State :=
  s.contextCmd n 1 fun s ws =>
    if (s.context (wordOf ws 2)).isSome then s.ends n stDenied
    else s.withExtension n ws fun s bs => (s.setContext (wordOf ws 2) (contextOf ws bs [] [])).ends n stOk

/-- The cached translations that lie wholly in a new translation area, where they go on being looked up, and how much of the area they
take (log entry 85). -/
def keepCached (old new : Context) : Context :=
  let inside := fun (x : CachedXlat) => new.xaBase ≤ x.va && x.va + 8 * x.code.length ≤ new.xaBase + new.xaBytes
  let kept := old.cached.filter inside
  { new with cached := kept, xaUsed := kept.foldl (fun n x => max n (x.va + 8 * x.code.length - new.xaBase)) 0 }

/-- CONTEXT modify: everything but registrations, event counts and queues is replaced, and every translation is dropped. -/
def contextModify (s : State) (n : Nat) : State :=
  s.contextCmd n 2 fun s ws =>
    let c := wordOf ws 2
    match s.context c with
    | none => s.ends n stDenied
    | some old =>
      if s.contextRuns c then s.ends n stDenied
      else s.withExtension n ws fun s bs =>
        let s := ((s.dropAts c).dropXlats c true 0 0).revoke c true 0 0
        ((s.setContext c (keepCached old (contextOf ws bs old.objs old.events))).dropAts c).ends n stOk

/-- What the hardware queues of a cluster hold is discarded; QRING keeps its value (R99; log entry 98). -/
def discardCluster (s : State) (cl : Nat) : State :=
  let empty := fun (x : HwQueue) => { x with recs := [], ringHead := 0, ringCount := 0, batch := none, batchTags := [], waitPush := [], waitPop := [] }
  { s with
    queues := s.queues.map fun e => if e.1 / 64 == cl then (e.1, empty e.2) else e
    pushes := s.pushes.filter fun p => p.cluster != cl
    cp := { s.cp with clusterCtx := adel s.cp.clusterCtx cl } }

/-- CONTEXT destroy: translations, registrations and clusters of the context go (R80, R99). -/
def contextDestroy (s : State) (n : Nat) : State :=
  s.contextCmd n 3 fun s ws =>
    let c := wordOf ws 2
    if (s.context c).isNone || s.contextRuns c || s.cp.queues.any (fun e => e.2.ctx == c) then s.ends n stDenied
    else
      let s := ((s.dropAts c).dropXlats c true 0 0).revoke c true 0 0
      let mine := s.cp.clusterCtx.filter fun e => e.2 == c
      let s := mine.foldl (fun (s : State) e => s.discardCluster e.1) s
      (s.setCp fun cp => { cp with contexts := adel cp.contexts c }).ends n stOk

end State

/-! ## The events -/

def execCommandConsume (s : State) : Out := .next s.consumeCommand
def execCommandComplete (q : Nat) (s : State) : Out := .next (s.completeCommand q)
def execCopy (q : Nat) (s : State) : Out := .next (s.copyStep q)
def execFill (q : Nat) (s : State) : Out := .next (s.fillCmd q)
def execSignalCommand (q : Nat) (s : State) : Out := .next (s.signalCmd q)
def execWaitCommand (q : Nat) (s : State) : Out := .next (s.waitCmd q)
def execWaitSatisfied (q : Nat) (s : State) : Out := .next (s.waitSatisfied q)
def execWaitTimeout (q : Nat) (s : State) : Out := .next (s.waitTimeout q)
def execQueueFence (q : Nat) (s : State) : Out := .next (s.fenceCmd q)
def execQueueFenceSatisfied (q : Nat) (s : State) : Out := .next (s.fenceMet q)
def execInvalidateRange (q : Nat) (s : State) : Out := .next (s.invalCmd q 0)
def execInvalidateIfetch (q : Nat) (s : State) : Out := .next (s.invalCmd q 1)
def execInvalidateAll (q : Nat) (s : State) : Out := .next (s.invalCmd q 2)
def execContextCreate (q : Nat) (s : State) : Out := .next (s.contextCreate q)
def execContextModify (q : Nat) (s : State) : Out := .next (s.contextModify q)
def execContextDestroy (q : Nat) (s : State) : Out := .next (s.contextDestroy q)

end Sys2Proof.Machine
end

