-- ==== Sys2Proof/Machine/Load.lean ====
section
/-! DEFINITION. LOAD-CODE with the checks of an SCO image, LAUNCH and its completion (spec 04 R76, R77, R84 to R86, R89, R90, R94; R305,
R474). -/

namespace Sys2Proof.Machine

/-! ## The image (R84) -/

/-- `n` bytes of an image from an offset, as a number. -/
def imgAt (b : List Byte) (off n : Nat) : Nat := ofLe ((b.drop off).take n)

/-- Whether `n` bytes from an offset are zero. -/
def zeroAt (b : List Byte) (off n : Nat) : Bool := ((b.drop off).take n).all (· == 0)

/-- The eight sections: TEXT, DATA, KERNELS, FUNCS, LANEFNS, SIDE, TRANSL, SIG, as offset and size. -/
def imgSections (b : List Byte) : List (Nat × Nat) := (List.range 8).map fun i => (imgAt b (0x40 + 16 * i) 8, imgAt b (0x48 + 16 * i) 8)

/-- The bytes of a section. -/
def sectionBytes (b : List Byte) (x : Nat × Nat) : List Byte := (b.drop x.1).take x.2

/-- A section by its place in the table. -/
def sectionAt (b : List Byte) (i : Nat) : List Byte := sectionBytes b (((imgSections b)[i]?).getD (0, 0))

/-- Whether two ranges share a byte. -/
def rangesMeet (a b : Nat × Nat) : Bool := a.1 < b.1 + b.2 && b.1 < a.1 + a.2

/-- Whether the present sections lie in the image, after its header, apart from one another (R85 step 1). -/
def sectionsOk (b : List Byte) : Bool :=
  let present := (imgSections b).filter fun x => x.2 != 0
  present.all (fun x => 256 ≤ x.1 && x.1 + x.2 ≤ b.length) &&
    (List.range present.length).all fun i => (present.take i).all fun y => !rangesMeet y ((present[i]?).getD (0, 0))

/-- Whether the header's own fields are legal (R84, R85 step 1). -/
def headerOk (b : List Byte) : Bool :=
  imgAt b 0 4 == 0x014F4353 && [1, 2, 3, 0x10].contains (imgAt b 4 1) && (1 ≤ imgAt b 5 1 && imgAt b 5 1 ≤ 8) && imgAt b 6 1 ≤ 8 &&
    (imgAt b 6 1 ≤ imgAt b 7 1 && imgAt b 7 1 ≤ 8) && zeroAt b 0x1B 1 && zeroAt b 0x28 24 && zeroAt b 0xC0 64 && imgAt b 0x18 1 ≤ 48 &&
    imgAt b 0x19 1 ≤ 16 && imgAt b 0x1A 1 ≤ 32 && imgAt b 0x1C 2 ≤ 2048 && imgAt b 0x1E 2 != 0

/-- The entries of a table of `n` bytes each. -/
def tableOf (n count : Nat) (b : List Byte) : List (List Byte) := (List.range count).map fun i => (b.drop (n * i)).take n

/-- Whether KERNELS, FUNCS and LANEFNS have the sizes and entries that R84, R85 and R305 ask for. -/
def tablesOk (b : List Byte) : Bool :=
  let nk := imgAt b 0x1E 2
  let text := (sectionAt b 0).length
  (sectionAt b 2).length == 32 * nk && (sectionAt b 3).length == 8 * imgAt b 0x20 4 && (sectionAt b 4).length == 16 * imgAt b 0x24 4 &&
    (tableOf 32 nk (sectionAt b 2)).all (fun e =>
      imgAt e 0 8 < text && imgAt e 0 8 % 8 == 0 && (1 ≤ imgAt e 8 1 && imgAt e 8 1 ≤ 8) && zeroAt e 9 23) &&
    (tableOf 16 (imgAt b 0x24 4) (sectionAt b 4)).all fun e =>
      (1 ≤ imgAt e 8 1 && imgAt e 8 1 ≤ 64) && (1 ≤ imgAt e 9 1 && imgAt e 9 1 ≤ 4) && (1 ≤ imgAt e 10 1 && imgAt e 10 1 ≤ 2) && zeroAt e 11 5

/-! ## SIDE and TRANSL (R89, R90) -/

/-- The format of a G3 opcode (R318), by R308's order A, A.f, B, M, V, W, T, C, Q, Y as 0 to 9; none when it is unassigned (R320). -/
def opFormat (op : Nat) : Option Nat :=
  let inR := fun (a b : Nat) => a ≤ op && op ≤ b
  if inR 0x020 0x024 || inR 0x040 0x057 then some 1
  else if op = 0x060 || op = 0x062 || op = 0x066 then some 2
  else if inR 0x001 0x02E || inR 0x061 0x06F || inR 0x0C0 0x0C1 then some 0
  else if inR 0x080 0x0AB then some 3
  else if inR 0x0FA 0x103 then some 5
  else if inR 0x0C2 0x109 then some 4
  else if inR 0x125 0x12C then some 7
  else if inR 0x120 0x14B then some 6
  else if op = 0x170 || inR 0x180 0x18F then some 9
  else if inR 0x160 0x177 then some 8
  else none

/-- Whether a word's format uses the FIELD of a symbolic-quantity record (R89). -/
def usesField (w : Word) (k : Nat) : Bool :=
  let f := opFormat (wordOp w).toNat
  if k = 8 then f.isSome && f != some 2 && wordL w else f == [0, 1, 3, 5, 7, 6, 8, 9][k]? && f.isSome

/-- The word of TEXT at an offset. -/
def textWord (text : List Byte) (off : Nat) : Word := BitVec.ofNat 64 (imgAt text off 8)

/-- The three tables of a SIDE section. -/
def sideFns (x : List Byte) : List (List Byte) := tableOf 16 (imgAt x 0 4) (x.drop 16)
def sideSites (x : List Byte) : List (List Byte) := tableOf 16 (imgAt x 4 4) (x.drop (16 + 16 * imgAt x 0 4))
def sideSyms (x : List Byte) : List (List Byte) := tableOf 24 (imgAt x 8 4) (x.drop (16 + 16 * imgAt x 0 4 + 16 * imgAt x 4 4))

/-- Whether 8 bytes of TEXT at an offset lie inside a function. -/
def insideFn (fns : List (List Byte)) (f off : Nat) : Bool :=
  match fns[f]? with
  | some e => imgAt e 0 8 ≤ off && off + 8 ≤ imgAt e 0 8 + imgAt e 8 4 && off % 8 == 0
  | none => false

/-- Whether a SIDE section keeps R89. -/
def sideOk (text x : List Byte) (nfunc : Nat) : Bool :=
  let fns := sideFns x
  16 ≤ x.length && imgAt x 0 4 == nfunc && zeroAt x 12 4 && 16 + 16 * imgAt x 0 4 + 16 * imgAt x 4 4 + 24 * imgAt x 8 4 ≤ x.length &&
    fns.all (fun e =>
      imgAt e 0 8 % 8 == 0 && imgAt e 8 4 % 8 == 0 && 8 ≤ imgAt e 8 4 && zeroAt e 12 4 && imgAt e 0 8 + imgAt e 8 4 ≤ text.length) &&
    (sideSites x).all (fun e =>
      let w := textWord text (imgAt e 0 8)
      insideFn fns (imgAt e 8 4) (imgAt e 0 8) && imgAt e 12 4 < nfunc && wordOp w == 0x064 && !wordL w) &&
    (sideSyms x).all fun e =>
      insideFn fns (imgAt e 8 4) (imgAt e 0 8) && usesField (textWord text (imgAt e 0 8)) (imgAt e 12 1) && imgAt e 12 1 ≤ 8 &&
        imgAt e 13 1 ≤ 5 && (if imgAt e 13 1 = 2 then 3 ≤ imgAt e 14 1 && imgAt e 14 1 ≤ 6 else imgAt e 14 1 == 0) && zeroAt e 15 1

/-- The records of a TRANSL section, each with its header and code; none when one is malformed (R90). -/
def translRecs (nfunc : Nat) : Nat → List Byte → Option (List (List Byte))
  | _, [] => some []
  | 0, _ => none
  | fuel + 1, b =>
    let n := imgAt b 76 4
    let size := 128 + cdiv n 64 * 64
    if b.length < size || n < 8 || n % 8 ≠ 0 || nfunc ≤ imgAt b 72 4 || 8 < imgAt b 80 1 || imgAt b 81 1 < imgAt b 80 1 || 8 < imgAt b 81 1 ||
        !zeroAt b 82 46 then none
    else (translRecs nfunc fuel (b.drop size)).map fun t => b.take size :: t

/-- The records of an image's TRANSL section. -/
def imgTransl (b : List Byte) : Option (List (List Byte)) :=
  let x := sectionAt b 6
  translRecs (imgAt b 0x20 4) (x.length / 128 + 1) x

/-- Whether SIDE and TRANSL match GEN and keep R89 and R90 (R84, R85 step 1). -/
def byinoOk (b : List Byte) : Bool :=
  let side := sectionAt b 5
  if imgAt b 4 1 = 0x10 then sideOk (sectionAt b 0) side (imgAt b 0x20 4) && (imgTransl b).isSome
  else side.isEmpty && (sectionAt b 6).isEmpty

/-- A function as the image has it. -/
def funcOf (text side : List Byte) (i : Nat) (e : List Byte) : FuncInfo :=
  let own := fun (r : List Byte) => imgAt r 8 4 == i
  { words := (List.range (imgAt e 8 4 / 8)).map fun k => textWord text (imgAt e 0 8 + 8 * k)
    recs := ((sideSites side).filter own).flatten ++ ((sideSyms side).filter own).flatten }

/-- The code object of an image (R84). -/
def objectOf (b : List Byte) (codeId base : Nat) : CodeObj :=
  let byino := imgAt b 4 1 == 0x10
  let text := sectionAt b 0
  let side := sectionAt b 5
  { codeId := codeId, base := base, gen := if byino then 3 else imgAt b 4 1, byino := byino, slip := imgAt b 5 1, lmin := imgAt b 6 1
    lmax := imgAt b 7 1, frameVb := imgAt b 8 2, spillVb := imgAt b 10 2, fixB := imgAt b 12 4, secVer := imgAt b 0x10 8
    ntile := imgAt b 0x18 1, nacc := imgAt b 0x19 1, nbar := imgAt b 0x1C 2, nkern := imgAt b 0x1E 2, nfunc := imgAt b 0x20 4
    nlanefn := imgAt b 0x24 4, sections := imgSections b
    lanefns := (tableOf 16 (imgAt b 0x24 4) (sectionAt b 4)).map fun e => (imgAt e 0 8, imgAt e 8 1, imgAt e 9 1, imgAt e 10 1)
    kernels := (tableOf 32 (imgAt b 0x1E 2) (sectionAt b 2)).map fun e => (imgAt e 0 8, imgAt e 8 1)
    funcs := if byino then (sideFns side).zipIdx.map fun e => funcOf text side e.2 e.1 else []
    sites := if byino then (sideSites side).map fun e => (imgAt e 0 8, imgAt e 12 4) else [] }

/-! ## LOAD-CODE (R85) -/

/-- The image with the bytes of its SIG section taken as zero (R84). -/
def unsigned (b : List Byte) : List Byte :=
  let x := ((imgSections b)[7]?).getD (0, 0)
  b.take x.1 ++ List.replicate x.2 0 ++ b.drop (x.1 + x.2)

/-- Step 2: whether the signature serves the context; the public key is the first 64 bytes of SIG (log entry 11). -/
def signatureOk (c : Context) (b : List Byte) : Bool :=
  let sig := sectionAt b 7
  if sig.isEmpty then !c.reqSig
  else c.digests.contains (shake256 (sig.take 64)) && Config.slhDsaVerify (sig.take 64) (unsigned b) (sig.drop 64)

/-- The checks of steps 1 to 4: the status of the first that fails. -/
def loadStatus (c : Context) (fuse : Word) (b : List Byte) (codeId reg : Nat) : Option Nat :=
  if !(headerOk b && sectionsOk b && tablesOk b && byinoOk b) then some stBadobj
  else if !signatureOk c b then some stBadsig
  else if imgAt b 0x10 8 < fuse.toNat then some stRevoked
  else if codeId = 0 || 4095 < codeId || (reg != 0 && (reg < 4 || 7 < reg)) then some stDenied
  else none

namespace State

/-- Registers an object in a context, or takes its registration away. -/
def register (s : State) (n codeId : Nat) (o : Option CodeObj) : State :=
  match s.context n with
  | some c => s.setContext n { c with objs := c.objs.filter (fun x => x.codeId != codeId) ++ o.toList }
  | none => s

/-- Step 7: one record of TRANSL becomes a cached translation, if its version holds and it fits (R85, R90); none while a home holds the
write. -/
def loadTransl (s : State) (n : Nat) (r : List Byte) : Option State :=
  match s.context n with
  | none => some s
  | some c =>
    let code := (tableOf 8 (imgAt r 76 4 / 8) (r.drop 128)).map fun w => BitVec.ofNat 64 (ofLe w)
    match if imgAt r 64 8 < s.plat.fuseCounter.toNat then none else c.areaPlace (8 * code.length) with
    | none => some s
    | some va =>
      match s.mgmtWrite n va (wordBytes code) with
      | .error .waits => none
      | .error .fails => some s
      | .ok s =>
        some (s.setContext n (c.cache
          { va := va, digest := r.take 64, secVer := imgAt r 64 8, lmin := imgAt r 80 1, lmax := imgAt r 81 1, code := code }))

/-- The records of a TRANSL section in turn. -/
def loadTransls (n : Nat) : List (List Byte) → State → Option State
  | [], s => some s
  | r :: t, s => (s.loadTransl n r).bind (loadTransls n t)

/-- Steps 7 and 8: cached translations enter the area, the object is registered, and the command has its RESULT; none while a home holds a
write. FUNCS entries of a Byino image with VALID = 1 stand as they are (R88; log entry 96). -/
def finishLoad (s : State) (x : LoadRest) : Option State :=
  let recs := if imgAt x.image 4 1 = 0x10 then (imgTransl x.image).getD [] else []
  (loadTransls x.ctx recs s).map fun s =>
    (s.register x.ctx x.codeId (some (objectOf x.image x.codeId x.base))).ends x.queue stOk x.codeId

/-- Steps 6 to 8 once the image has been written: the measurement first, if one is asked for. -/
def measureLoad (s : State) (x : LoadRest) (reg : Nat) : State :=
  if reg = 0 then (s.finishLoad x).getD s
  else
    let id := s.cp.nextExtend
    let e : Extend := { id := id, reg := reg, data := shake256 x.image, load := some x }
    (s.setCp fun cp => { cp with extensions := cp.extensions ++ [e], nextExtend := id + 1 }).updQueue x.queue fun q => { q with waiting := true }

/-- A LOAD-CODE that got a status while it wrote its image has no registration (step 5). -/
def unregister (s : State) (x : LoadRest) : State :=
  if (s.queue x.queue).status.isSome then s.register x.ctx x.codeId none else s

/-- Step 5: the next part of the image is written at the load address; steps 6 to 8 follow the last. -/
def loadPut (s : State) (x : LoadRest) (reg : Nat) : State :=
  let s := s.updQueue x.queue fun q => { q with got := x.image }
  let q := s.queue x.queue
  if q.moved < x.image.length && !q.wfail then
    let part := (x.image.drop q.moved).take 128
    (s.writePart x.queue (x.base + q.moved) part fun s => s.updQueue x.queue fun q => { q with moved := q.moved + part.length }).unregister x
  else if s.writesOut x.queue then s
  else if q.wfail then (s.ends x.queue stXlate).unregister x
  else s.measureLoad x reg

/-- LOAD-CODE: the image is read, checked and written. It completes once its measurement is made. -/
def loadCode (s : State) (n : Nat) : State :=
  s.onCommand n 7 fun s ws =>
    let q := s.queue n
    if q.waiting then s
    else if q.ctx = 0 then s.ends n stDenied
    else if wordOf ws 3 % 256 ≠ 0 || wordOf ws 2 < 256 then s.ends n stBadcmd
    else
      match s.readBytes n (wordOf ws 1) (wordOf ws 2), s.context q.ctx with
      | .fails s st, _ => s.ends n st
      | .waits s, _ => s
      | .ok s b, some c =>
        match if q.moved = 0 then loadStatus c s.plat.fuseCounter b (wordOf ws 4) (wordOf ws 5) else none with
        | some st => s.ends n st
        | none => s.loadPut { queue := n, ctx := q.ctx, base := wordOf ws 3, codeId := wordOf ws 4, image := b } (wordOf ws 5)
      | .ok s _, none => s.ends n stDenied

end State

/-- MEASUREMENT_EXTEND: the security unit extends a register (R65, R66); the LOAD-CODE or the MEASURE that waits for it goes on. -/
def execMeasurementExtend (n : Nat) (s : State) : Out :=
  match s.cp.extensions.find? fun x => x.id == n with
  | none => .next s
  | some x =>
    let t := s.setPlat fun p =>
      { p with mr := p.mr.setIfInBounds x.reg (shake256 ((p.mr[x.reg]?).getD [] ++ x.data)) }
    let t := t.setCp fun cp => { cp with extensions := cp.extensions.filter fun y => y.id != n }
    match x.load with
    | some r => .next ((t.finishLoad r).getD s)
    | none =>
      match t.blocks.find? (fun (e : Nat × Block) => e.2.wait == some (.measure n)) with
      | some e => .next (t.onHart e.1 State.finishOp)
      | none => .next t

/-! ## LAUNCH (R76, R77) -/

/-- Whether a launch record's fields lie in their ranges (R76). -/
def recordOk (r : List Nat) : Bool :=
  let w := wordAt r
  let gx := field (w 1) 32 32
  let gy := field (w 1) 16 16
  let gz := field (w 1) 0 16
  let f := fun (lo n : Nat) => field (w 2) lo n
  field (w 0) 0 16 == 0 && gx != 0 && gy != 0 && gz != 0 && gx * gy * gz ≤ 2 ^ 32 && (1 ≤ f 60 4 && f 60 4 ≤ 8) && f 55 4 ≤ 8 && f 51 4 ≤ 8 &&
    f 47 4 ≤ 8 && f 43 4 ≤ 8 && f 41 2 != 3 && f 0 41 == 0 && w 3 % 256 == 0 && w 5 == 0 && w 6 == 0 && w 7 == 0
where wordAt (r : List Nat) (i : Nat) : Nat := (r[i]?).getD 0

/-- The bytes of one stack area (R77). No access is checked against it but FORK's (log entry 92). -/
def areaSize (o : CodeObj) (lmax : Nat) : Nat := cdiv (max (o.fixB + (o.frameVb + o.spillVb) * (16 * lmax * 8)) 128) 256 * 256

/-- The launch that a record asks of an object (R76, R77). -/
def launchFrom (q : Nat) (k : Queue) (id : Nat) (r : List Nat) (o : CodeObj) : Launch :=
  let w := fun (i : Nat) => (r[i]?).getD 0
  let f := fun (lo n : Nat) => field (w 2) lo n
  let kernel := field (w 0) 16 16
  let (off, st) := (o.kernels[kernel]?).getD (0, 1)
  let lmax := min (f 43 4) o.lmax
  let stages := if f 55 4 = 0 then st else f 55 4
  let size := areaSize o lmax
  { id := id, queue := q, ctx := k.ctx, prio := k.prio, order := id, obj := o, kernel := kernel
    entry := (o.base + ((o.sections[0]?).getD (0, 0)).1 + off) % 2 ^ 64
    gx := field (w 1) 32 32, gy := field (w 1) 16 16, gz := field (w 1) 0 16, gang := f 60 4, packed := f 59 1 == 1, stages := stages
    slip := if f 51 4 = 0 then o.slip else f 51 4, lmin := max (f 47 4) o.lmin, lmax := lmax, dies := f 41 2, stackBase := w 3
    areaBytes := size, areas := w 4 / size, areasUsed := [], args := (List.range 8).map fun i => BitVec.ofNat 64 (w (8 + i)), nextGang := 0
    live := List.replicate stages 0 }

namespace State

/-- What a captured launch record leads to: a status, or the launch. -/
def launchStatus (s : State) (n : Nat) (r : List Nat) : Except Nat Launch :=
  let q := s.queue n
  match (s.context q.ctx).bind fun c => c.objs.find? fun o => o.codeId == field ((r[0]?).getD 0) 32 32 with
  | none => .error stBadcmd
  | some o =>
    let l := launchFrom n q s.cp.nextLaunch r o
    if !recordOk r || o.nkern ≤ l.kernel || l.lmax < l.lmin || l.areas = 0 then .error stBadcmd
    else if o.secVer < s.plat.fuseCounter.toNat then .error stRevoked
    else .ok l

/-- LAUNCH: the record is captured and checked, and the launch begins to be placed. -/
def launchCmd (s : State) (n : Nat) : State :=
  s.onCommand n 1 fun s ws =>
    let q := s.queue n
    if s.cp.launches.any fun l => l.queue == n then s
    else if q.ctx = 0 then s.ends n stDenied
    else if wordOf ws 1 % 128 ≠ 0 then s.ends n stBadcmd
    else
      match s.readBytes n (wordOf ws 1) 128 with
      | .fails s st => s.ends n st
      | .waits s => s
      | .ok s bs =>
        match s.launchStatus n ((List.range 16).map fun i => field (ofLe bs) (64 * i) 64) with
        | .error st => s.ends n st
        | .ok l => s.setCp fun cp => { cp with launches := cp.launches ++ [l], nextLaunch := l.id + 1 }

/-- Whether nothing of a launch is left: every gang placed, no block, child, parent or image (R79, R474). -/
def launchOver (s : State) (l : Launch) : Bool :=
  (l.aborted || (gangCount l ≤ l.nextGang && clusters.all fun cl => (s.stagesDue l cl).isEmpty)) &&
    !s.blocks.any (fun (e : Nat × Block) => e.2.launch == l.id && e.2.placed) && !s.cp.children.any (fun k => k.launch == l.id) &&
    !s.cp.suspended.any (fun x => x.blk.launch == l.id) && !s.cp.resumes.any (fun r => r.launch == l.id) &&
    !s.cp.saved.any fun g => g.gang.launch == l.id

/-- Whether a write of a hart to a peer is under way. -/
def peerWriteOut (s : State) (h : Nat) : Bool := s.fab.waits.any fun w => w.hart == h && w.posted

/-- The halt of a block of an aborted launch goes on: its engines stop, what it issued completes, its writes are released, it leaves (R72,
R79, R186). -/
def haltStep (s : State) (h : Nat) : State :=
  let b := s.blkAt h
  if b.stop < 3 then s.haltBlock h
  else if stopEngines b ≠ b then s.setBlkAt h (stopEngines b)
  else if unstopped b || !b.reads.isEmpty || b.wait.isSome || s.peerWriteOut h then s
  else if b.stop = 3 then
    if (s.focus h).quiescent .device then s.removeBlock h false
    else if b.sq.length < 16 then s.setBlkAt h { b with stop := 4, sq := b.sq ++ [.release .device none false .drain false] }
    else s
  else if b.sq.isEmpty && b.unacked.isEmpty then s.removeBlock h false
  else s

/-- The halt of an aborted launch goes on at every block of it. -/
def haltLaunch (s : State) (id : Nat) : State :=
  ((s.dropLaunch id).blocks.filter fun (e : Nat × Block) => e.2.launch == id && e.2.placed).foldl (fun (s : State) e => s.haltStep e.1)
    (s.dropLaunch id)

/-- LAUNCH_COMPLETE: OK, or FAULT for an aborted launch once every block of it has halted and left (R79, R474); the command processor
flushes what the aborted blocks wrote to the host (R72). -/
def launchComplete (s : State) (id : Nat) : State :=
  match s.launchOf id with
  | none => s
  | some l =>
    if s.launchOver l then
      let gone := fun (c : Carry) => c.launch != id
      let s := { s with carries := s.carries.filter gone, completions := s.completions.filter gone }
      let s := if l.aborted && s.cores.any fun e => !e.2.hostPorts.isEmpty then s.updQueue l.queue fun q => { q with flush := true } else s
      (s.setCp fun cp => { cp with launches := cp.launches.filter fun k => k.id != id }).ends l.queue (if l.aborted then stFault else stOk)
    else if l.aborted then s.haltLaunch id
    else s

end State

def execLoadCode (q : Nat) (s : State) : Out := .next (s.loadCode q)
def execLaunch (q : Nat) (s : State) : Out := .next (s.launchCmd q)
def execLaunchComplete (launch : Nat) (s : State) : Out := .next (s.launchComplete launch)

end Sys2Proof.Machine
end

