-- ==== Sys2Proof/Machine/HostRegs.lean ====
section
/-! DEFINITION. The host's side: every register of the PF management window, the doorbell pages, the debug windows, and device memory
through BAR2 (spec 02 R31 to R36, R41, R42, R44, R46; spec 03 R48, R49, R52, R56; spec 04 R67 to R69; R121, R164, R171, R261, R278 to R284,
R473). -/

namespace Sys2Proof.Machine

/-! ## Byte enables (R473) -/

/-- The bits of the bytes that a write enables. -/
def beMask (be : BitVec 8) : Word := BitVec.ofNat 64 (spread (be.setWidth 64) 8)

/-- A register's value after a write of its enabled bytes. -/
def mergeBe (old : Word) (be : BitVec 8) (data : Word) : Word := (old &&& ~~~beMask be) ||| (data &&& beMask be)

/-- Whether a write enables bytes `lo` to `hi`, all of them. -/
def enablesAll (be : BitVec 8) (lo hi : Nat) : Bool := (List.range (hi + 1)).all fun i => i < lo || be.getLsbD i

/-- Whether a write enables any of bytes `lo` to `hi`. -/
def enablesAny (be : BitVec 8) (lo hi : Nat) : Bool := (List.range (hi + 1)).any fun i => lo ≤ i && be.getLsbD i

/-! ## Queue descriptors and doorbells (R34, R67 to R69) -/

/-- QCFG. -/
def Queue.cfg (q : Queue) : Word :=
  State.packFields
    [(63, if q.enable then 1 else 0), (62, if q.msien then 1 else 0), (60, q.prio), (55, q.log2size), (50, q.evlog2), (42, q.ctx), (37, q.vf),
     (26, q.msixv)]

/-- A queue with the fields of a QCFG value. -/
def Queue.withCfg (q : Queue) (v : Word) : Queue :=
  let f := fun (lo n : Nat) => field v.toNat lo n
  { q with enable := v.getLsbD 63, msien := v.getLsbD 62, prio := f 60 2, log2size := f 55 5, evlog2 := f 50 5, ctx := f 42 8, vf := f 37 5
           msixv := f 26 11 }

/-- QSTAT. -/
def Queue.stat (q : Queue) : Word :=
  State.packFields
    [(3, if q.cfgerr then 1 else 0), (2, if q.evlost then 1 else 0), (1, if q.halted then 1 else 0), (0, if q.cmd.isNone then 1 else 0)]

namespace State

/-- Whether a configuration passes the checks of R68. -/
def cfgOk (s : State) (q : Queue) : Bool :=
  (4 ≤ q.log2size && q.log2size ≤ 16) && (4 ≤ q.evlog2 && q.evlog2 ≤ 16) && (q.ctx == 0 || (s.context q.ctx).isSome) &&
    (q.ctx != 0 || q.vf == 0) && q.vf ≤ s.plat.vfs && (q.vf == 0 || q.msixv ≤ 63)

/-- A write of QCFG (R68, R71). -/
def writeQcfg (s : State) (n : Nat) (be : BitVec 8) (data : Word) : State :=
  let old := s.queue n
  let v := mergeBe old.cfg be data
  let new := old.withCfg v
  let s := s.changeQueue n fun q =>
    if old.enable then { q with enable := new.enable, msien := new.msien, prio := new.prio }
    else if !new.enable then new
    else if s.cfgOk new then { new with head := 0, tail := 0, evHead := 0, evTail := 0, cdone := 0 }
    else { new with enable := false, cfgerr := true }
  s.setCp fun cp => { cp with launches := mapIf (fun l => l.queue == n) (fun l => { l with prio := (s.queue n).prio }) cp.launches }

/-- A write of QBASE or QEVBASE: ignored while the queue is enabled (R67, R68). -/
def writeQbase (s : State) (n : Nat) (ev : Bool) (be : BitVec 8) (data : Word) : State :=
  s.updQueue n fun q =>
    if q.enable then q
    else if ev then { q with qevbase := mergeBe q.qevbase be data &&& ~~~63 } else { q with qbase := mergeBe q.qbase be data &&& ~~~63 }

/-- A write of EVHEAD: room in the ring lets waiting records go (R69, R83). -/
def writeEvhead (s : State) (n : Nat) (be : BitVec 8) (data : Word) : State :=
  let q := s.queue n
  let t := (s.setQueue n { q with evHead := (mergeBe (BitVec.ofNat 64 q.evHead) be data).toNat % 2 ^ 32 }).flushQueue n
  t.setQueue n { t.queue n with readySince := if (t.queue n).ready && !q.ready then s.ts else q.readySince }

/-- A write of QSTAT: its bits are cleared by ones (R69). -/
def writeQstat (s : State) (n : Nat) (be : BitVec 8) (data : Word) : State :=
  let v := data &&& beMask be
  s.changeQueue n fun q =>
    { q with cfgerr := q.cfgerr && !v.getLsbD 3, evlost := q.evlost && !v.getLsbD 2, halted := q.halted && !v.getLsbD 1 }

/-- A doorbell write: TAIL, of an enabled queue, by a write of all its bytes (R34, R473). -/
def writeTail (s : State) (n : Nat) (be : BitVec 8) (data : Word) : State :=
  if (s.queue n).enable && enablesAll be 0 3 then s.changeQueue n fun q => { q with tail := data.toNat % 2 ^ 32 } else s

/-! ## STAGGER (R44, R52) -/

/-- The 24 bytes of data that carry a STAGGER on the link (R44). -/
def staggerBytes (m : StaggerMsg) : List Byte :=
  leBytes 8 m.t0 ++ leBytes 4 m.width ++ leBytes 2 m.slots ++ leBytes 2 m.origin ++ leBytes 2 m.seq ++ leBytes 6 0

/-- The STAGGER that 24 bytes of data carry. -/
def staggerOf (l : List Byte) : StaggerMsg :=
  let f := fun (lo n : Nat) => ofLe ((l.drop lo).take n)
  { t0 := f 0 8, width := f 8 4, slots := f 12 2, origin := f 14 2, seq := f 16 2 }

/-- Puts a message of this device on the CTL channel of a port, to the port's peer (R44, R46). -/
def sendCtl (s : State) (p : Nat) (body : SxlBody) : State :=
  let m : SxlMsg := { src := s.plat.rank, dst := ((aget s.fab.ports p).getD {}).peer, tag := 0, hops := 0, body := body }
  { s with fab := { s.fab with queued := s.fab.queued ++ [(p, m)] } }

/-- The release time that a STAGGER gives this device. -/
def staggerTime (s : State) (m : StaggerMsg) : Nat := m.t0 + s.plat.rank % (max m.slots 1) * m.width

/-- Every port in service. -/
def livePorts (s : State) : List Nat := (s.fab.ports.filter fun p => p.2.trained && p.2.up).map (·.1)

/-- STAGGER_RELEASE: the release time has come; event 0 of every live context counts up (R52). -/
def staggerRelease (s : State) : State :=
  match s.plat.stgRelease with
  | none => s
  | some t =>
    if t ≤ s.ts then
      s.cp.contexts.foldl (fun (s : State) c => s.bumpEvent c.1 0) (s.setPlat fun p => { p with stgRelease := none })
    else s

/-- A device handles a STAGGER that came over `from_`: once per ORIGIN and SEQ; it goes on to every other port (a device without a rank
sends nothing, R36), and sets the release in place of one that is still to come; a release time already past is acted on at once
(R44, R53). -/
def handleStagger (s : State) (from_ : Option Nat) (m : StaggerMsg) : State :=
  if s.plat.stgSeen.contains (m.origin, m.seq) then s
  else
    let s := s.staggerRelease
    let out := if s.plat.rank = 0xFFFF then [] else s.livePorts.filter fun p => some p != from_
    let s := out.foldl (fun (s : State) p => s.sendCtl p (.stagger (staggerBytes m))) s
    (s.setPlat fun p =>
      { p with stgSeen := p.stgSeen ++ [(m.origin, m.seq)], stgRelease := some (s.staggerTime m) }).staggerRelease

/-- A write of STGGO: a message from the registers as they stand, unless the device has no rank (R44). -/
def staggerGo (s : State) (be : BitVec 8) : State :=
  if be = 0 || s.plat.rank = 0xFFFF then s
  else
    let seq := (s.plat.stgSeq + 1) % 65536
    let m : StaggerMsg := { t0 := s.plat.stgT0.toNat, width := s.plat.stgWidth, slots := s.plat.stgSlots, origin := s.plat.rank, seq := seq }
    (s.setPlat fun p => { p with stgSeq := seq }).handleStagger none m

/-! ## Registers of the platform (R36, R46, R48, R49, R121, R171) -/

/-- A write of FABRANK: the first sets RANK, a second is ignored. -/
def writeRank (s : State) (be : BitVec 8) (data : Word) : State :=
  if s.plat.rankSet || !enablesAny be 0 1 then s
  else s.setPlat fun p => { p with rank := (mergeBe (BitVec.ofNat 64 p.rank) be data).toNat % 65536, rankSet := true }

/-- A write of TSCTL. The root counts freely: a correction under way ends (R46). -/
def writeTsctl (s : State) (be : BitVec 8) (data : Word) : State :=
  let v := mergeBe (tsctl s.plat) be data
  let s := if v.getLsbD 32 then { s with slew := 0, halfRate := false, slewOdd := false } else s
  s.setPlat fun p => { p with tsctlRootDev := field v.toNat 48 16, tsctlRoot := v.getLsbD 32 }

/-- A weight as it is stored (R171). -/
def weight (n : Nat) : Nat := max 1 n

def writeMeshwt (s : State) (be : BitVec 8) (data : Word) : State :=
  let v := (mergeBe (meshwt s.plat) be data).toNat
  s.setPlat fun p =>
    { p with meshLat := weight (field v 12 4), meshBulk := weight (field v 8 4), meshRsp := weight (field v 4 4), meshCtl := weight (field v 0 4) }

/-- STGCFG. -/
def stgcfg (p : Platform) : Word := packFields [(32, p.stgWidth), (16, p.stgSlots)]

def writeStgcfg (s : State) (be : BitVec 8) (data : Word) : State :=
  let v := (mergeBe (stgcfg s.plat) be data).toNat
  s.setPlat fun p => { p with stgWidth := field v 32 32, stgSlots := field v 16 16 }

/-! ## Contexts' handlers, peer windows, routes (R41, R42, R261) -/

def writeCtxReg (s : State) (c : Nat) (deleg : Bool) (be : BitVec 8) (data : Word) : State :=
  if c = 0 then s
  else if deleg then
    s.setCp fun cp => { cp with ctxDeleg := aset cp.ctxDeleg c (ctlStored 0x021 (mergeBe ((aget cp.ctxDeleg c).getD 0) be data)) }
  else s.setCp fun cp => { cp with ctxTvec := aset cp.ctxTvec c (ctlStored 0x020 (mergeBe ((aget cp.ctxTvec c).getD 0) be data)) }

/-- The bits of a peer window entry that hold a value. -/
def peerMask : Word := 0x800000003FF0FFFF

def writePeerWin (s : State) (w : Nat) (be : BitVec 8) (data : Word) : State :=
  let v := mergeBe ((aget s.fab.peerWin w).getD 0) be data &&& peerMask
  { s with fab := { s.fab with peerWin := aset s.fab.peerWin w v } }

/-- The sixteen route entries of one word. -/
def routeWord (s : State) (i : Nat) : Word := packFields ((List.range 16).map fun k => (4 * k, s.fab.routeTo (16 * i + k)))

def writeRoutes (s : State) (i : Nat) (be : BitVec 8) (data : Word) : State :=
  let v := (mergeBe (s.routeWord i) be data).toNat
  let routes := (List.range 16).foldl (fun (r : List (Nat × Nat)) k =>
    let e := field v (4 * k) 4
    if e = 0xF then adel r (16 * i + k) else aset r (16 * i + k) e) s.fab.routes
  { s with fab := { s.fab with routes := routes } }

/-! ## Trace registers (R284) -/

/-- LOG2N as it is stored. -/
def traceLog2 (n : Nat) : Nat := if n = 0 then 0 else if n < 8 then 8 else if 24 < n then 24 else n

def trcctlWord (c : Core) : Word :=
  packFields [(32, c.trcHead), (16, c.trcKinds), (11, c.trcLog2), (10, if c.trcWrap then 1 else 0), (0, c.trcLost)]

/-- A write of TRCCTL: HEAD and LOST become 0. -/
def writeTrcctl (s : State) (c : Nat) (be : BitVec 8) (data : Word) : State :=
  if be = 0 then s
  else
    let v := (mergeBe (trcctlWord (s.core c)) be data).toNat
    s.updCore c fun k =>
      { k with trcKinds := field v 16 9, trcLog2 := traceLog2 (field v 11 5), trcWrap := v.testBit 10, trcHead := 0, trcLost := 0 }

def writeTrcbase (s : State) (c : Nat) (be : BitVec 8) (data : Word) : State :=
  s.updCore c fun k => { k with trcBase := mergeBe k.trcBase be data &&& ~~~63 }

/-! ## Debug windows (R278 to R283) -/

/-- Whether hart `h` is halted. -/
def isHalted (s : State) (h : Nat) : Bool := (s.blkAt h).placed && (s.blkAt h).ctl.haltstat.getLsbD 0

/-- A debug image may be made or loaded: HALTED and QUIET are 1 (R283). -/
def imageReady (s : State) (h pa : Nat) : Bool :=
  s.isHalted h && (haltstatOf (s.blkAt h)).getLsbD 1 && (match aperture pa with
    | .device _ => true
    | _ => false)

/-- Whether every access of a block has been performed. -/
def drained (b : Block) : Bool := b.sq.isEmpty && b.pend.isEmpty && b.unacked.isEmpty

/-- A write of DBGIMG while HALTED and QUIET are 1 waits until the block's accesses under way have been performed. -/
def debugWait (s : State) (h : Nat) (data : Word) : State := s.updBlkAt h fun b => { b with dbgReq := some data }

/-- DBGIMG save: the block's image is written at a device address; it waits for the block's own accesses. -/
def debugSave (s : State) (h pa : Nat) : State :=
  let pa := pa / 64 * 64
  if !s.imageReady h pa then s
  else if !drained (s.blkAt h) then s.debugWait h (BitVec.ofNat 64 pa)
  else
    let x := s.savedOf h
    let img := imageOf x (s.gangIndex x.blk) x.blk.pc x.blk.estart
    (s.setMs fun m => m.sysWrite none pa img).setCp fun cp => { cp with images := aset cp.images pa x }

/-- DBGIMG load: the block takes the state of an image on the same core. A bad image, or one whose needs the core lacks, changes
nothing (log entry 19). -/
def debugLoad (s : State) (h pa : Nat) : State :=
  let pa := pa / 64 * 64
  if !s.imageReady h pa then s
  else if !drained (s.blkAt h) then s.debugWait h (BitVec.ofNat 64 (pa + 1))
  else
    match s.imageAt pa with
    | none => s
    | some v =>
      if !v.good || field (v.get 32 8) 8 2 ≠ (s.blkAt h).gen then s
      else
        let (s', x) := s.imageBase h pa v
        (s'.loadImage h v x).getD s

/-- A DBGIMG write that waited is performed once the block's accesses have been; one whose hart goes on meanwhile is dropped (log entry
19). -/
def debugDue (s : State) (h : Nat) : State :=
  match (s.blkAt h).dbgReq with
  | none => s
  | some w =>
    if s.isHalted h && !drained (s.blkAt h) then s
    else
      let s := s.updBlkAt h fun b => { b with dbgReq := none }
      if w.getLsbD 0 then s.debugLoad h w.toNat else s.debugSave h w.toNat

/-- What REGDATA reads: the register that REGSEL names (R283). -/
def regdata (s : State) (h : Nat) : Word :=
  let b := s.blkAt h
  let n := b.ctl.regsel.toNat % 256
  match b.ctl.regsel.toNat / 256 with
  | 0 => if n < 64 then b.getX (BitVec.ofNat 6 n) else 0
  | 1 => if n < 8 && b.getP n then 1 else 0
  | 2 => (s.focus h).ctlRead n
  | _ => 0

/-- A write of a control register of hart `h` with the rights of S level (R283). -/
def debugCtl (s : State) (h n : Nat) (v : Word) : State :=
  if n = 0x028 then s.writeHaltstat h v
  else if n = 0x01A then s.setPlat (setPwrramp v)
  else if n = 0x01B then s.setPlat (setPwrfloor v)
  else s.onHart h fun s => s.ctlWrite n v

def writeRegdata (s : State) (h : Nat) (v : Word) : State :=
  let sel := (s.blkAt h).ctl.regsel.toNat
  let n := sel % 256
  match sel / 256 with
  | 0 => if n < 64 then s.updBlkAt h fun b => b.setX (BitVec.ofNat 6 n) v else s
  | 1 => s.updBlkAt h fun b => b.setP n (v.getLsbD 0)
  | 2 => s.debugCtl h n v
  | _ => s

/-- The value of a register of a debug window (R283). -/
def debugRead (s : State) (h off : Nat) : Word :=
  let b := s.blkAt h
  if !b.placed then 0
  else if off = 0x00 then haltstatOf b
  else if off = 0x08 then b.pc
  else if off = 0x10 then b.estart
  else if 0x18 ≤ off && off < 0x38 then ctlGet b (0x030 + (off - 0x18) / 8)
  else if 0x38 ≤ off && off < 0x58 then ctlGet b (0x034 + (off - 0x38) / 8)
  else if 0x58 ≤ off && off < 0x78 then ctlGet b (0x038 + (off - 0x58) / 8)
  else if off = 0x78 then (if b.ctl.brkh then 1 else 0)
  else if off = 0x80 then b.ctl.regsel.setWidth 64
  else if off = 0x88 then (if b.ctl.haltstat.getLsbD 0 then s.regdata h else 0)
  else 0

/-- A host write of the PC: a hart that comes to stand elsewhere issues there afresh. -/
def debugPc (s : State) (h : Nat) (v : Word) : State :=
  let v := v &&& ~~~7
  if v = (s.blkAt h).pc then s
  else s.updBlkAt h fun b =>
    { b with pc := v, wait := none, rep := none, rel := .none, xbuf := [], pops := [], frameAns := none, skipWatch := [] }

/-- A write of one register of a debug window. -/
def debugWrite (s : State) (h off : Nat) (be : BitVec 8) (data : Word) : State :=
  let b := s.blkAt h
  let v := mergeBe (s.debugRead h off) be data
  if !b.placed || be = 0 then s
  else if off = 0x00 then (if be.getLsbD 0 then s.writeHaltstat h v else s)
  else if off = 0x08 then (if s.isHalted h then s.debugPc h v else s)
  else if off = 0x10 then (if s.isHalted h then s.updBlkAt h fun b => { b with estart := v } else s)
  else if 0x18 ≤ off && off < 0x38 then s.updBlkAt h fun b => ctlPut b (0x030 + (off - 0x18) / 8) v
  else if 0x38 ≤ off && off < 0x58 then s.updBlkAt h fun b => ctlPut b (0x034 + (off - 0x38) / 8) v
  else if 0x58 ≤ off && off < 0x78 then s.updBlkAt h fun b => ctlPut b (0x038 + (off - 0x58) / 8) v
  else if off = 0x78 then s.updBlkAt h fun b => { b with ctl := { b.ctl with brkh := v.getLsbD 0 } }
  else if off = 0x80 then s.updBlkAt h fun b => { b with ctl := { b.ctl with regsel := v.setWidth 10 } }
  else if off = 0x88 then (if s.isHalted h then s.writeRegdata h v else s)
  else if off = 0x90 then
    (if !enablesAll be 0 7 then s else if data.getLsbD 0 then s.debugLoad h data.toNat else s.debugSave h data.toNat)
  else s

/-! ## The window (R32) -/

/-- The value that the 64-bit register at an offset of the PF's window reads as. -/
def windowRead (s : State) (off : Nat) : Word :=
  let p := s.plat
  if off < 0x40 then identity p (off / 8)
  else if off = 0x100 then bootstat p
  else if off = 0x108 then BitVec.ofNat 64 p.rank
  else if off = 0x110 then BitVec.ofNat 64 s.ts
  else if off = 0x118 then tsctl p
  else if off = 0x180 then p.stgT0
  else if off = 0x188 then stgcfg p
  else if off = 0x190 then packFields [(16, p.rank), (0, p.stgSeq)]
  else if off = 0x200 then pwrramp p
  else if off = 0x208 then BitVec.ofNat 64 p.pwrFloor
  else if off = 0x210 then agestat p
  else if off = 0x220 then p.savePoolB
  else if off = 0x228 then p.savePoolS
  else if off = 0x230 then meshwt p
  else if off = 0x240 then scrmap p
  else if off = 0x250 then BitVec.ofNat 64 (p.fillerSum / 10000000)
  else if 0x1000 ≤ off && off < 0x1800 then (aget s.fab.peerWin ((off - 0x1000) / 8)).getD 0
  else if 0x10000 ≤ off && off < 0x18000 then s.routeWord ((off - 0x10000) / 8)
  else if 0x100000 ≤ off && off < 0x110000 then
    let q := s.queue ((off - 0x100000) / 64)
    match (off - 0x100000) % 64 / 8 with
    | 0 => q.qbase
    | 1 => q.cfg
    | 2 => q.qevbase
    | 3 => packFields [(32, q.evTail), (0, q.evHead)]
    | 4 => q.cdone
    | 5 => q.stat
    | _ => 0
  else if 0x200010 ≤ off && off < 0x201000 then
    let c := (off - 0x200000) / 16
    if off % 16 = 0 then (aget s.cp.ctxTvec c).getD 0 else (aget s.cp.ctxDeleg c).getD 0
  else if 0x300000 ≤ off && off < 0x350000 then s.debugRead ((off - 0x300000) / 256) ((off - 0x300000) % 256)
  else if 0x380000 ≤ off && off < 0x380A00 then
    let k := s.core ((off - 0x380000) / 16)
    if off % 16 = 0 then k.trcBase else trcctlWord k
  else if 0x400000 ≤ off && off < 0x800000 then
    (if off % 4096 = 8 then BitVec.ofNat 64 (s.queue ((off - 0x400000) / 4096)).head else 0)
  else 0

/-- A write of the 64-bit register at an offset of the PF's window. -/
def windowWrite (s : State) (off : Nat) (be : BitVec 8) (data : Word) : State :=
  if be = 0 then s
  else if off = 0x108 then s.writeRank be data
  else if off = 0x118 then s.writeTsctl be data
  else if off = 0x180 then s.setPlat fun p => { p with stgT0 := mergeBe p.stgT0 be data }
  else if off = 0x188 then s.writeStgcfg be data
  else if off = 0x198 then s.staggerGo be
  else if off = 0x200 then s.setPlat fun p => setPwrramp (mergeBe (pwrramp p) be data) p
  else if off = 0x208 then s.setPlat fun p => setPwrfloor (mergeBe (BitVec.ofNat 64 p.pwrFloor) be data) p
  else if off = 0x220 then s.setPlat fun p => { p with savePoolB := mergeBe p.savePoolB be data &&& ~~~4095 }
  else if off = 0x228 then s.setPlat fun p => { p with savePoolS := mergeBe p.savePoolS be data &&& ~~~4095 }
  else if off = 0x230 then s.writeMeshwt be data
  else if 0x1000 ≤ off && off < 0x1800 then s.writePeerWin ((off - 0x1000) / 8) be data
  else if 0x10000 ≤ off && off < 0x18000 then s.writeRoutes ((off - 0x10000) / 8) be data
  else if 0x100000 ≤ off && off < 0x110000 then
    let q := (off - 0x100000) / 64
    match (off - 0x100000) % 64 / 8 with
    | 0 => s.writeQbase q false be data
    | 1 => s.writeQcfg q be data
    | 2 => s.writeQbase q true be data
    | 3 => s.writeEvhead q be data
    | 5 => s.writeQstat q be data
    | _ => s
  else if 0x200010 ≤ off && off < 0x201000 then s.writeCtxReg ((off - 0x200000) / 16) (off % 16 != 0) be data
  else if 0x300000 ≤ off && off < 0x350000 then s.debugWrite ((off - 0x300000) / 256) ((off - 0x300000) % 256) be data
  else if 0x380000 ≤ off && off < 0x380A00 then
    (if off % 16 = 0 then s.writeTrcbase ((off - 0x380000) / 16) be data else s.writeTrcctl ((off - 0x380000) / 16) be data)
  else if 0x400000 ≤ off && off < 0x800000 then
    (if off % 4096 = 0 then s.writeTail ((off - 0x400000) / 4096) be data else s)
  else s

/-! ## A VF's window (R31) -/

/-- Whether a queue is assigned to a VF (R31, R68). -/
def ownedBy (s : State) (vf q : Nat) : Bool := (s.queue q).vf == vf

/-- What the 64-bit register at an offset reads as in the window of the PF (0) or of a VF: of a VF, the identity block, BOOTSTAT, TSNOW and
its queues' descriptors and doorbell pages. -/
def vfRead (s : State) (vf off : Nat) : Word :=
  if vf = 0 || off < 0x40 || off = 0x100 || off = 0x110 then s.windowRead off
  else if 0x100000 ≤ off && off < 0x110000 then (if s.ownedBy vf ((off - 0x100000) / 64) then s.windowRead off else 0)
  else if 0x400000 ≤ off && off < 0x800000 then (if s.ownedBy vf ((off - 0x400000) / 4096) then s.windowRead off else 0)
  else 0

/-- A write of the 64-bit register at an offset of a window: of a VF, QEVPTR and QSTAT of its queues, and their doorbells. -/
def vfWrite (s : State) (vf off : Nat) (be : BitVec 8) (data : Word) : State :=
  if vf = 0 then s.windowWrite off be data
  else if 0x100000 ≤ off && off < 0x110000 then
    (if s.ownedBy vf ((off - 0x100000) / 64) && [3, 5].contains ((off - 0x100000) % 64 / 8) then s.windowWrite off be data else s)
  else if 0x400000 ≤ off && off < 0x800000 then (if s.ownedBy vf ((off - 0x400000) / 4096) then s.windowWrite off be data else s)
  else s

/-! ## MSI-X tables (R30, R31; log entry 86) -/

/-- The vectors of a function. -/
def msixCount (vf : Nat) : Nat := if vf = 0 then 2048 else 64

/-- Where the pending bits stand in a function's BAR4. -/
def msixPba (vf : Nat) : Nat := if vf = 0 then 0x8000 else 0x1000

/-- What the 8 bytes at an offset of a function's BAR4 read as. -/
def msixRead (s : State) (vf off : Nat) : Word :=
  if off / 16 < msixCount vf then (s.msixEntry (msixIndex vf (off / 16))).extractLsb' (off % 16 / 8 * 64) 64
  else if msixPba vf ≤ off && off < msixPba vf + msixCount vf / 8 then
    BitVec.ofNat 64 ((List.range 64).foldl (fun n i => if s.cp.msixPend.contains (vf, 8 * (off - msixPba vf) + i) then n + 2 ^ i else n) 0)
  else 0

/-- A write of 8 bytes of a function's BAR4: of its table; an entry that loses its mask sends the message that is pending. -/
def msixWrite (s : State) (vf off : Nat) (be : BitVec 8) (data : Word) : State :=
  if msixCount vf ≤ off / 16 then s
  else
    let i := msixIndex vf (off / 16)
    let sh := off % 16 / 8 * 64
    let m : BitVec 128 := BitVec.ofNat 128 (2 ^ 64 - 1) <<< sh
    let old := s.msixEntry i
    let new := (old &&& ~~~m) ||| (((mergeBe (old.extractLsb' sh 64) be data).setWidth 128) <<< sh)
    let s := s.setCp fun cp => { cp with msixTab := aset cp.msixTab i new }
    let v := (vf, off / 16)
    if !new.getLsbD 96 && s.cp.msixPend.contains v then
      s.setCp fun cp => { cp with msix := cp.msix ++ [v], msixPend := cp.msixPend.filter (· != v) }
    else s

/-! ## Accesses of several registers (R473) -/

/-- Byte `i` of a value. -/
def byteOf (w : Word) (i : Nat) : Byte := w.extractLsb' (8 * i) 8

/-- The enables and data of the register at `reg` in an access from an offset on. -/
def lanesOf (off reg : Nat) (bytes : List (Option Byte)) : BitVec 8 × Word :=
  let at_ := fun (i : Nat) => if off ≤ reg + i then ((bytes[reg + i - off]?).join) else none
  (BitVec.ofNat 8 ((List.range 8).foldl (fun n i => if (at_ i).isSome then n + 2 ^ i else n) 0),
   BitVec.ofNat 64 (ofLe ((List.range 8).map fun i => (at_ i).getD 0)))

/-- The registers that an access of `n` bytes covers, ascending. -/
def regsOf (off n : Nat) : List Nat := (List.range (cdiv (off % 8 + n) 8)).map fun i => off / 8 * 8 + 8 * i

/-- A host write: each register that it covers in turn, as separate writes. -/
def hostWrite (s : State) (win : HostWindow) (off : Nat) (bytes : List (Option Byte)) : State :=
  (regsOf off bytes.length).foldl (fun (s : State) reg =>
    let (be, data) := lanesOf off reg bytes
    if be = 0 then s else if win.bar4 then s.msixWrite win.vf reg be data else s.vfWrite win.vf reg be data) s

/-- What a host read of `n` bytes returns: the selected bytes of the registers that it covers. -/
def hostRead (s : State) (win : HostWindow) (off n : Nat) : List Byte :=
  (List.range n).map fun i =>
    let a := off + i
    byteOf (if win.bar4 then s.msixRead win.vf (a / 8 * 8) else s.vfRead win.vf (a / 8 * 8)) (a % 8)

/-! ## BAR2 (R31, R185, R223) -/

/-- Whether a BAR2 access lies in device memory. -/
def bar2Ok (off n : Nat) : Bool := off + n ≤ 0x00C000000000

/-- The parts of an access of `n` bytes, one for each 256-byte line, ascending. -/
def hostParts (off n : Nat) (data : Option Nat) : List HostPart :=
  (List.range (cdiv (off % 256 + n) 256)).map fun i =>
    let a := if i = 0 then off else off / 256 * 256 + 256 * i
    let k := min (off + n) (a / 256 * 256 + 256) - a
    { pa := a, n := k, data := data.map fun d => field d (8 * (a - off)) (8 * k), last := off + n ≤ a + k }

/-- The host port sends its oldest part to its home, once the one before has been performed: accesses are performed in the order of their
arrival. A refused read answers Unsupported Request. -/
def hostPump (s : State) : State :=
  match s.plat.hostOut, s.plat.hostQ with
  | none, x :: t =>
    if x.n = 0 then s.setPlat fun p => { p with hostQ := t, hostGot := [], hostAns := none }
    else
      let (id, s) := s.fresh
      let op := match x.data with
        | some d => HomeOp.write d (2 ^ x.n - 1) x.n
        | none => .read x.n
      (s.sendReq .lat { id := id, hart := 0, src := .host, pa := x.pa, op := op }).setPlat fun p => { p with hostOut := some id }
  | _, _ => s

/-- An access arrives at the host port. -/
def hostArrive (s : State) (l : List HostPart) : State := (s.setPlat fun p => { p with hostQ := p.hostQ ++ l }).hostPump

/-- A read through BAR2; one of a byte outside device memory is refused whole. -/
def bar2Read (s : State) (off n : Nat) : State :=
  if n = 0 then s
  else if bar2Ok off n then s.hostArrive (hostParts off n none)
  else s.hostArrive [{ pa := off, n := 0, data := none, last := true }]

/-- A write through BAR2; one of a byte outside device memory is discarded whole. -/
def bar2Write (s : State) (off : Nat) (bytes : List Byte) : State :=
  if bytes.isEmpty || !bar2Ok off bytes.length then s else s.hostArrive (hostParts off bytes.length (some (ofLe bytes)))

/-- The part under way has been performed, with the bytes it read. -/
def hostDone (s : State) (v : Nat) : State :=
  match s.plat.hostQ with
  | [] => s
  | x :: t =>
    let got := s.plat.hostGot ++ leBytes x.n v
    (s.setPlat fun p =>
      if x.data.isSome then { p with hostQ := t, hostOut := none }
      else if x.last then { p with hostQ := t, hostOut := none, hostGot := [], hostAns := some got }
      else { p with hostQ := t, hostOut := none, hostGot := got }).hostPump

/-- The host port takes the answer to its request, and sends the next. -/
def hostTake (s : State) : State :=
  match s.pickMsg (fun _ m => match m with
      | (.host, .resp id v _) => if s.plat.hostOut == some id then some v else none
      | (.host, .ack id) => if s.plat.hostOut == some id then some 0 else none
      | _ => none) with
  | some (v, s) => s.hostDone v
  | none => s

end State

/-! ## The events -/

def execDbtail (q : Nat) (be : BitVec 8) (data : Word) (s : State) : Out := .next (s.writeTail q be data)
/-- Setting ENABLE: a write of QCFG. -/
def execQueueEnable (q : Nat) (be : BitVec 8) (data : Word) (s : State) : Out := .next (s.writeQcfg q be data)
/-- Clearing ENABLE: a write of QCFG's byte 7 with bit 63 clear. -/
def execQueueDisable (q : Nat) (s : State) : Out := .next (s.writeQcfg q 0x80 ((s.queue q).cfg &&& 0x7FFFFFFFFFFFFFFF))
def execEvhead (q : Nat) (be : BitVec 8) (data : Word) (s : State) : Out := .next (s.writeEvhead q be data)
def execHaltedClear (q : Nat) (s : State) : Out := .next (s.writeQstat q 1 2)
def execStggo (be : BitVec 8) (s : State) : Out := .next (s.staggerGo be)
def execFabrank (be : BitVec 8) (data : Word) (s : State) : Out := .next (s.writeRank be data)
def execPwrramp (be : BitVec 8) (data : Word) (s : State) : Out := .next (s.windowWrite 0x200 be data)
def execPwrfloor (be : BitVec 8) (data : Word) (s : State) : Out := .next (s.windowWrite 0x208 be data)
def execMeshwt (be : BitVec 8) (data : Word) (s : State) : Out := .next (s.writeMeshwt be data)
def execTrcctl (core : Nat) (be : BitVec 8) (data : Word) (s : State) : Out := .next (s.writeTrcctl core be data)

/-- HALTREQ := 1 through the debug window; a hart without a block ignores it. -/
def execHaltreq (h : Nat) (s : State) : Out :=
  .next (if (s.blkAt h).placed then s.writeHaltstat h (State.haltstatOf (s.blkAt h) ||| 8) else s)

/-- HALTREQ := 0. -/
def execHaltResume (h : Nat) (s : State) : Out :=
  .next (if (s.blkAt h).placed then s.writeHaltstat h (State.haltstatOf (s.blkAt h) &&& ~~~0x18) else s)

/-- FREEZEREQ := 1. -/
def execFreezereq (h : Nat) (s : State) : Out :=
  .next (if (s.blkAt h).placed then s.writeHaltstat h (State.haltstatOf (s.blkAt h) ||| 0x10) else s)

def execDbgimgSave (h pa : Nat) (s : State) : Out := .next (s.debugSave h pa)
def execDbgimgLoad (h pa : Nat) (s : State) : Out := .next (s.debugLoad h pa)
def execRegisterWrite (win : HostWindow) (off : Nat) (bytes : List (Option Byte)) (s : State) : Out := .next (s.hostWrite win off bytes)
def execBar2Read (off n : Nat) (s : State) : Out := .next (s.bar2Read off n)
def execBar2Write (off : Nat) (bytes : List Byte) (s : State) : Out := .next (s.bar2Write off bytes)

end Sys2Proof.Machine
end

