-- ==== Sys2Proof/Machine/Fabric.lean ====
section
/-! DEFINITION. The Stolaux Link: flits and retry, messages served as a target or forwarded, answers to this device's own requests,
STAGGER and TIMESYNC (spec 02 R36, R38 to R46; spec 03 R52; spec 08 R204). -/

namespace Sys2Proof.Machine

/-! ## Flits (R36, R38) -/

/-- What is left of a retry buffer when the other end expects sequence number `ack` next. -/
def acked (buf : List Flit) (ack tx : Nat) : List Flit :=
  if buf.any fun f => f.seq == ack then buf.dropWhile fun f => f.seq != ack else if ack = tx then [] else buf

namespace State

def port (s : State) (p : Nat) : SxlPort := (aget s.fab.ports p).getD {}
def setPort (s : State) (p : Nat) (x : SxlPort) : State := { s with fab := { s.fab with ports := aset s.fab.ports p x } }
def setFab (s : State) (f : Fabric → Fabric) : State := { s with fab := f s.fab }

/-- SXL_LINK_TRAINING: a port of 0 to 7 comes into service with its peer. -/
def trainPort (s : State) (p peer : Nat) : State :=
  if p < 8 then s.setPort p { trained := true, up := true, peer := peer } else s

/-- SXL_FLIT_RECEIVE: a flit with a bad CRC is dropped and a retry requested, unless the device has no rank and sends nothing; one out of
sequence is dropped; else its messages arrive (R36, R38). -/
def receiveFlit (s : State) (p : Nat) (f : Flit) : State :=
  let x := s.port p
  if !x.trained || !x.up then s
  else if !f.crcOk then
    if s.plat.rank = 0xFFFF then s
    else
      (s.setPort p { x with fails := x.fails + 1, retries := x.retries + 1 }).setFab fun b => { b with retryOut := b.retryOut ++ [(p, x.rxSeq)] }
  else if f.seq ≠ x.rxSeq then s
  else
    let s := s.setPort p { x with fails := 0, rxSeq := (x.rxSeq + 1) % 4096, buf := acked x.buf f.ack x.txSeq }
    s.setFab fun b => { b with inbox := b.inbox ++ f.msgs.map fun m => { port := p, at_ := s.ts, msg := m } }

/-- SXL_RETRY: the sender replays a flit and every later one from its buffer. -/
def replay (s : State) (p seq : Nat) : State :=
  let x := s.port p
  if !x.trained || !x.up then s
  else (s.setPort p { x with retries := x.retries + 1 }).setFab fun b =>
    { b with outbox := b.outbox ++ (x.buf.dropWhile fun f => f.seq != seq).map fun f => (p, f) }

/-- LINK_DOWN: a port that failed retry 64 times in succession goes down and reports. What becomes of requests that are under way over it
the spec leaves open: they are never answered (DESIGN CHOICE, log entry 32). -/
def linkDown (s : State) (p : Nat) : State :=
  let x := s.port p
  if x.up && 64 ≤ x.fails then
    let s := s.setPort p { x with up := false }
    s.postNotice fun q => s.noticeRec (0xC0 + p) 6 p q
  else s

/-! ## Requests that this device serves (R39 to R42) -/

/-- Whether a device may reach this device's memory: the union of the live contexts' allow lists (R42, R80). -/
def peerAllowed (s : State) (dev : Nat) : Bool := s.cp.contexts.any fun c => c.2.allow.any fun r => r.1 ≤ dev && dev ≤ r.2

/-- Whether a request's address and source are accepted (R42). -/
def peerGranted (s : State) (src a n : Nat) : Bool := s.peerAllowed src && a + n ≤ 0x00C000000000

/-- Sends an answer (R39, R41). -/
def answer (s : State) (m : SxlMsg) (b : SxlBody) : State :=
  s.setFab fun f => f.route s.plat.rank { src := s.plat.rank, dst := m.src, tag := m.tag, hops := 0, body := b }

/-- A mask as a number. -/
def maskBits (mask : List Bool) : Nat := (mask.zipIdx).foldl (fun n (b : Bool × Nat) => if b.1 then n + 2 ^ b.2 else n) 0

/-- What a peer's request asks of a home: its address, its bytes, the operation. -/
def peerOp (b : SxlBody) : Option (Nat × Nat × HomeOp) :=
  match b with
  | .write a bs mask => some (a, bs.length, .write (ofLe bs) (maskBits mask) bs.length)
  | .read a n => some (a, n, .read n)
  | .atomic a n op v cmp => some (a, n, .amo op n v cmp)
  | .signal a v add => some (a, 8, if add then .amo .add 8 v.toNat 0 else .write v.toNat 0xFF 8)
  | _ => none

/-- The answer to a peer's request that its home has performed; status 3 says that the bytes are uncorrectable (DESIGN CHOICE, log entry
87). -/
def doneBody (b : SxlBody) (v bad : Nat) : SxlBody :=
  let st := if bad = 0 then 0 else 3
  match b with
  | .read _ n => .resp st n v
  | .atomic _ n _ _ _ => .resp st n v
  | _ => .ack st

/-- The refusal of a peer's request (R42). -/
def deniedBody (b : SxlBody) : SxlBody :=
  match b with
  | .read _ _ | .atomic _ _ _ _ _ => .resp 2 0 0
  | _ => .ack 2

/-- Performs a message addressed to this device: a request goes to its home, a CLOVE is answered; none while an earlier request of its
source is being performed (R39, R40). -/
def serve (s : State) (x : SxlIn) : Option State :=
  let m := x.msg
  if s.fab.serving.any fun y => y.msg.src == m.src then none
  else
    match peerOp m.body with
    | none => some (s.answer m (.ack 0))
    | some (a, n, op) =>
      if !s.peerGranted m.src a n then some (s.answer m (deniedBody m.body))
      else
        let (id, s) := s.fresh
        let s := s.sendReq .lat { id := id, hart := 0, src := .sxl x.port, pa := a, op := op }
        some (s.setFab fun f => { f with serving := f.serving ++ [{ id := id, port := x.port, msg := m }] })

/-- An SXL port takes a home's answer and returns it to the peer. -/
def sxlTake (s : State) : State :=
  let mine := fun (id : Nat) => s.fab.serving.find? fun y => y.id == id
  match s.pickMsg (fun _ m => match m with
      | (.sxl _, .resp id v bad) => (mine id).map fun y => (y, v, bad)
      | (.sxl _, .ack id) => (mine id).map fun y => (y, 0, 0)
      | _ => none) with
  | some ((y, v, bad), s) =>
    (s.setFab fun f => { f with serving := f.serving.filter fun z => z.id != y.id }).answer y.msg (doneBody y.msg.body v bad)
  | none => s

/-! ## Answers to this device's requests (R39, R43, R204) -/

/-- The instruction of a hart that waited for peers goes on once every answer is there, or raises PERM at the first element that
failed (R43). -/
def peerEnd (s : State) (h : Nat) (amo : Bool) : State :=
  s.onHart h fun s =>
    if s.blk.wait ≠ some .peer || s.blk.pend.any (fun p => 2 ^ 60 ≤ p.id && (match p.dest with
        | .icache _ _ => false
        | _ => true)) then s
    else
      match s.blk.peerBad with
      | some (e, a) =>
        (s.updBlk fun b => { b with peerBad := none }).takeTrap
          { cause := .perm, access := if amo then .atomic else .load, va := BitVec.ofNat 64 a, estart := e } s.blk.pcLit
      | none => s.finishOp

/-- A failed read or atomic: the lowest element and its peer address are kept (R43). -/
def peerFail (s : State) (h : Nat) (p : PendLoad) : State :=
  s.updBlkAt h fun b =>
    let bad := match b.peerBad with
      | some (e, a) => if e ≤ p.elem then (e, a) else (p.elem, p.pa)
      | none => (p.elem, p.pa)
    { b with pend := b.pend.filter fun q => q.id != p.id, peerBad := some bad }

/-- A line that an instruction fetch asked of a peer enters the instruction cache. -/
def peerLine (s : State) (h : Nat) (p : PendLoad) (vline line v : Nat) : State :=
  let l : ICLine := { ctx := (s.blkAt h).ctx, vline := vline, line := line, data := BitVec.ofNat 512 v }
  (s.updBlkAt h fun b => { b with pend := b.pend.filter fun q => q.id != p.id }).updCore (coreOf h) fun k => k.icInsert l

/-- The answer of a read or atomic reaches a load of a hart. -/
def peerLoad (s : State) (h : Nat) (p : PendLoad) (v : Except Cause Nat) : State :=
  match v, p.dest with
  | .ok v, .icache vline line => s.peerLine h p vline line v
  | .ok v, _ => (s.endLoad h p v).peerEnd h p.amo
  | .error .uncorr, _ => s.uncorrLoad h p
  | .error _, _ => (s.peerFail h p).peerEnd h p.amo

/-- The answer of a read or atomic reaches the load, copy, command or refill that made it. -/
def peerValue (s : State) (w : PeerWait) (v : Except Cause Nat) : State :=
  if 20000 ≤ w.hart then s.ringAnswer ((w.hart - 20000) / 64) ((w.hart - 20000) % 64) w.tag w.addr v
  else if 9000 ≤ w.hart then
    s.updQueue (w.hart - 9000) fun q => { q with peerVal := some (match v with
      | .ok v => some (v, false)
      | .error .uncorr => some (0, true)
      | .error _ => none) }
  else
    match (s.blkAt w.hart).pend.find? fun p => p.id == 2 ^ 60 + w.tag with
    | some p => s.peerLoad w.hart p v
    | none =>
      match s.engOf (coreOf w.hart) (2 ^ 60 + w.tag) with
      | some (h, t, r) => s.peerAnswer (coreOf h) h t r v
      | none => s

/-- A CLOVE is acknowledged: the release goes on, and the core has no write out at that device but later ones. -/
def cloveDone (s : State) (w : PeerWait) : State :=
  let s := s.updBlkAt w.hart fun b =>
    match b.sq with
    | .release sc x add (.flush hosts peers upTo) waiting :: rest =>
      { b with sq := .release sc x add (.flush hosts (peers.filter (· != w.dev)) upTo) waiting :: rest }
    | _ => b
  let c := coreOf w.hart
  let later := s.fab.waits.any fun y => y.posted && !y.clove && y.dev == w.dev && y.hart < 1280 && coreOf y.hart == c
  if later then s else s.updCore c fun k => { k with peers := k.peers.filter (· != w.dev) }

/-- A write, SIGNAL or CLOVE fails: the first one is kept for the hart's next SYSTEM-scope release, or fails the command (R43, R74). A copy
learns that the write is over. -/
def peerWriteFail (s : State) (w : PeerWait) : State :=
  if 20000 ≤ w.hart then s
  else if 9000 ≤ w.hart then s.updQueue (w.hart - 9000) fun q => { q with wfail := true }
  else s.updBlkAt w.hart fun b =>
    { b with failedWrite := match b.failedWrite with
        | some (t, a) => if t ≤ w.tag then some (t, a) else some (w.tag, w.addr)
        | none => some (w.tag, w.addr) }

/-- An acknowledged write of a copy is over. -/
def copyWritten (s : State) (w : PeerWait) : State :=
  if 1280 ≤ w.hart then s
  else
    match s.engOf (coreOf w.hart) (2 ^ 60 + w.tag) with
    | some (h, t, _) => s.setRecAt h t
    | none => s

/-- An answer to one of this device's requests. -/
def answered (s : State) (m : SxlMsg) : State :=
  match s.fab.waits.find? fun w => w.tag == m.tag with
  | none => s
  | some w =>
    let s := s.setFab fun f => { f with waits := f.waits.filter fun x => x.tag != w.tag }
    match m.body with
    | .resp st _ v => if w.posted then s else s.peerValue w (if st = 0 then .ok v else .error (if st = 3 then .uncorr else .perm))
    | .ack st =>
      let s := (if st = 0 || !w.posted then s else s.peerWriteFail w).copyWritten w
      if w.clove then s.cloveDone w else s
    | _ => s

/-! ## Messages (R39 to R41) -/

/-- Whether two messages are delivered in the order in which they were sent: one source, one target, one channel (R40). -/
def sameWay (m k : SxlMsg) : Bool := m.src == k.src && m.dst == k.dst && Fabric.channelOf m == Fabric.channelOf k

/-- Takes a message from those that arrived, unless an earlier one on its way has not been served (R40). -/
def takeMessage (s : State) (m : SxlMsg) : Option (SxlIn × State) :=
  match firstIdx (fun (x : SxlIn) => sameWay x.msg m) s.fab.inbox with
  | none => none
  | some i =>
    match s.fab.inbox[i]? with
    | some x => if x.msg = m then some (x, s.setFab fun f => { f with inbox := dropAt f.inbox i }) else none
    | none => none

/-- A message of the kind that `kind` accepts is performed here, taken as an answer, or forwarded. -/
def message (s : State) (kind : SxlBody → Bool) (m : SxlMsg) : State :=
  if !kind m.body then s
  else
    match s.takeMessage m with
    | none => s
    | some (x, t) =>
      if m.dst ≠ s.plat.rank then t.setFab fun f => f.route s.plat.rank m
      else if Fabric.channelOf m = Channel.rsp then t.answered m
      else (t.serve x).getD s

/-- Takes the first message of the CTL channel that came over a port, if `f` accepts it (R40). -/
def takeCtl {α : Type} (s : State) (p : Nat) (f : SxlIn → Option α) : Option (α × State) :=
  match firstIdx (fun (x : SxlIn) => x.port == p && Fabric.channelOf x.msg == Channel.ctl) s.fab.inbox with
  | none => none
  | some i => ((s.fab.inbox[i]?).bind f).map fun a => (a, s.setFab fun b => { b with inbox := dropAt b.inbox i })

/-! ## STAGGER (R44, R52) -/

/-- STAGGER: a message that came over a port. -/
def staggerIn (s : State) (p : Nat) (m : StaggerMsg) : State :=
  match s.takeCtl p (fun x => match x.msg.body with
      | .stagger d => if staggerOf d = m then some () else none
      | _ => none) with
  | some (_, s) => s.handleStagger (some p) m
  | none => s

/-! ## The global timestamp (R46) -/

/-- The counter is corrected by a measured offset. -/
def correct (s : State) (off : Int) : State :=
  let last := s.plat.offsets ++ [off]
  let last := last.drop (last.length - 4)
  let s := s.setPlat fun p =>
    { p with lastOff := off, offsets := last, synced := last.length == 4 && last.all fun x => -5 ≤ x && x ≤ 5 }
  if 1000 < off then { s with ts := (s.ts + off.toNat) % 2 ^ 64, slew := 0, halfRate := false, slewOdd := false }
  else if off < -1000 then { s with slew := off, halfRate := true, slewOdd := false }
  else { s with slew := off, halfRate := false, slewOdd := false }

/-- TIMESYNC_EXCHANGE: the reply to the request sent at t1 is there, and the counter is corrected by the offset; else, once in each 1,000,000
ns, a request leaves by the port towards ROOTDEV. The division drops a half towards zero (log entry 17). -/
def timesync (s : State) (t1 t2 t3 : Nat) : State :=
  let p := s.fab.routeTo s.plat.tsctlRootDev
  if s.plat.tsctlRoot || s.plat.rank = 0xFFFF || !(s.livePorts.contains p) then s
  else
    match s.takeCtl p (fun x => match x.msg.body with
        | .timeTell a b c => if a = t1 && b = t2 && c = t3 then some x.at_ else none
        | _ => none) with
    | some (t4, t) =>
      if s.plat.syncAsked = some t1 then
        (t.setPlat fun p => { p with syncAsked := none }).correct ((((t2 : Int) - t1) + ((t3 : Int) - t4)).tdiv 2)
      else t
    | none =>
      if s.ts < s.plat.syncAt + 1000000 then s
      else (s.setPlat fun p => { p with syncAt := s.ts, syncAsked := some s.ts }).sendCtl p (.timeAsk s.ts)

/-- TIMESYNC: a request is answered on the port that it came over, with the times of receipt and reply. -/
def timesyncReply (s : State) (src t1 : Nat) : State :=
  if s.plat.rank = 0xFFFF then s
  else
    (s.fab.ports.findSome? fun e =>
      (s.takeCtl e.1 (fun x => if x.msg.src = src && x.msg.body = .timeAsk t1 then some x.at_ else none)).map fun (t2, t) =>
        t.sendCtl e.1 (.timeTell t1 t2 s.ts)).getD s

/-! ## Ports on the mesh (R15, R167) -/

/-- MESH_PACKET_FORWARD: a packet that reaches the host port or an SXL port is taken at once. -/
def forward (s : State) (die col row : Nat) (out : Port) : State := ((s.forwardPacket die col row out).hostTake).sxlTake

end State

/-! ## The events -/

def execMeshPacketForward (die col row : Nat) (out : Port) (s : State) : Out := .next (s.forward die col row out)
def execSxlLinkTraining (port peer : Nat) (s : State) : Out := .next (s.trainPort port peer)
def execSxlFlitReceive (port : Nat) (flit : Flit) (s : State) : Out := .next (s.receiveFlit port flit)
def execSxlRetry (port seq : Nat) (s : State) : Out := .next (s.replay port seq)
def execLinkDown (port : Nat) (s : State) : Out := .next (s.linkDown port)

def execSxlWrite (m : SxlMsg) (s : State) : Out := .next (s.message (fun b => match b with
  | .write _ _ _ => true
  | _ => false) m)

def execSxlRead (m : SxlMsg) (s : State) : Out := .next (s.message (fun b => match b with
  | .read _ _ => true
  | _ => false) m)

def execSxlAtomic (m : SxlMsg) (s : State) : Out := .next (s.message (fun b => match b with
  | .atomic _ _ _ _ _ => true
  | _ => false) m)

def execSxlSignal (m : SxlMsg) (s : State) : Out := .next (s.message (fun b => match b with
  | .signal _ _ _ => true
  | _ => false) m)

def execSxlClove (m : SxlMsg) (s : State) : Out := .next (s.message (fun b => b == .clove) m)

def execSxlResp (m : SxlMsg) (s : State) : Out := .next (s.message (fun b => match b with
  | .resp _ _ _ => true
  | _ => false) m)

def execSxlAck (m : SxlMsg) (s : State) : Out := .next (s.message (fun b => match b with
  | .ack _ => true
  | _ => false) m)

def execStagger (port : Nat) (m : StaggerMsg) (s : State) : Out := .next (s.staggerIn port m)
def execStaggerRelease (s : State) : Out := .next s.staggerRelease
def execTimesyncExchange (t1 t2 t3 : Nat) (s : State) : Out := .next (s.timesync t1 t2 t3)
def execTimesync (src t1 : Nat) (s : State) : Out := .next (s.timesyncReply src t1)

end Sys2Proof.Machine
end

