-- ==== Sys2Proof/Machine/Platform.lean ====
section
/-! DEFINITION. The platform: cold reset, power governor, ageing, scrubbing and row retirement, the fuse counter, attestation, and the
host link's own events (spec 01 R16, R20, R27; spec 02 R30, R33, R37; spec 03 R47 to R66; spec 04 R94). -/

namespace Sys2Proof.Machine

/-! ## Cold reset (R20, R27, R33, R62, R65) -/

/-- The trained stacks: MEMRATE, and the first stack that fails (R20, R27). -/
def trainStacks (rates : List Nat) : Nat × Option Nat :=
  let fail := (List.range 12).find? fun i => 3 ≤ (rates[i]?).getD 3
  let codes := (List.range 12).map fun i => match fail with
    | some f => if f ≤ i then 3 else (rates[i]?).getD 3
    | none => (rates[i]?).getD 3
  (codes.zipIdx.foldl (fun n c => n + c.1 <<< (2 * c.2)) 0, fail)

/-- Whether a firmware image is signed with the key whose SHAKE256 digest is fused into the die (R62 step 1). -/
def firmwareSigned (b : BootInput) : Bool := shake256 b.imageKey == Config.bootDigest && Config.slhDsaVerify b.imageKey b.image b.imageSig

/-- A die's fuse map: exactly two clusters read 0xF, every other one a site of 0 to 8 (R28). -/
def siteWord (m : SiteMap) : Word :=
  let a := m.eight % 10
  let b := (a + 1 + m.next % 9) % 10
  State.packFields ((List.range 10).map fun c => (4 * c, if c = a || c = b then 0xF else (m.sites[c]?).getD 8 % 9))

/-- STATE, FAILSTK and CAUSE that a boot ends with (R33); the order of the checks is that of STATE. The spec names no stage at which the
fuses' integrity is checked, and no order among causes beside R62's: self-test, then fuses, then stack training (DESIGN CHOICE, log entry
89). -/
def bootResult (b : BootInput) (fuse : Word) : Nat × Nat × Nat :=
  if !b.selfTestOk then (0xF, 0xF, 4)
  else if !b.fusesOk then (0xF, 0xF, 5)
  else
    match (trainStacks b.rates).2 with
    | some f => (0xF, f, 1)
    | none =>
      if !firmwareSigned b then (0xF, 0xF, 2) else if b.imageVersion.toNat < fuse.toNat then (0xF, 0xF, 3) else (4, 0xF, 0)

/-- The measurement registers after boot: MR0 to MR3 are extended by what the boot firmware measures (R65). -/
def bootMeasures (ms : List (List Byte)) : Vector (List Byte) 8 :=
  Vector.ofFn fun i : Fin 8 => match ms[i.val]? with
    | some d => if i.val < 4 then shake256 (List.replicate 64 0 ++ d) else List.replicate 64 0
    | none => List.replicate 64 0

namespace State

/-- COLD_RESET: everything is as `State.reset` says but what fuses, firmware and the host hold. What is set per package stays as the first
one found it. A pending clock bin takes effect, and no other change of the bin (R23, R55). -/
def coldReset (s : State) (b : BootInput) : State :=
  let (st, stk, cause) := bootResult b s.plat.fuseCounter
  let p := reset.plat
  let first := s.plat.resets = 0
  { reset with
    schedule := s.schedule
    free := s.free
    ms := { reset.ms with hostMem := s.ms.hostMem, atsAll := s.ms.atsAll, atsPages := s.ms.atsPages }
    plat := { p with
      bootState := st, failStk := stk, bootCause := cause, step := if first then b.step else s.plat.step
      clkbin := if s.plat.pendBin != 0 then BitVec.ofNat 8 s.plat.pendBin
        else if first then BitVec.ofNat 8 (min 84 b.clkbin.toNat) else s.plat.clkbin
      serial := if first then b.serial else s.plat.serial
      memrate := if b.selfTestOk && b.fusesOk then BitVec.ofNat 24 (trainStacks b.rates).1 else 0xFFFFFF
      fuseN := if first then siteWord b.fuseN else s.plat.fuseN
      fuseS := if first then siteWord b.fuseS else s.plat.fuseS
      hours := max s.plat.hours b.hours, halvedAt := s.plat.halvedAt, fuseCounter := s.plat.fuseCounter, mr := if st = 4 then bootMeasures b.measurements else p.mr
      resets := s.plat.resets + 1, spares := s.plat.spares, vfs := 0
      attCert := Config.attestationKey (s.plat.resets + 1) ++
        Config.identitySign (if first then b.serial else s.plat.serial) (Config.attestationKey (s.plat.resets + 1)) } }

/-- Whether firmware runs: the boot has not failed (R33, R62). -/
def firmwareUp (s : State) : Bool := s.plat.bootState == 4

/-! ## The governor (R47, R50, R51) -/

/-- GOVERNOR_SAMPLE, in 10 mW: the power of a 10 µs sample for a demand, within R47's limits; the rest is throttling or filler. The spec does
not say what AVG is before 2,000 samples exist, nor which bound wins when lower is above upper: the mean of the samples there are, 0 with
none, and upper (DESIGN CHOICE, log entry 90). -/
def governor (s : State) (demand : Nat) : State :=
  s.setPlat fun p =>
    let l := p.pwrSamples
    let avg := if l.isEmpty then 0 else l.foldl (· + ·) 0 / l.length
    let upper := p.pwrLast + p.pwrRise
    let lower := max (p.pwrLast - p.pwrFall) (avg * p.pwrFloor / 100)
    let cap := min 290000 (2000 * 260000 - (l.take 1999).foldl (· + ·) 0)
    let power := min cap (if upper < demand then upper else if demand < lower then lower else demand)
    { p with
      pwrLast := power, pwrSamples := (power :: l).take 2000, throttled := power < demand, filler := power - demand
      fillerSum := p.fillerSum + (power - demand) }

/-! ## Ageing (R54 to R56) -/

/-- Whether a number is a monitor's (R54). -/
def isMonitor (n : Nat) : Bool := n < 0x14 || (0x20 ≤ n && n < 0x2C)

/-- MONITOR_READ: the worst margin and its monitor; another hour is counted (R54, R56). A reading above 0xFE is stored as 0xFE, since 0xFF
says not yet read; of equal worst margins the first in the readings is named (DESIGN CHOICE, log entry 91). -/
def monitors (s : State) (l : List (Nat × Nat)) : State :=
  match if s.firmwareUp then minBy (fun (r : Nat × Nat) => r.2) (l.filter fun r => isMonitor r.1) else none with
  | some (n, m) => s.setPlat fun p => { p with hours := p.hours + 1, margin := min m 0xFE, worstMon := n }
  | none => s

/-- Whether firmware re-plans margins: every 1,000 hours, after a reading below 5.0 %, after a cold reset (R55). -/
def replanDue (p : Platform) : Bool := p.hours % 1000 == 0 || p.margin < 50 || p.margin == 0xFF

/-- MARGIN_REPLAN: the voltage offset may rise; a lower bin, if one is proposed, is pending and every host queue of the PF is told
(R55 step 1). -/
def replan (s : State) (voff bin : Nat) : State :=
  if !replanDue s.plat || !s.firmwareUp then s
  else
    let s := s.setPlat fun p => { p with voff := min 255 (max p.voff voff) }
    if bin = 0 || s.plat.clkbin.toNat ≤ bin then s
    else
      let s := s.setPlat fun p => { p with pendBin := bin, pendSince := some s.ts }
      s.postNotice fun q => s.noticeRec (mgmtUnit 0) 3 bin q

/-- CLKBIN_CHANGE: the pending bin takes effect when it is due and no block is placed (R55 steps 2 and 3). -/
def changeBin (s : State) : State :=
  if s.binDue && !s.blocks.any (fun (e : Nat × Block) => e.2.placed) then
    s.setPlat fun p => { p with clkbin := BitVec.ofNat 8 p.pendBin, pendBin := 0, pendSince := none }
  else s

/-! ## Scrubbing and rows (R57, R58, R60, R61) -/

/-- What an error adds to its row's score. -/
def errorScore : LineError → Nat
  | .oneSymbol => 16
  | .multiBit => 64
  | .none | .uncorrectable => 0

/-- Whether a row is the one named. -/
def isRow (stack row : Nat) (r : RowInfo) : Bool := r.stack == stack && r.row == row

/-- The rows of a stack's hot list. -/
def hotRows (l : List RowInfo) (stack : Nat) : List RowInfo := l.filter fun r => r.stack == stack && r.hotSince.isSome

/-- A row enters its stack's hot list of 4,096; a full list loses the row of the lowest score, the oldest of equals (R60). -/
def makeHot (l : List RowInfo) (stack row now : Nat) : List RowInfo :=
  let l := if (l.find? (isRow stack row)).any fun r => r.hotSince.isSome then l
    else if (hotRows l stack).length < 4096 then l
    else
      match minBy (fun r => r.score * 2 ^ 64 + r.hotSince.getD 0) (hotRows l stack) with
      | some v => mapIf (isRow v.stack v.row) (fun r => { r with hotSince := none }) l
      | none => l
  mapIf (isRow stack row) (fun r => { r with hotSince := some (r.hotSince.getD now) }) l

/-- A corrected error of a row: its score rises and it is on the hot list (R60, R61). -/
def noteError (s : State) (stack row n : Nat) : State :=
  if n = 0 then s
  else s.setPlat fun p =>
    let l := if p.rows.any (isRow stack row) then p.rows else p.rows ++ [{ stack := stack, row := row, score := 0, hotSince := none }]
    { p with rows := makeHot (mapIf (isRow stack row) (fun r => { r with score := r.score + n }) l) stack row s.ts }

/-- What a scrub read of a line finds: a corrected error counts, and changes no byte; bytes that cannot be corrected and that the slice
does not hold are uncorrectable from now on (R58, R60). A line under a Mace lock is skipped. -/
def scrubLine (s : State) (stack line : Nat) (err : LineError) : State :=
  let a := lineOf line
  let inDevice := match aperture a with
    | .device _ => true
    | _ => false
  if !inDevice || stackOf a ≠ stack || (s.ms.lockOf a).isSome then s
  else
    match err with
    | .uncorrectable =>
      let held := fun (x : Nat) => match s.ms.sliceLine x with
        | some l => (aget l.bytes x).isSome
        | none => false
      let new := ((List.range 256).map (a + ·)).filter fun x => !held x && !s.ms.bad.contains x
      s.setMs fun m => { m with bad := m.bad ++ new }
    | .none => s
    | e => (s.noteError stack (Config.rowOf stack (stackOffset a)) (errorScore e)).setPlat fun p => { p with corrected := p.corrected + 1 }

/-- HOT_ROW_SCRUB: a line of a row on the hot list. -/
def hotScrub (s : State) (stack line : Nat) (err : LineError) : State :=
  let row := Config.rowOf stack (stackOffset (lineOf line))
  if (hotRows s.plat.rows stack).any fun r => r.row == row then s.scrubLine stack line err else s

/-- SCORE_HALVING: once in each 168 powered hours (R61). -/
def halveScores (s : State) : State :=
  if s.plat.hours < s.plat.halvedAt + 168 then s
  else s.setPlat fun p => { p with halvedAt := p.hours, rows := p.rows.map fun r => { r with score := r.score / 2 } }

/-- ROW_RETIREMENT: a row that has reached 256 is copied to a spare, and its home holds accesses; without a spare the host is told, and the
row stays. -/
def retireRow (s : State) (stack row : Nat) : State :=
  match s.plat.rows.find? (isRow stack row) with
  | none => s
  | some r =>
    if r.score < 256 || r.copying || !s.firmwareUp then s
    else if Config.spareLeft stack ((aget s.plat.spares stack).getD 0) then
      s.setPlat fun p => { p with rows := mapIf (isRow stack row) (fun r => { r with copying := true }) p.rows }
    else s.postNotice fun q => s.noticeRec (0xA0 + stack) 5 (Config.rowAddress stack row) q

/-- ROW_COPY_COMPLETE: the spare takes the row's place with its data, without the row's history, and the host is told. -/
def copyDone (s : State) (stack row : Nat) : State :=
  match s.plat.rows.find? (isRow stack row) with
  | none => s
  | some r =>
    if !r.copying then s
    else
      let s := s.setPlat fun p =>
        { p with rows := p.rows.filter fun r => !isRow stack row r, spares := aset p.spares stack ((aget p.spares stack).getD 0 + 1) }
      s.postNotice fun q => s.noticeRec (0xA0 + stack) 4 (Config.rowAddress stack row) q

/-! ## The fuse counter and attestation (R63, R64, R94) -/

/-- FUSE_COUNTER_ADVANCE: signed with the vendor key and not lower; cached translations of older versions are invalidated. -/
def advanceFuse (s : State) (v : Word) (sig : List Byte) : State :=
  if !s.firmwareUp || v.toNat < s.plat.fuseCounter.toNat || !Config.slhDsaVerify Config.vendorKey (leBytes 8 v.toNat) sig then s
  else
    let s := s.setPlat fun p => { p with fuseCounter := v }
    s.setCp fun cp => { cp with contexts := cp.contexts.map fun c =>
      (c.1, { c.2 with cached := c.2.cached.filter fun x => v.toNat ≤ x.secVer }) }

/-- The content of an attestation report (R64); its layout is the model's (log entry 11). -/
def report (s : State) (nonce : List Byte) : List Byte :=
  s.plat.mr.toList.flatten ++ leBytes 8 s.plat.fuseCounter.toNat ++ leBytes 8 (identity s.plat 0).toNat ++ leBytes 8 s.plat.serial.toNat ++
    nonce ++ leBytes 8 s.ts

/-- ATTESTATION_REPORT: a ready device answers with a report signed with the attestation key of this reset, and with that key under the
identity key's signature. -/
def attest (s : State) (nonce : List Byte) : State :=
  if s.plat.bootState ≠ 4 then s
  else
    let r := s.report nonce
    s.setPlat fun p => { p with atts := p.atts ++ [r ++ Config.slhDsaSign p.resets r ++ p.attCert] }

/-! ## Cores and the host link (R16, R30, R37) -/

/-- CORE_FAILURE_IN_SERVICE: the core runs nothing more, and the device is taken out of service. The record in which firmware reports it has
no KIND among R82's, so that none is written (log entry 36). -/
def coreFails (s : State) (c : Nat) : State :=
  if c < 160 then (s.updCore c fun k => { k with failed := true }).setPlat fun p => { p with outOfService := true } else s

/-- ATS_INVALIDATION: the device forgets the host's answer for a PASID's page. -/
def atsInvalidate (s : State) (pasid page : Nat) : State :=
  s.setMs fun m =>
    let n := ((m.atsPages.find? fun e => e.1 == (pasid, page)).map (·.2)).getD 0
    { m with atsPages := (m.atsPages.filter fun e => e.1 != (pasid, page)) ++ [((pasid, page), n + 1)] }

end State

/-! ## The events -/

def execColdReset (b : BootInput) (s : State) : Out := .next (s.coldReset b)
def execGovernorSample (demand : Nat) (s : State) : Out := .next (s.governor demand)
def execMonitorRead (readings : List (Nat × Nat)) (s : State) : Out := .next (s.monitors readings)
def execMarginReplan (voff bin : Nat) (s : State) : Out := .next (s.replan voff bin)
def execClkbinChange (s : State) : Out := .next s.changeBin
def execPatrolScrub (stack line : Nat) (err : LineError) (s : State) : Out := .next (s.scrubLine stack line err)
def execHotRowScrub (stack line : Nat) (err : LineError) (s : State) : Out := .next (s.hotScrub stack line err)
def execScoreHalving (s : State) : Out := .next s.halveScores
def execRowRetirement (stack row : Nat) (s : State) : Out := .next (s.retireRow stack row)
def execRowCopyComplete (stack row : Nat) (s : State) : Out := .next (s.copyDone stack row)
def execFuseCounterAdvance (value : Word) (sig : List Byte) (s : State) : Out := .next (s.advanceFuse value sig)
def execAttestationReport (nonce : List Byte) (s : State) : Out := .next (s.attest nonce)
def execCoreFailureInService (core : Nat) (s : State) : Out := .next (s.coreFails core)
def execAtsInvalidation (pasid page : Nat) (s : State) : Out := .next (s.atsInvalidate pasid page)

/-- Whether the link trains to a rate and width: 128 GT/s and the lower rates, as Link Status numbers them from 1, 2.5 GT/s, to 7; ×16, ×8, ×4,
×2, ×1 (R30; the numbers PRESUMED from PCI Express, log entry 86). -/
def linkLegal (rate width : Nat) : Bool := 1 ≤ rate && rate ≤ 7 && [1, 2, 4, 8, 16].contains width

/-- PCIE_LINK_TRAINING: Link Status records the trained rate and width (R30). -/
def execPcieLinkTraining (rate width : Nat) (s : State) : Out :=
  .next (if linkLegal rate width then s.setPlat fun p => { p with pcieRate := rate, pcieWidth := width } else s)

/-- VF_ENABLE: the host enables `n` of 16 virtual functions, 0 for none (R30, R68). -/
def execVfEnable (n : Nat) (s : State) : Out := .next (if n ≤ 16 then s.setPlat fun p => { p with vfs := n } else s)

end Sys2Proof.Machine
end

