-- ==== Sys2Proof/Machine/Flaws.lean ====
section
/-! DEFINITION. Detected errors that a store's code cannot correct, as the schedule brings them: what becomes unreadable, and what is
invisible (spec 03 R57 to R59). The instructions that read such data raise UNCORR where they read it. -/

namespace Sys2Proof.Machine

namespace State

/-- Bytes of device memory become uncorrectable. -/
def spoil (s : State) (l : List Nat) : State := s.setMs fun m => { m with bad := m.bad ++ l.filter fun a => !m.bad.contains a }

/-- Whether a slice holds a byte that HBM4E does not. -/
def sliceHolds (s : State) (a : Nat) : Bool :=
  match s.ms.sliceLine a with
  | some l => (aget l.bytes a).isSome
  | none => false

/-- A double error of a 64-bit word of an L1 line: dirty bytes are lost, clean ones are fetched again (R58). -/
def l1Flaw (c : Core) (pa : Nat) : Core :=
  c.l1Upd pa fun l =>
    let m := byteMask (pa % 64 / 8 * 8) 8
    { l with valid := l.valid &&& ~~~(m &&& ~~~l.dirty), bad := l.bad ||| (m &&& l.dirty) }

/-- The running product of a core's matrix engine whose replays have failed four times: UNCORR at the first failing element (R59). -/
def replayFails (s : State) (c row col : Nat) : State :=
  match (s.blocksOf c).findSome? fun e => (e.2.trecs.find? fun t => t.isMma && t.phase == .running).map fun t => (e.1, t) with
  | some (h, t) =>
    s.setRecAt h { t with
      fault := some { cause := .uncorr, tile := some (t.names.getLastD 0), row := row, col := col, estart := t.progress }
      phase := .queued, chunk := 0 }
  | none => s

/-- A detected error (R57 to R59). A block that is not placed has no registers. -/
def strike (s : State) (f : Flaw) : State :=
  let reg := fun (h : Nat) (g : Block → Block) => if (s.blkAt h).placed then s.updBlkAt h g else s
  let inDevice := fun (a : Nat) => match aperture a with
    | .device _ => true
    | _ => false
  match f with
  | .memory pa => s.spoil (((List.range 64).map (pa / 64 * 64 + ·)).filter fun a => inDevice a && !s.sliceHolds a)
  | .slice pa => s.spoil (((List.range 32).map (pa / 32 * 32 + ·)).filter fun a => inDevice a && s.sliceHolds a)
  | .l1 c pa => s.updCore c fun k => l1Flaw k pa
  | .slot c id w => s.updSlot c id fun x => { x with bad := x.bad ||| ((2 ^ 64 - 1) <<< (64 * w)) }
  | .x h r => if r = 0 then s else reg h fun b => { b with flawX := b.flawX ||| (1#64 <<< r.toNat) }
  | .v h r w => reg h fun b => { b with flawV := b.flawV.set r.toNat ((b.flawV[r.toNat]'(r.isLt)) ||| (1#128 <<< w)) r.isLt }
  | .corrected pa multi =>
    (if inDevice pa then s.noteError (stackOf pa) (Config.rowOf (stackOf pa) (stackOffset pa)) (errorScore (if multi then .multiBit else .oneSymbol)) else s).setPlat
      fun p => { p with corrected := p.corrected + 1 }
  | .correctedCore => s.setPlat fun p => { p with corrected := p.corrected + 1 }
  | .m h r w => reg h fun b => { b with flawM := b.flawM.setIfInBounds r ((b.flawM[r]?.getD 0) ||| (1#16 <<< w)) }
  | .dataq c q i => s.updCore c fun k =>
    let x := (aget k.dataq q).getD {}
    if i < x.entries.length then
      { k with dataq := aset k.dataq q { x with bad := (x.bad ++ List.replicate (i + 1 - x.bad.length) false).set i true } }
    else k
  | .replay c row col => s.replayFails c row col

end State

end Sys2Proof.Machine
end

