-- ==== Sys2Proof/Machine/ScalarFloat.lean ====
section
/-! DEFINITION. Group 2: scalar floating-point instructions on values in X registers (spec 13 R333 to R339). -/

namespace Sys2Proof.Machine

/-- The format of a .f32 or .f64 form. -/
def scalarFmt (dbl : Bool) : FFmt := if dbl then fmtF64 else fmtF32

/-- The bits of an operand: all 64, or the low 32 (R333). -/
def scalarBits (dbl : Bool) (v : Word) : Nat := if dbl then v.toNat else v.toNat % 2 ^ 32

/-- The rounding of a scalar float instruction with rounding code `code`: no saturation; mode 5 uses c = STRIPB (R333,
R246). -/
def scalarRnd (b : Block) (code : Nat) : RndCtx :=
  { mode := roundMode b.ctl.fctl code, sat := false, fzo := fzo b.ctl.fctl
    g := (gen b.ctl.seed b.ctl.stripb).toNat % 2 ^ 32 }

/-- A float operand under FZI. -/
def scalarVal (b : Block) (dbl : Bool) (v : Word) : FVal :=
  (scalarFmt dbl).decodeFzi (fzi b.ctl.fctl) (scalarBits dbl v)

/-- A two-operand float instruction: X[d] := rounded result with its flags, or FPEXC (R333, R238). -/
def floatBin (dbl : Bool) (f : FmtF) (op : RndCtx → FVal → FVal → FRes) (s : State) : Out :=
  guarded f.gm f.lit [f.a, f.b] (some f.d) (fun s =>
    let r := op (scalarRnd s.blk f.fn.toNat) (scalarVal s.blk dbl (s.getX f.a)) (scalarVal s.blk dbl (s.yF f))
    s.withFlags r.2 f.lit (fun s => (s.writeX f.d (BitVec.ofNat 64 r.1)).advance f.lit)) s

/-- A unary float instruction on y. -/
def floatUn (f : FmtF) (op : State → Word → FRes) (s : State) : Out :=
  guarded f.gm f.lit [f.b] (some f.d) (fun s =>
    let r := op s (s.yF f)
    s.withFlags r.2 f.lit (fun s => (s.writeX f.d (BitVec.ofNat 64 r.1)).advance f.lit)) s

def execFadd (dbl : Bool) (f : FmtF) (s : State) : Out := floatBin dbl f (scalarFmt dbl).addV s
def execFsub (dbl : Bool) (f : FmtF) (s : State) : Out :=
  floatBin dbl f (fun c a b => (scalarFmt dbl).addV c a b.neg) s
def execFmul (dbl : Bool) (f : FmtF) (s : State) : Out := floatBin dbl f (scalarFmt dbl).mulV s
def execFdiv (dbl : Bool) (f : FmtF) (s : State) : Out := floatBin dbl f (scalarFmt dbl).divV s

/-- FMAC: X[a] × y + X[d] with one rounding; X[d] is also a source (R334). -/
def execFmac (dbl : Bool) (f : FmtF) (s : State) : Out :=
  guarded f.gm f.lit [f.a, f.b, f.d] (some f.d) (fun s =>
    let r := (scalarFmt dbl).fmaV (scalarRnd s.blk f.fn.toNat) (scalarVal s.blk dbl (s.getX f.a))
      (scalarVal s.blk dbl (s.yF f)) (scalarVal s.blk dbl (s.getX f.d))
    s.withFlags r.2 f.lit (fun s => (s.writeX f.d (BitVec.ofNat 64 r.1)).advance f.lit)) s

def execFsqrt (dbl : Bool) (f : FmtF) (s : State) : Out :=
  floatUn f (fun s y => (scalarFmt dbl).sqrtV (scalarRnd s.blk f.fn.toNat) (scalarVal s.blk dbl y)) s

/-- FMIN and FMAX choose an operand (R335, R254). -/
def floatMinMax (dbl wantMax : Bool) (f : FmtF) (s : State) : Out :=
  guarded f.gm f.lit [f.a, f.b] (some f.d) (fun s =>
    let r := (scalarFmt dbl).minMax (fzi s.blk.ctl.fctl) wantMax (scalarBits dbl (s.getX f.a)) (scalarBits dbl (s.yF f))
    s.withFlags r.2 f.lit (fun s => (s.writeX f.d (BitVec.ofNat 64 r.1)).advance f.lit)) s

def execFmin (dbl : Bool) (f : FmtF) (s : State) : Out := floatMinMax dbl false f s
def execFmax (dbl : Bool) (f : FmtF) (s : State) : Out := floatMinMax dbl true f s

/-- The result of FSGN: X[a] with the sign that `fn` chooses (R335). -/
def fsgnRes (dbl : Bool) (fn : Nat) (a y : Word) : FRes :=
  let f := scalarFmt dbl
  let x := scalarBits dbl a
  let sx := f.sign x
  let sy := f.sign (scalarBits dbl y)
  let neg := match fn with
    | 0 => sy
    | 1 => !sy
    | _ => sx != sy
  match f.decode x with
  | .nan sg => (f.canonNaN + f.signBit neg, flagIf sg flagNV)
  | _ => (x % 2 ^ (f.eb + f.fb) + f.signBit neg, 0)

def execFsgn (dbl : Bool) (f : FmtF) (s : State) : Out :=
  guarded f.gm f.lit [f.a, f.b] (some f.d) (fun s =>
    let r := fsgnRes dbl f.fn.toNat (s.getX f.a) (s.yF f)
    s.withFlags r.2 f.lit (fun s => (s.writeX f.d (BitVec.ofNat 64 r.1)).advance f.lit)) s

/-- FSETP: P[d] := the condition, with its flags (R336). -/
def execFsetp (dbl : Bool) (f : FmtF) (s : State) : Out :=
  guarded f.gm f.lit [f.a, f.b] none (fun s =>
    let r := fcond f.fn.toNat (scalarVal s.blk dbl (s.getX f.a)) (scalarVal s.blk dbl (s.yF f))
    s.withFlags r.2 f.lit (fun s => (s.writeP f.d.toNat r.1).advance f.lit)) s

/-- The result of FRND: y rounded to an integral value of its format (R337). -/
def frndRes (f : FFmt) (c : RndCtx) (v : FVal) (x : Nat) : FRes :=
  match v with
  | .nan s => f.nanRes s
  | .inf _ => (x, 0)
  | .num n m e =>
    if m = 0 then (f.zero n, 0)
    else
      let (q, inexact, _) := roundGrid c.mode n c.g m e false 0
      if q = 0 then (f.zero n, flagIf inexact flagNX)
      else if 0 ≤ e then (x, 0)
      else (f.place n (q <<< f.fb) (-(f.fb : Int)), flagIf inexact flagNX)

def execFrnd (dbl : Bool) (f : FmtF) (s : State) : Out :=
  floatUn f (fun s y => frndRes (scalarFmt dbl) (scalarRnd s.blk f.fn.toNat) (scalarVal s.blk dbl y) (scalarBits dbl y)) s

/-- The format code of R225 for a type code of FCVT (R338). -/
def cvtType (t : Nat) : Nat :=
  match t with
  | 0 => 0x10 | 1 => 0x11 | 2 => 0x12 | 3 => 0x13 | 4 => 0x06 | 5 => 0x0E | 6 => 0x05 | _ => 0x0D

/-- The result of FCVT: an I32 result is sign-extended, every other zero-extended (R338). -/
def fcvtRes (dst src : Nat) (fz : Bool) (c : RndCtx) (y : Word) : Word × Flags :=
  let r := convertElem (cvtType src) (cvtType dst) fz c (y.toNat % 2 ^ fmtBits (cvtType src))
  (if dst = 6 then sextWord 32 r.1 else BitVec.ofNat 64 r.1, r.2)

def execFcvt (f : FmtF) (s : State) : Out :=
  guarded f.gm f.lit [f.b] (some f.d) (fun s =>
    let r := fcvtRes (f.a.toNat / 8) (f.a.toNat % 8) (fzi s.blk.ctl.fctl) (scalarRnd s.blk f.fn.toNat) (s.yF f)
    s.withFlags r.2 f.lit (fun s => (s.writeX f.d r.1).advance f.lit)) s

/-- FCLASS: the one-hot class; it ignores FZI and sets no flag (R339). -/
def execFclass (f : FmtF) (s : State) : Out :=
  guarded f.gm f.lit [f.b] (some f.d) (fun s =>
    let dbl := f.fn == 1
    (s.writeX f.d (BitVec.ofNat 64 ((scalarFmt dbl).classify (scalarBits dbl (s.yF f))))).advance f.lit) s

end Sys2Proof.Machine
end

