-- ==== Sys2Proof/Machine/Rep.lean ====
section
/-! DEFINITION. REP and its repetitions (spec 11 R298). -/

namespace Sys2Proof.Machine

/-- The X register that an instruction of groups 1, 2 and 4 names as its destination. -/
def repDest (i : Instr) : Option (BitVec 6) :=
  match i with
  | .add _ f | .sub _ f | .mul _ f | .mulh f | .mulhn f | .div f | .divn f | .rem f | .remn f | .and f | .or f
  | .xor f | .andn f | .orn f | .shl _ f | .shr _ f | .sar _ f | .rol f | .ror f | .min f | .max f | .minn f
  | .maxn f | .clz f | .ctz f | .popc f | .brev f | .bswap f | .sext f | .zext f | .mov f | .abs f | .bfx f | .bfxn f
  | .bfi f => some f.d
  | .lea f | .sel f | .setx f | .fadd _ f | .fsub _ f | .fmul _ f | .fmac _ f | .fdiv _ f | .fsqrt _ f | .fmin _ f
  | .fmax _ f | .fsgn _ f | .frnd _ f | .fcvt f | .fclass f => some f.d
  | .lds8 f | .lds16 f | .lds32 f | .ldz8 f | .ldz16 f | .ldz32 f | .ld64 f | .lda _ f | .amoadd _ f | .amoand _ f
  | .amoor _ f | .amoxor _ f | .amomin _ f | .amomax _ f | .amominn _ f | .amomaxn _ f | .amoswp _ f | .amocas _ f
  | .amofadd f => some f.d
  | _ => none

/-- The instruction of a repeated word; none when the word is illegal or not of group 1, 2 or 4. -/
def repInstr (gen : Nat) (w lit : Word) : Option Instr :=
  let op := (wordOp w).toNat
  let op3 := if gen = 1 then (toG2fromG1 op).bind toG3fromG2 else if gen = 2 then toG3fromG2 op else some op
  let dec := op3.bind fun o =>
    if o = 0 then none else if o < 0x40 then ops1[o - 1]? else if o < 0x60 then ops2[o - 0x40]?
    else if 0x80 ≤ o && o < 0xC0 then ops4[o - 0x80]? else none
  dec.bind fun f =>
    let i := f w (if wordL w then some lit else none)
    if !fieldsOk i || !genOk gen i then none else some i

namespace State

/-- REP once its words are there: its checks, then the skip of the pair, or the first repetition next (R298). -/
def repBegin (s : State) (a : BitVec 6) (w next : Word) : State :=
  match repInstr s.blk.gen w next with
  | none => s.raise .illop none
  | some i =>
    if repDest i = some a || (s.blk.boundTo a).isSome then s.raise .illop none
    else if !s.regsReady [a] none then s.waitFor .retry
    else if s.flawedX [a] then s.raise .uncorr none
    else if s.getX a = 0 then
      (s.advance none).updBlk fun b => { b with pc := b.pc + BitVec.ofNat 64 (if wordL w then 16 else 8) }
    else
      s.updBlk fun b => { b with rep := some (a, w, next), estart := 0, wait := none, xbuf := [], skipBp := false, skipWatch := [] }

end State

/-- REP fetches the repeated word and its literal, whatever X[a] holds (R298). -/
def execRep (f : FmtA) (s : State) : Out :=
  if s.blk.guard f.gm then
    let pc := s.blk.pc.toNat
    match s.fetchWord (pc + 8) false with
    | .stop s => .next s
    | .ok w s =>
      if wordL w then
        match s.fetchWord (pc + 16) false with
        | .stop s => .next s
        | .ok next s => .next (s.repBegin f.a w next)
      else .next (s.repBegin f.a w 0)
  else .next (s.advance none)

/-- The meaning of an instruction that REP may repeat. -/
def repExec (i : Instr) (s : State) : Out :=
  match i with
  | .add w f => execAdd w f s
  | .sub w f => execSub w f s
  | .mul w f => execMul w f s
  | .mulh f => execMulh f s
  | .mulhn f => execMulhn f s
  | .div f => execDiv f s
  | .divn f => execDivn f s
  | .rem f => execRem f s
  | .remn f => execRemn f s
  | .and f => execAnd f s
  | .or f => execOr f s
  | .xor f => execXor f s
  | .andn f => execAndn f s
  | .orn f => execOrn f s
  | .shl w f => execShl w f s
  | .shr w f => execShr w f s
  | .sar w f => execSar w f s
  | .rol f => execRol f s
  | .ror f => execRor f s
  | .min f => execMin f s
  | .max f => execMax f s
  | .minn f => execMinn f s
  | .maxn f => execMaxn f s
  | .clz f => execClz f s
  | .ctz f => execCtz f s
  | .popc f => execPopc f s
  | .brev f => execBrev f s
  | .bswap f => execBswap f s
  | .sext f => execSext f s
  | .zext f => execZext f s
  | .mov f => execMov f s
  | .abs f => execAbs f s
  | .bfx f => execBfx f s
  | .bfxn f => execBfxn f s
  | .bfi f => execBfi f s
  | .lea f => execLea f s
  | .sel f => execSel f s
  | .setp f => execSetp f s
  | .setx f => execSetx f s
  | .plog f => execPlog f s
  | .fadd dbl f => execFadd dbl f s
  | .fsub dbl f => execFsub dbl f s
  | .fmul dbl f => execFmul dbl f s
  | .fmac dbl f => execFmac dbl f s
  | .fdiv dbl f => execFdiv dbl f s
  | .fsqrt dbl f => execFsqrt dbl f s
  | .fmin dbl f => execFmin dbl f s
  | .fmax dbl f => execFmax dbl f s
  | .fsgn dbl f => execFsgn dbl f s
  | .fsetp dbl f => execFsetp dbl f s
  | .frnd dbl f => execFrnd dbl f s
  | .fcvt f => execFcvt f s
  | .fclass f => execFclass f s
  | .lds8 f => execLds8 f s
  | .lds16 f => execLds16 f s
  | .lds32 f => execLds32 f s
  | .ldz8 f => execLdz8 f s
  | .ldz16 f => execLdz16 f s
  | .ldz32 f => execLdz32 f s
  | .ld64 f => execLd64 f s
  | .st8 f => execSt8 f s
  | .st16 f => execSt16 f s
  | .st32 f => execSt32 f s
  | .st64 f => execSt64 f s
  | .lda dbl f => execLda dbl f s
  | .stl dbl f => execStl dbl f s
  | .amoadd dbl f => execAmoadd dbl f s
  | .amoand dbl f => execAmoand dbl f s
  | .amoor dbl f => execAmoor dbl f s
  | .amoxor dbl f => execAmoxor dbl f s
  | .amomin dbl f => execAmomin dbl f s
  | .amomax dbl f => execAmomax dbl f s
  | .amominn dbl f => execAmominn dbl f s
  | .amomaxn dbl f => execAmomaxn dbl f s
  | .amoswp dbl f => execAmoswp dbl f s
  | .amocas dbl f => execAmocas dbl f s
  | .amofadd f => execAmofadd f s
  | .fenceAcq f => execFenceAcq f s
  | .fenceRel f => execFenceRel f s
  | .fenceAr f => execFenceAr f s
  | .qfence f => execQfence f s
  | .cwb f => execCwb f s
  | .cinv f => execCinv f s
  | .cflush f => execCflush f s
  | .pref f => execPref f s
  | .stpatch f => execStpatch f s
  | .ifence f => execIfence f s
  | _ => .next (s.raise .illop none)

/-- REP_REPETITION: the repeated instruction issues once, with its own guard and sources (R298). -/
def execRepRepetition (s : State) : Out :=
  match s.blk.rep with
  | some (_, w, next) =>
    match repInstr s.blk.gen w next with
    | some i => repExec i s
    | none => .next (s.raise .illop none)
  | none => .next s

end Sys2Proof.Machine
end

