-- ==== Sys2Proof/Machine/Dispatch.lean ====
section
/-! DEFINITION. Dispatch: one arm for each constructor of `Instr`. -/

namespace Sys2Proof.Machine

/-- The meaning of an instruction or event. -/
def exec (i : Instr) (s : State) : Host.Outcome State Fault Refusal :=
  match i with
  | .add w f => Sys2Proof.Machine.execAdd w f s
  | .sub w f => Sys2Proof.Machine.execSub w f s
  | .mul w f => Sys2Proof.Machine.execMul w f s
  | .mulh f => Sys2Proof.Machine.execMulh f s
  | .mulhn f => Sys2Proof.Machine.execMulhn f s
  | .div f => Sys2Proof.Machine.execDiv f s
  | .divn f => Sys2Proof.Machine.execDivn f s
  | .rem f => Sys2Proof.Machine.execRem f s
  | .remn f => Sys2Proof.Machine.execRemn f s
  | .and f => Sys2Proof.Machine.execAnd f s
  | .or f => Sys2Proof.Machine.execOr f s
  | .xor f => Sys2Proof.Machine.execXor f s
  | .andn f => Sys2Proof.Machine.execAndn f s
  | .orn f => Sys2Proof.Machine.execOrn f s
  | .shl w f => Sys2Proof.Machine.execShl w f s
  | .shr w f => Sys2Proof.Machine.execShr w f s
  | .sar w f => Sys2Proof.Machine.execSar w f s
  | .rol f => Sys2Proof.Machine.execRol f s
  | .ror f => Sys2Proof.Machine.execRor f s
  | .min f => Sys2Proof.Machine.execMin f s
  | .max f => Sys2Proof.Machine.execMax f s
  | .minn f => Sys2Proof.Machine.execMinn f s
  | .maxn f => Sys2Proof.Machine.execMaxn f s
  | .clz f => Sys2Proof.Machine.execClz f s
  | .ctz f => Sys2Proof.Machine.execCtz f s
  | .popc f => Sys2Proof.Machine.execPopc f s
  | .brev f => Sys2Proof.Machine.execBrev f s
  | .bswap f => Sys2Proof.Machine.execBswap f s
  | .sext f => Sys2Proof.Machine.execSext f s
  | .zext f => Sys2Proof.Machine.execZext f s
  | .mov f => Sys2Proof.Machine.execMov f s
  | .abs f => Sys2Proof.Machine.execAbs f s
  | .bfx f => Sys2Proof.Machine.execBfx f s
  | .bfxn f => Sys2Proof.Machine.execBfxn f s
  | .bfi f => Sys2Proof.Machine.execBfi f s
  | .lea f => Sys2Proof.Machine.execLea f s
  | .sel f => Sys2Proof.Machine.execSel f s
  | .setp f => Sys2Proof.Machine.execSetp f s
  | .setx f => Sys2Proof.Machine.execSetx f s
  | .plog f => Sys2Proof.Machine.execPlog f s
  | .fadd dbl f => Sys2Proof.Machine.execFadd dbl f s
  | .fsub dbl f => Sys2Proof.Machine.execFsub dbl f s
  | .fmul dbl f => Sys2Proof.Machine.execFmul dbl f s
  | .fmac dbl f => Sys2Proof.Machine.execFmac dbl f s
  | .fdiv dbl f => Sys2Proof.Machine.execFdiv dbl f s
  | .fsqrt dbl f => Sys2Proof.Machine.execFsqrt dbl f s
  | .fmin dbl f => Sys2Proof.Machine.execFmin dbl f s
  | .fmax dbl f => Sys2Proof.Machine.execFmax dbl f s
  | .fsgn dbl f => Sys2Proof.Machine.execFsgn dbl f s
  | .fsetp dbl f => Sys2Proof.Machine.execFsetp dbl f s
  | .frnd dbl f => Sys2Proof.Machine.execFrnd dbl f s
  | .fcvt f => Sys2Proof.Machine.execFcvt f s
  | .fclass f => Sys2Proof.Machine.execFclass f s
  | .br f => Sys2Proof.Machine.execBr f s
  | .call f => Sys2Proof.Machine.execCall f s
  | .loop f => Sys2Proof.Machine.execLoop f s
  | .jmp f => Sys2Proof.Machine.execJmp f s
  | .callr f => Sys2Proof.Machine.execCallr f s
  | .ret f => Sys2Proof.Machine.execRet f s
  | .callt f => Sys2Proof.Machine.execCallt f s
  | .brx f => Sys2Proof.Machine.execBrx f s
  | .rep f => Sys2Proof.Machine.execRep f s
  | .repRepetition => Sys2Proof.Machine.execRepRepetition s
  | .yield f => Sys2Proof.Machine.execYield f s
  | .nop f => Sys2Proof.Machine.execNop f s
  | .exit f => Sys2Proof.Machine.execExit f s
  | .trap f => Sys2Proof.Machine.execTrap f s
  | .brk f => Sys2Proof.Machine.execBrk f s
  | .wfe f => Sys2Proof.Machine.execWfe f s
  | .wfeWake h => Sys2Proof.Machine.execWfeWake h s
  | .lend f => Sys2Proof.Machine.execLend f s
  | .lds8 f => Sys2Proof.Machine.execLds8 f s
  | .lds16 f => Sys2Proof.Machine.execLds16 f s
  | .lds32 f => Sys2Proof.Machine.execLds32 f s
  | .ldz8 f => Sys2Proof.Machine.execLdz8 f s
  | .ldz16 f => Sys2Proof.Machine.execLdz16 f s
  | .ldz32 f => Sys2Proof.Machine.execLdz32 f s
  | .ld64 f => Sys2Proof.Machine.execLd64 f s
  | .st8 f => Sys2Proof.Machine.execSt8 f s
  | .st16 f => Sys2Proof.Machine.execSt16 f s
  | .st32 f => Sys2Proof.Machine.execSt32 f s
  | .st64 f => Sys2Proof.Machine.execSt64 f s
  | .lda dbl f => Sys2Proof.Machine.execLda dbl f s
  | .stl dbl f => Sys2Proof.Machine.execStl dbl f s
  | .amoadd dbl f => Sys2Proof.Machine.execAmoadd dbl f s
  | .amoand dbl f => Sys2Proof.Machine.execAmoand dbl f s
  | .amoor dbl f => Sys2Proof.Machine.execAmoor dbl f s
  | .amoxor dbl f => Sys2Proof.Machine.execAmoxor dbl f s
  | .amomin dbl f => Sys2Proof.Machine.execAmomin dbl f s
  | .amomax dbl f => Sys2Proof.Machine.execAmomax dbl f s
  | .amominn dbl f => Sys2Proof.Machine.execAmominn dbl f s
  | .amomaxn dbl f => Sys2Proof.Machine.execAmomaxn dbl f s
  | .amoswp dbl f => Sys2Proof.Machine.execAmoswp dbl f s
  | .amocas dbl f => Sys2Proof.Machine.execAmocas dbl f s
  | .amofadd f => Sys2Proof.Machine.execAmofadd f s
  | .fenceAcq f => Sys2Proof.Machine.execFenceAcq f s
  | .fenceRel f => Sys2Proof.Machine.execFenceRel f s
  | .fenceAr f => Sys2Proof.Machine.execFenceAr f s
  | .qfence f => Sys2Proof.Machine.execQfence f s
  | .cwb f => Sys2Proof.Machine.execCwb f s
  | .cinv f => Sys2Proof.Machine.execCinv f s
  | .cflush f => Sys2Proof.Machine.execCflush f s
  | .pref f => Sys2Proof.Machine.execPref f s
  | .stpatch f => Sys2Proof.Machine.execStpatch f s
  | .ifence f => Sys2Proof.Machine.execIfence f s
  | .lclaim f => Sys2Proof.Machine.execLclaim f s
  | .lclaimGrant core => Sys2Proof.Machine.execLclaimGrant core s
  | .lrelease f => Sys2Proof.Machine.execLrelease f s
  | .vadd f => Sys2Proof.Machine.execVadd f s
  | .vsub f => Sys2Proof.Machine.execVsub f s
  | .vadds f => Sys2Proof.Machine.execVadds f s
  | .vsubs f => Sys2Proof.Machine.execVsubs f s
  | .vmul f => Sys2Proof.Machine.execVmul f s
  | .vmulh f => Sys2Proof.Machine.execVmulh f s
  | .vmulhn f => Sys2Proof.Machine.execVmulhn f s
  | .vmac f => Sys2Proof.Machine.execVmac f s
  | .vmin f => Sys2Proof.Machine.execVmin f s
  | .vmax f => Sys2Proof.Machine.execVmax f s
  | .vminn f => Sys2Proof.Machine.execVminn f s
  | .vmaxn f => Sys2Proof.Machine.execVmaxn f s
  | .vabs f => Sys2Proof.Machine.execVabs f s
  | .vand f => Sys2Proof.Machine.execVand f s
  | .vor f => Sys2Proof.Machine.execVor f s
  | .vxor f => Sys2Proof.Machine.execVxor f s
  | .vandn f => Sys2Proof.Machine.execVandn f s
  | .vshl f => Sys2Proof.Machine.execVshl f s
  | .vshr f => Sys2Proof.Machine.execVshr f s
  | .vsar f => Sys2Proof.Machine.execVsar f s
  | .vpopc f => Sys2Proof.Machine.execVpopc f s
  | .vclz f => Sys2Proof.Machine.execVclz f s
  | .vcmp f => Sys2Proof.Machine.execVcmp f s
  | .vfadd f => Sys2Proof.Machine.execVfadd f s
  | .vfsub f => Sys2Proof.Machine.execVfsub f s
  | .vfmul f => Sys2Proof.Machine.execVfmul f s
  | .vfma f => Sys2Proof.Machine.execVfma f s
  | .vfdiv f => Sys2Proof.Machine.execVfdiv f s
  | .vfsqrt f => Sys2Proof.Machine.execVfsqrt f s
  | .vfmin f => Sys2Proof.Machine.execVfmin f s
  | .vfmax f => Sys2Proof.Machine.execVfmax f s
  | .vfcmp f => Sys2Proof.Machine.execVfcmp f s
  | .vclass f => Sys2Proof.Machine.execVclass f s
  | .vsfu f => Sys2Proof.Machine.execVsfu f s
  | .vcvt f => Sys2Proof.Machine.execVcvt f s
  | .vcvtsr f => Sys2Proof.Machine.execVcvtsr f s
  | .vsel f => Sys2Proof.Machine.execVsel f s
  | .vmov f => Sys2Proof.Machine.execVmov f s
  | .viota f => Sys2Proof.Machine.execViota f s
  | .vext f => Sys2Proof.Machine.execVext f s
  | .vins f => Sys2Proof.Machine.execVins f s
  | .vperm f => Sys2Proof.Machine.execVperm f s
  | .vslup f => Sys2Proof.Machine.execVslup f s
  | .vsldn f => Sys2Proof.Machine.execVsldn f s
  | .vcomp f => Sys2Proof.Machine.execVcomp f s
  | .vexpd f => Sys2Proof.Machine.execVexpd f s
  | .vrsum f => Sys2Proof.Machine.execVrsum f s
  | .vrmax f => Sys2Proof.Machine.execVrmax f s
  | .vrmin f => Sys2Proof.Machine.execVrmin f s
  | .vrfsum f => Sys2Proof.Machine.execVrfsum f s
  | .vrfmax f => Sys2Proof.Machine.execVrfmax f s
  | .vrfmin f => Sys2Proof.Machine.execVrfmin f s
  | .mlog f => Sys2Proof.Machine.execMlog f s
  | .mpop f => Sys2Proof.Machine.execMpop f s
  | .mfirst f => Sys2Proof.Machine.execMfirst f s
  | .msbf f => Sys2Proof.Machine.execMsbf f s
  | .msif f => Sys2Proof.Machine.execMsif f s
  | .msof f => Sys2Proof.Machine.execMsof f s
  | .mset f => Sys2Proof.Machine.execMset f s
  | .vdot f => Sys2Proof.Machine.execVdot f s
  | .vwmac f => Sys2Proof.Machine.execVwmac f s
  | .vrng f => Sys2Proof.Machine.execVrng f s
  | .vld f => Sys2Proof.Machine.execVld f s
  | .vlds f => Sys2Proof.Machine.execVlds f s
  | .vldx f => Sys2Proof.Machine.execVldx f s
  | .vldff f => Sys2Proof.Machine.execVldff f s
  | .vst f => Sys2Proof.Machine.execVst f s
  | .vsts f => Sys2Proof.Machine.execVsts f s
  | .vstx f => Sys2Proof.Machine.execVstx f s
  | .vamoadd f => Sys2Proof.Machine.execVamoadd f s
  | .vtld f => Sys2Proof.Machine.execVtld f s
  | .vtst f => Sys2Proof.Machine.execVtst f s
  | .tshapeLo f => Sys2Proof.Machine.execTshapeLo f s
  | .tshapeHi f => Sys2Proof.Machine.execTshapeHi f s
  | .tdecl f => Sys2Proof.Machine.execTdecl f s
  | .tfree f => Sys2Proof.Machine.execTfree f s
  | .tview f => Sys2Proof.Machine.execTview f s
  | .twait f => Sys2Proof.Machine.execTwait f s
  | .twaitAll f => Sys2Proof.Machine.execTwaitAll f s
  | .twaitComplete h => Sys2Proof.Machine.execTwaitComplete h s
  | .tstat f => Sys2Proof.Machine.execTstat f s
  | .tsync f => Sys2Proof.Machine.execTsync f s
  | .tsyncComplete h => Sys2Proof.Machine.execTsyncComplete h s
  | .tmma f => Sys2Proof.Machine.execTmma f s
  | .tmmas f => Sys2Proof.Machine.execTmmas f s
  | .tmmaq f => Sys2Proof.Machine.execTmmaq f s
  | .topa f => Sys2Proof.Machine.execTopa f s
  | .tzero f => Sys2Proof.Machine.execTzero f s
  | .taccl f => Sys2Proof.Machine.execTaccl f s
  | .text f => Sys2Proof.Machine.execText f s
  | .textv f => Sys2Proof.Machine.execTextv f s
  | .tmap f => Sys2Proof.Machine.execTmap f s
  | .tew f => Sys2Proof.Machine.execTew f s
  | .tred f => Sys2Proof.Machine.execTred f s
  | .tfill f => Sys2Proof.Machine.execTfill f s
  | .ttrn f => Sys2Proof.Machine.execTtrn f s
  | .tcvt f => Sys2Proof.Machine.execTcvt f s
  | .tscale f => Sys2Proof.Machine.execTscale f s
  | .trand f => Sys2Proof.Machine.execTrand f s
  | .tplane f => Sys2Proof.Machine.execTplane f s
  | .tplaneRw f => Sys2Proof.Machine.execTplaneRw f s
  | .tpacksMeta f => Sys2Proof.Machine.execTpacksMeta f s
  | .tpacksSel f => Sys2Proof.Machine.execTpacksSel f s
  | .trowv f => Sys2Proof.Machine.execTrowv f s
  | .tvrow f => Sys2Proof.Machine.execTvrow f s
  | .tld f => Sys2Proof.Machine.execTld f s
  | .tst f => Sys2Proof.Machine.execTst f s
  | .tprobe f => Sys2Proof.Machine.execTprobe f s
  | .tunpin f => Sys2Proof.Machine.execTunpin f s
  | .tlda f => Sys2Proof.Machine.execTlda f s
  | .tsta f => Sys2Proof.Machine.execTsta f s
  | .tgath f => Sys2Proof.Machine.execTgath f s
  | .tscat f => Sys2Proof.Machine.execTscat f s
  | .tsend f => Sys2Proof.Machine.execTsend f s
  | .trecv f => Sys2Proof.Machine.execTrecv f s
  | .tchain f => Sys2Proof.Machine.execTchain f s
  | .tmcast f => Sys2Proof.Machine.execTmcast f s
  | .tscan f => Sys2Proof.Machine.execTscan f s
  | .tscanc f => Sys2Proof.Machine.execTscanc f s
  | .cpass f => Sys2Proof.Machine.execCpass f s
  | .cbar f => Sys2Proof.Machine.execCbar f s
  | .cinit f => Sys2Proof.Machine.execCinit f s
  | .cinitAnswer h => Sys2Proof.Machine.execCinitAnswer h s
  | .barinit f => Sys2Proof.Machine.execBarinit f s
  | .bararr f => Sys2Proof.Machine.execBararr f s
  | .barwait f => Sys2Proof.Machine.execBarwait f s
  | .barsync f => Sys2Proof.Machine.execBarsync f s
  | .bartest f => Sys2Proof.Machine.execBartest f s
  | .elect f => Sys2Proof.Machine.execElect f s
  | .gsync f => Sys2Proof.Machine.execGsync f s
  | .barrierArrival n => Sys2Proof.Machine.execBarrierArrival n s
  | .barrierWaiterResume h => Sys2Proof.Machine.execBarrierWaiterResume h s
  | .qbind f => Sys2Proof.Machine.execQbind f s
  | .qbindUnbind f => Sys2Proof.Machine.execQbindUnbind f s
  | .qpush f => Sys2Proof.Machine.execQpush f s
  | .qpop f => Sys2Proof.Machine.execQpop f s
  | .qtry f => Sys2Proof.Machine.execQtry f s
  | .qtake f => Sys2Proof.Machine.execQtake f s
  | .qcnt f => Sys2Proof.Machine.execQcnt f s
  | .spawn f => Sys2Proof.Machine.execSpawn f s
  | .queuePushAccept n => Sys2Proof.Machine.execQueuePushAccept n s
  | .queueWaitPushServed cluster q => Sys2Proof.Machine.execQueueWaitPushServed cluster q s
  | .queueWaitPopServed cluster q => Sys2Proof.Machine.execQueueWaitPopServed cluster q s
  | .refillBatchStart cluster q => Sys2Proof.Machine.execRefillBatchStart cluster q s
  | .refillBatchLand cluster q => Sys2Proof.Machine.execRefillBatchLand cluster q s
  | .strip f => Sys2Proof.Machine.execStrip f s
  | .fork f => Sys2Proof.Machine.execFork f s
  | .forkChildPlace n => Sys2Proof.Machine.execForkChildPlace n s
  | .sync f => Sys2Proof.Machine.execSync f s
  | .taskend f => Sys2Proof.Machine.execTaskend f s
  | .parentResume n => Sys2Proof.Machine.execParentResume n s
  | .stgput f => Sys2Proof.Machine.execStgput f s
  | .stgget f => Sys2Proof.Machine.execStgget f s
  | .stageQueueClose cluster q => Sys2Proof.Machine.execStageQueueClose cluster q s
  | .evsig f => Sys2Proof.Machine.execEvsig f s
  | .evwait f => Sys2Proof.Machine.execEvwait f s
  | .evwaitSatisfied h => Sys2Proof.Machine.execEvwaitSatisfied h s
  | .signal f => Sys2Proof.Machine.execSignal f s
  | .signalAdd f => Sys2Proof.Machine.execSignalAdd f s
  | .time f => Sys2Proof.Machine.execTime f s
  | .getc f => Sys2Proof.Machine.execGetc f s
  | .setc f => Sys2Proof.Machine.execSetc f s
  | .eret f => Sys2Proof.Machine.execEret f s
  | .bankcfg f => Sys2Proof.Machine.execBankcfg f s
  | .bankSwitchFinish core bank => Sys2Proof.Machine.execBankSwitchFinish core bank s
  | .l2cfg f => Sys2Proof.Machine.execL2cfg f s
  | .l2cfgComplete stack => Sys2Proof.Machine.execL2cfgComplete stack s
  | .tlbinvRange f => Sys2Proof.Machine.execTlbinvRange f s
  | .tlbinvAll f => Sys2Proof.Machine.execTlbinvAll f s
  | .invalidationComplete n => Sys2Proof.Machine.execInvalidationComplete n s
  | .ctxsave f => Sys2Proof.Machine.execCtxsave f s
  | .ctxload f => Sys2Proof.Machine.execCtxload f s
  | .halt f => Sys2Proof.Machine.execHalt f s
  | .suspend f => Sys2Proof.Machine.execSuspend f s
  | .resumeb f => Sys2Proof.Machine.execResumeb f s
  | .trace f => Sys2Proof.Machine.execTrace f s
  | .probev f => Sys2Proof.Machine.execProbev f s
  | .nbrd f => Sys2Proof.Machine.execNbrd f s
  | .scrub f => Sys2Proof.Machine.execScrub f s
  | .measure f => Sys2Proof.Machine.execMeasure f s
  | .measurementExtend n => Sys2Proof.Machine.execMeasurementExtend n s
  | .tileAccept h => Sys2Proof.Machine.execTileAccept h s
  | .microOpStart core q n => Sys2Proof.Machine.execMicroOpStart core q n s
  | .microOpFinish core q => Sys2Proof.Machine.execMicroOpFinish core q s
  | .copyTranslatePage h => Sys2Proof.Machine.execCopyTranslatePage h s
  | .tileRetire h => Sys2Proof.Machine.execTileRetire h s
  | .tileTrapTaken h => Sys2Proof.Machine.execTileTrapTaken h s
  | .translateService h => Sys2Proof.Machine.execTranslateService h s
  | .translationLockResume h => Sys2Proof.Machine.execTranslationLockResume h s
  | .saffronCarryArrival n => Sys2Proof.Machine.execSaffronCarryArrival n s
  | .saffronCompletionArrival n => Sys2Proof.Machine.execSaffronCompletionArrival n s
  | .streamHeaderArrival n => Sys2Proof.Machine.execStreamHeaderArrival n s
  | .streamGroupArrival n => Sys2Proof.Machine.execStreamGroupArrival n s
  | .storePerformL1 h => Sys2Proof.Machine.execStorePerformL1 h s
  | .l1FillArrival core => Sys2Proof.Machine.execL1FillArrival core s
  | .homeAccess stack => Sys2Proof.Machine.execHomeAccess stack s
  | .sliceMissFill stack line => Sys2Proof.Machine.execSliceMissFill stack line s
  | .responseArrival core => Sys2Proof.Machine.execResponseArrival core s
  | .cloveMarker stack => Sys2Proof.Machine.execCloveMarker stack s
  | .cloveAckArrival core => Sys2Proof.Machine.execCloveAckArrival core s
  | .hostFlushReadComplete h => Sys2Proof.Machine.execHostFlushReadComplete h s
  | .maceLockRequest stack => Sys2Proof.Machine.execMaceLockRequest stack s
  | .maceGrant core => Sys2Proof.Machine.execMaceGrant core s
  | .maceRelease stack => Sys2Proof.Machine.execMaceRelease stack s
  | .gatherRequest stack => Sys2Proof.Machine.execGatherRequest stack s
  | .gatherForwardGroup stack => Sys2Proof.Machine.execGatherForwardGroup stack s
  | .gatherResult core => Sys2Proof.Machine.execGatherResult core s
  | .meshPacketForward die col row out => Sys2Proof.Machine.execMeshPacketForward die col row out s
  | .dieCacheLookup n => Sys2Proof.Machine.execDieCacheLookup n s
  | .pageWalk n => Sys2Proof.Machine.execPageWalk n s
  | .pageWalkComplete n => Sys2Proof.Machine.execPageWalkComplete n s
  | .icacheDropRequest core => Sys2Proof.Machine.execIcacheDropRequest core s
  | .icacheDropAck core => Sys2Proof.Machine.execIcacheDropAck core s
  | .launch q => Sys2Proof.Machine.execLaunch q s
  | .gangPlacement launch => Sys2Proof.Machine.execGangPlacement launch s
  | .hartFree h => Sys2Proof.Machine.execHartFree h s
  | .backpressureEvaluation cluster => Sys2Proof.Machine.execBackpressureEvaluation cluster s
  | .clusterRelease cluster => Sys2Proof.Machine.execClusterRelease cluster s
  | .preemptionStarvation launch => Sys2Proof.Machine.execPreemptionStarvation launch s
  | .preemptionStop h => Sys2Proof.Machine.execPreemptionStop h s
  | .gangRestore n => Sys2Proof.Machine.execGangRestore n s
  | .launchComplete launch => Sys2Proof.Machine.execLaunchComplete launch s
  | .copy q => Sys2Proof.Machine.execCopy q s
  | .fill q => Sys2Proof.Machine.execFill q s
  | .signalCommand q => Sys2Proof.Machine.execSignalCommand q s
  | .waitCommand q => Sys2Proof.Machine.execWaitCommand q s
  | .waitSatisfied q => Sys2Proof.Machine.execWaitSatisfied q s
  | .waitTimeout q => Sys2Proof.Machine.execWaitTimeout q s
  | .queueFence q => Sys2Proof.Machine.execQueueFence q s
  | .queueFenceSatisfied q => Sys2Proof.Machine.execQueueFenceSatisfied q s
  | .loadCode q => Sys2Proof.Machine.execLoadCode q s
  | .invalidateRange q => Sys2Proof.Machine.execInvalidateRange q s
  | .invalidateIfetch q => Sys2Proof.Machine.execInvalidateIfetch q s
  | .invalidateAll q => Sys2Proof.Machine.execInvalidateAll q s
  | .contextCreate q => Sys2Proof.Machine.execContextCreate q s
  | .contextModify q => Sys2Proof.Machine.execContextModify q s
  | .contextDestroy q => Sys2Proof.Machine.execContextDestroy q s
  | .commandConsume => Sys2Proof.Machine.execCommandConsume s
  | .commandComplete q => Sys2Proof.Machine.execCommandComplete q s
  | .dbtail q be data => Sys2Proof.Machine.execDbtail q be data s
  | .queueEnable q be data => Sys2Proof.Machine.execQueueEnable q be data s
  | .queueDisable q => Sys2Proof.Machine.execQueueDisable q s
  | .evhead q be data => Sys2Proof.Machine.execEvhead q be data s
  | .haltedClear q => Sys2Proof.Machine.execHaltedClear q s
  | .stggo be => Sys2Proof.Machine.execStggo be s
  | .fabrank be data => Sys2Proof.Machine.execFabrank be data s
  | .pwrramp be data => Sys2Proof.Machine.execPwrramp be data s
  | .pwrfloor be data => Sys2Proof.Machine.execPwrfloor be data s
  | .meshwt be data => Sys2Proof.Machine.execMeshwt be data s
  | .trcctl core be data => Sys2Proof.Machine.execTrcctl core be data s
  | .haltreq h => Sys2Proof.Machine.execHaltreq h s
  | .haltResume h => Sys2Proof.Machine.execHaltResume h s
  | .freezereq h => Sys2Proof.Machine.execFreezereq h s
  | .dbgimgSave h pa => Sys2Proof.Machine.execDbgimgSave h pa s
  | .dbgimgLoad h pa => Sys2Proof.Machine.execDbgimgLoad h pa s
  | .registerWrite win off bytes => Sys2Proof.Machine.execRegisterWrite win off bytes s
  | .bar2Read off n => Sys2Proof.Machine.execBar2Read off n s
  | .bar2Write off bytes => Sys2Proof.Machine.execBar2Write off bytes s
  | .sxlFlitReceive port flit => Sys2Proof.Machine.execSxlFlitReceive port flit s
  | .sxlRetry port seq => Sys2Proof.Machine.execSxlRetry port seq s
  | .linkDown port => Sys2Proof.Machine.execLinkDown port s
  | .sxlWrite m => Sys2Proof.Machine.execSxlWrite m s
  | .sxlRead m => Sys2Proof.Machine.execSxlRead m s
  | .sxlAtomic m => Sys2Proof.Machine.execSxlAtomic m s
  | .sxlSignal m => Sys2Proof.Machine.execSxlSignal m s
  | .sxlClove m => Sys2Proof.Machine.execSxlClove m s
  | .sxlResp m => Sys2Proof.Machine.execSxlResp m s
  | .sxlAck m => Sys2Proof.Machine.execSxlAck m s
  | .stagger port m => Sys2Proof.Machine.execStagger port m s
  | .staggerRelease => Sys2Proof.Machine.execStaggerRelease s
  | .timesyncExchange t2 t3 t4 => Sys2Proof.Machine.execTimesyncExchange t2 t3 t4 s
  | .timesync src t1 => Sys2Proof.Machine.execTimesync src t1 s
  | .governorSample demand => Sys2Proof.Machine.execGovernorSample demand s
  | .monitorRead readings => Sys2Proof.Machine.execMonitorRead readings s
  | .marginReplan voff bin => Sys2Proof.Machine.execMarginReplan voff bin s
  | .clkbinChange => Sys2Proof.Machine.execClkbinChange s
  | .patrolScrub stack line err => Sys2Proof.Machine.execPatrolScrub stack line err s
  | .hotRowScrub stack row err => Sys2Proof.Machine.execHotRowScrub stack row err s
  | .scoreHalving => Sys2Proof.Machine.execScoreHalving s
  | .rowRetirement stack row => Sys2Proof.Machine.execRowRetirement stack row s
  | .fuseCounterAdvance value sig => Sys2Proof.Machine.execFuseCounterAdvance value sig s
  | .attestationReport nonce => Sys2Proof.Machine.execAttestationReport nonce s
  | .coldReset b => Sys2Proof.Machine.execColdReset b s
  | .coreFailureInService core => Sys2Proof.Machine.execCoreFailureInService core s
  | .atsInvalidation pasid page => Sys2Proof.Machine.execAtsInvalidation pasid page s
  | .pcieLinkTraining rate width => Sys2Proof.Machine.execPcieLinkTraining rate width s
  | .vfEnable n => Sys2Proof.Machine.execVfEnable n s
  | .sxlLinkTraining port peer => Sys2Proof.Machine.execSxlLinkTraining port peer s
  | .rowCopyComplete stack row => Sys2Proof.Machine.execRowCopyComplete stack row s

end Sys2Proof.Machine
end

