-- ==== Sys2Proof/Machine/Issue.lean ====
section
/-! DEFINITION. Issue: the clock, fetch and decode of the next instruction of a hart, and the choice among the harts of a core
(spec 05 R115 to R117; spec 06 R132; spec 10 R281, R282; spec 12 R306, R307; spec 02 R45, R46). -/

namespace Sys2Proof.Machine

/-! ## The clock (R45, R46) -/

/-- What `n` nanoseconds add to the timestamp, and the correction left: one nanosecond more or less in each 1,000, or every second
nanosecond not counted, the first of a pair having passed if `odd` (R46; log entry 17). -/
def slewStep (ts n : Nat) (slew : Int) (half odd : Bool) : Nat × Int :=
  if half then
    let lost := min ((n + if odd then 1 else 0) / 2) slew.natAbs
    (n - lost, slew + lost)
  else
    let k := min ((ts + n) / 1000 - ts / 1000) slew.natAbs
    if 0 < slew then (n + k, slew - k) else (n - k, slew + k)

namespace State

/-- What `n` passing ck carry with them: flits leave by the SXL ports, event records are written whose moment has passed, DBGIMG writes that
waited are performed, and harts that wait at a point lose lane groups (R3, R38, R114, R283). -/
def ticked (s : State) (n : Nat) : State :=
  let s := { s with fab := s.fab.pumpAll s.plat.rank }
  let s := s.cores.foldl (fun (s : State) (e : Nat × Core) => s.shrinkPass n e.1) s
  let s := s.blocks.foldl (fun (s : State) (e : Nat × Block) => if e.2.dbgReq.isSome then s.debugDue e.1 else s) s
  s.cp.queues.foldl (fun (s : State) (e : Nat × Queue) => if e.2.records.isEmpty then s else s.flushQueue e.1) s

/-- `dt` core clocks pass: one is 40 ÷ CLKBIN ns (R23, R45). -/
def elapse (s : State) (dt : Nat) : State :=
  let bin := max s.plat.clkbin.toNat 1
  let t := s.tsFrac + 40 * dt
  let (n, left) := slewStep s.ts (t / bin) s.slew s.halfRate s.slewOdd
  let s := { s with
    ck := s.ck + dt, ts := (s.ts + n) % 2 ^ 64, tsFrac := t % bin, slew := left, halfRate := s.halfRate && left != 0
    slewOdd := s.halfRate && left != 0 && (s.slewOdd != (t / bin % 2 == 1)) }
  if dt = 0 then s else s.ticked dt

/-! ## One hart -/

/-- The breakpoint register that matches an address (R282). -/
def bpHit (b : Block) (a : Word) : Option Nat :=
  if b.skipBp then none
  else (List.range 4).find? fun i => match b.ctl.bpc[i]? with
    | some r => r.getLsbD 0 && r >>> 3 == a >>> 3
    | none => false

/-- A breakpoint at the instruction that the hart is about to issue: it halts, or raises BREAK, with bit L of the word at the PC, 0 if that
cannot be fetched (R264, R282, R348). -/
def breakAt (s : State) (n : Nat) : State :=
  let r := (s.blk.ctl.bpc[n]?).getD 0
  if r.getLsbD 1 then s.haltHart s.cur 2
  else
    let brk := fun (s : State) (lit : Bool) => s.takeTrap { cause := .breakc, detail := 1 + n } lit
    if s.blk.rep.isSome then brk s false
    else
      match s.fetchWord s.blk.pc.toNat false with
      | .ok w s => brk s (wordL w)
      | .stop s' => if s'.blk.wait.isSome then s' else brk s false

/-- The G3 value of an opcode value in a generation. -/
def opcodeOf (gen op : Nat) : Option Nat :=
  if gen = 1 then (toG2fromG1 op).bind toG3fromG2 else if gen = 2 then toG3fromG2 op else some op

/-- Whether a word is a tile instruction: group 6 (R317). -/
def tileWord (gen : Nat) (w : Word) : Bool :=
  match opcodeOf gen (wordOp w).toNat with
  | some o => 0x120 ≤ o && o < 0x160
  | none => false

/-- The hart may run: placed, not halted, not behind a taken branch, no wait but for a condition tested at issue, no tile trap
to be taken first (R116, R279, R134). -/
def mayIssue (b : Block) : Bool :=
  b.placed && b.stop == 0 && !b.bubble && !b.ctl.haltstat.getLsbD 0 &&
    (match b.wait with
      | none | some .retry => true
      | _ => false) &&
    (match b.live.head? with
      | some t => t.fault.isNone
      | none => true)

end State

noncomputable section

/-- Decodes and runs the word at the PC of the hart in focus. -/
def State.runWord (s : State) (w next : Word) : Out :=
  let b := s.blk
  if !State.tileWord b.gen w && !b.pastFaults then .next (s.waitFor .retry)
  else
    match decodeInstr b.gen w next with
    | .ok i => exec i s
    | .error _ => .next (s.takeTrap { cause := .illop } (wordL w))

/-- Fetches the literal of a word with L = 1 and runs the word (R307). -/
def State.runFetched (s : State) (w : Word) : Out :=
  let b := s.blk
  if wordL w && (opcodeIn b.gen (wordOp w).toNat).isSome then
    match s.fetchWord (b.pc.toNat + 8) true with
    | .stop s' => if s'.blk.wait.isNone && !b.pastFaults then .next (s.waitFor .retry) else .next s'
    | .ok next s => s.runWord w next
  else s.runWord w 0

/-- The hart in focus issues the instruction at its PC, or the next repetition under REP: breakpoint, fetch, decode, meaning
(R266, R298, R307, R132). A trap before decode waits until every older tile instruction has passed its fault point. -/
def State.runHart (s : State) : Out :=
  let b := s.blk
  let s := s.updBlk fun b => { b with wait := none }
  match b.rep with
  | some _ =>
    match State.bpHit b (b.pc + 8) with
    | some n => .next (s.breakAt n)
    | none => exec .repRepetition s
  | none =>
    match State.bpHit b b.pc with
    | some n => if b.pastFaults then .next (s.breakAt n) else .next (s.waitFor .retry)
    | none =>
      match s.fetchWord b.pc.toNat false with
      | .stop s' => if s'.blk.wait.isNone && !b.pastFaults then .next (s.waitFor .retry) else .next s'
      | .ok w s => s.runFetched w

/-- What issue of one hart gives: its outcome, or a hart that was not eligible after all, with what it asked for meanwhile. -/
inductive IssueRes where
  | issued (o : Out)
  | held (s : State)

/-- One attempt of hart `h` to issue. -/
def State.tryIssue (s : State) (h : Nat) : IssueRes :=
  match (s.focus h).runHart with
  | .next s' =>
    match (s'.blkAt h).wait with
    | some .retry | some .walk => .held s'
    | _ => .issued (.next s')
  | o => .issued o

/-- The eligible harts of a core, and the state after those that are not have asked for what they wait for (R116). -/
def State.eligible (s : State) (c : Nat) : List Nat → State × List Nat
  | [] => (s, [])
  | k :: t =>
    let h := 8 * c + k
    if State.mayIssue (s.blkAt h) then
      match s.tryIssue h with
      | .held s' => eligible (s'.focus s.cur) c t
      | .issued _ => let r := eligible s c t; (r.1, h :: r.2)
    else eligible s c t

end

namespace State

/-- The hart that issues among the eligible ones (R117 steps 1 to 3). -/
def choose (s : State) (c : Nat) (e : List Nat) : Option Nat :=
  let k := s.core c
  let age := fun (h : Nat) => (s.blkAt h).age
  match minBy age (e.filter fun h => (s.blkAt h).waitCnt == 256) with
  | some h => some h
  | none =>
    if k.schedPol then
      match k.last with
      | some l => minBy (fun (h : Nat) => (h % 8 + 7 - l % 8) % 8) e
      | none => minBy (fun (h : Nat) => h % 8) e
    else
      match k.current with
      | some h => if e.contains h then some h else minBy age e
      | none => minBy age e

/-- Step 4 of R117: the issuing hart becomes current and last, the others wait. -/
def noteIssue (s : State) (c h : Nat) (e : List Nat) : State :=
  let s := s.updCore c fun k => { k with current := some h, last := some h }
  e.foldl (fun (s : State) x => s.updBlkAt x fun b => { b with waitCnt := if x = h then 0 else min (b.waitCnt + 1) 256 }) s

/-- The bubbles behind taken branches of a core end (R116). -/
def clearBubbles (s : State) (c : Nat) : State :=
  (List.range 8).foldl (fun (s : State) k => s.updBlkAt (8 * c + k) fun b => { b with bubble := false }) s

/-- A stepped hart halts again after its issue (R281). -/
def afterStep (s : State) (h : Nat) (stepping : Bool) : State :=
  if stepping && (s.blkAt h).placed && !(s.blkAt h).ctl.haltstat.getLsbD 0 then s.haltHart h 4 else s

end State

noncomputable section

/-- One ck of issue at a core (R117). -/
def State.issueCore (s : State) (c : Nat) : Out :=
  if (s.core c).failed then .next s else
  let (s, e) := s.eligible c [0, 1, 2, 3, 4, 5, 6, 7]
  let s := s.clearBubbles c
  match s.choose c e with
  | none => .next s
  | some h =>
    let s := s.noteIssue c h e
    let stepping := (s.blkAt h).ctl.haltstat.getLsbD 5
    match (s.focus h).runHart with
    | .next s => .next (s.afterStep h stepping)
    | o => o

end

end Sys2Proof.Machine
end

