-- ==== Sys2Proof/Machine/Place.lean ====
section
/-! DEFINITION. An instruction placed where the hart in focus fetches its next one. -/

namespace Sys2Proof.Machine

/-- An instruction-cache line of the block's context that holds two words at `va` and `va + 8`. -/
def wordLine (ctx va line : Nat) (w0 w1 : Nat) : ICLine :=
  let put := fun (a w : Nat) => if a / 64 = line then (w % 2 ^ 64) <<< (8 * (a % 64)) else 0
  { ctx := ctx, vline := line % 2 ^ 47, line := line % 2 ^ 47, data := BitVec.ofNat 512 (put va w0 + put (va + 8) w1) }

/-- The page of an address, executable. -/
def execPage (ctx va : Nat) : Xlat :=
  { ctx := ctx, page := va % 2 ^ 53 / 8192 * 8192, log2 := 13, pa := 0, fmt := 0, srgn := 0, d := false, s := false, x := true
    w := false, r := false }

/-- The block of a hart made ready to fetch at its PC: placed, of generation 3, not waiting, nothing in its tile sequencer. -/
def Block.ready (b : Block) : Block :=
  { b with
    placed := true, gen := 3, wait := none, rep := none, bubble := false, dying := false, stop := 0, skipBp := true, waitCnt := 256
    trecs := b.trecs.filter fun t => t.phase == .parked
    ctl := { b.ctl with haltstat := b.ctl.haltstat &&& ~~~(1 : Word) } }

/-- State with an instruction's words in the instruction cache at the PC of the hart in focus, its page in the TLB, and issue of
its core next. -/
def placeWords (s : State) (w0 w1 : Nat) : State :=
  let h := s.cur
  let c := coreOf h
  let va := (s.blkAt h).pc.toNat
  let ctx := (s.blkAt h).ctx
  let s := { s with blocks := s.blocks.map fun (e : Nat × Block) =>
    (e.1, if coreOf e.1 = c then { e.2 with waitCnt := 0 } else e.2) }
  let s := s.setBlkAt h (s.blkAt h).ready
  let s := s.updCore c fun k =>
    { k with
      icache := [wordLine ctx va (va / 64) w0 w1, wordLine ctx va ((va + 8) / 64) w0 w1] ++ k.icache
      tlb := [execPage ctx va, execPage ctx (va + 8)] ++ k.tlb }
  { s with schedule := { dt := 1, act := .issue c } :: s.schedule }

end Sys2Proof.Machine
end

