-- ==== Sys2Proof/Machine/Schedule.lean ====
section
/-! DEFINITION. What happens next when the schedule names nothing: the first event inside the device that changes it, then issue
at the next core with a hart that may issue, then an idle clock. The order is the model's (log entry 3). -/

namespace Sys2Proof.Machine

noncomputable section

/-- Events of one hart. -/
def hartEvents (h : Nat) : List Instr :=
  [.tileTrapTaken h, .tileRetire h, .tileAccept h, .copyTranslatePage h, .storePerformL1 h, .hostFlushReadComplete h, .twaitComplete h,
   .tsyncComplete h, .cinitAnswer h, .barrierWaiterResume h, .evwaitSatisfied h, .wfeWake h, .translateService h,
   .translationLockResume h, .preemptionStop h]

/-- Events of one engine queue. -/
def engineEvents (c : Nat) (q : EngineQ) : List Instr := [.microOpFinish c q, .microOpStart c q 0]

/-- Events of one core. -/
def coreEvents (c : Nat) : List Instr :=
  ([.responseArrival c, .l1FillArrival c, .gatherResult c, .cloveAckArrival c, .maceGrant c, .icacheDropRequest c, .icacheDropAck c,
   .lclaimGrant c] : List Instr) ++
    (([.copyIn, .copyOut, .matrix, .lane, .scan] : List EngineQ).flatMap (engineEvents c)) ++ (List.range 32).map fun b => Instr.bankSwitchFinish c b

/-- Events of one stack; `lines` are those that requests at it name. -/
def stackEvents (t : Nat) (lines : List Nat) : List Instr :=
  ([.homeAccess t, .maceLockRequest t, .maceRelease t, .cloveMarker t, .gatherRequest t, .gatherForwardGroup t, .l2cfgComplete t] : List Instr) ++
    lines.map fun l => Instr.sliceMissFill t l

/-- Events of one entry of the miss table. -/
def missEvents (n : Nat) : List Instr := [.dieCacheLookup n, .pageWalk n, .pageWalkComplete n]

/-- Events of one hardware queue. -/
def hwqEvents (k : Nat) : List Instr :=
  let c := k / 64
  let q := k % 64
  [.queueWaitPushServed c q, .queueWaitPopServed c q, .refillBatchStart c q, .refillBatchLand c q, .stageQueueClose c q]

/-- Events of one host queue. -/
def queueEvents (q : Nat) : List Instr :=
  [.launch q, .copy q, .fill q, .signalCommand q, .waitCommand q, .waitSatisfied q, .waitTimeout q, .queueFence q, .queueFenceSatisfied q,
   .loadCode q, .invalidateRange q, .invalidateIfetch q, .invalidateAll q, .contextCreate q, .contextModify q, .contextDestroy q,
   .commandComplete q]

/-- Events of one launch. -/
def launchEvents (l : Nat) : List Instr := [.gangPlacement l, .preemptionStarvation l, .launchComplete l]

/-- The lines that requests waiting at homes name. -/
def wantedLines (s : State) (t : Nat) : List Nat :=
  s.ms.inbox.filterMap fun m => match m with
    | (.stack x, .req r) => if x == t then some (lineOf (homeAddr r.pa)) else none
    | _ => none

/-- The event that serves a message which a flit brought (R39, R44, R46). -/
def messageEvent (x : SxlIn) : Instr :=
  let m := x.msg
  match m.body with
  | .write _ _ _ => .sxlWrite m
  | .read _ _ => .sxlRead m
  | .atomic _ _ _ _ _ => .sxlAtomic m
  | .signal _ _ _ => .sxlSignal m
  | .clove => .sxlClove m
  | .resp _ _ _ => .sxlResp m
  | .ack _ => .sxlAck m
  | .stagger d => .stagger x.port (State.staggerOf d)
  | .timeAsk t1 => .timesync m.src t1
  | .timeTell t1 t2 t3 => .timesyncExchange t1 t2 t3

/-- The events inside the device that may happen now. -/
def State.candidates (s : State) : List Instr :=
  let harts := s.blocks.map (·.1)
  let cores := ((harts.map coreOf) ++ s.ms.inbox.filterMap fun m => match m.1 with
    | .core c => some c
    | _ => none).eraseDups
  let sts := (s.ms.inbox.filterMap fun m => match m.1 with
    | .stack t => some t
    | _ => none).eraseDups
  harts.flatMap hartEvents ++ cores.flatMap coreEvents ++ sts.flatMap (fun t => stackEvents t (wantedLines s t)) ++
    (s.plat.scrTarget.map fun e => Instr.l2cfgComplete e.1) ++
    (s.ms.packets.map fun p => Instr.meshPacketForward p.die p.col p.row (routeOut p.die p.col p.row p.dst)) ++
    (List.range s.ms.misses.length).flatMap missEvents ++
    s.streams.flatMap (fun x => [Instr.streamHeaderArrival x.id, Instr.streamGroupArrival x.id]) ++
    (List.range s.carries.length).map Instr.saffronCarryArrival ++ (List.range s.completions.length).map Instr.saffronCompletionArrival ++
    (List.range s.barMsgs.length).map Instr.barrierArrival ++ (List.range s.pushes.length).map Instr.queuePushAccept ++
    (s.queues.map (·.1)).flatMap hwqEvents ++ (List.range s.cp.children.length).map Instr.forkChildPlace ++
    (List.range s.cp.resumes.length).map Instr.parentResume ++ (s.cp.invals.map fun x => Instr.invalidationComplete x.id) ++
    (s.cp.extensions.map fun x => Instr.measurementExtend x.id) ++ (s.cp.queues.map (·.1)).flatMap queueEvents ++ [Instr.commandConsume] ++
    (s.cp.launches.map (·.id)).flatMap launchEvents ++ (List.range s.cp.saved.length).map Instr.gangRestore ++
    (List.range 20).flatMap (fun c => [Instr.backpressureEvaluation c, Instr.clusterRelease c]) ++
    (s.plat.rows.map fun r => Instr.rowCopyComplete r.stack r.row) ++ (s.fab.ports.map fun p => Instr.linkDown p.1) ++
    s.fab.inbox.map messageEvent ++ [Instr.staggerRelease, Instr.timesyncExchange 0 0 0]

/-- The state after the first event that changes something. -/
def State.nextEvent (s : State) : Option State :=
  s.candidates.findSome? fun i => match exec i s with
    | .next s' => if s' = s then none else some s'
    | _ => none

end

/-- The core that issues when the schedule names none: the first after the core in focus with a hart that may issue, now or once the
bubble behind its branch has passed (R116). -/
def State.issueNext (s : State) : Option Nat :=
  let cores := ((s.blocks.filter fun (e : Nat × Block) => State.mayIssue { e.2 with bubble := false } && !(s.core (coreOf e.1)).failed).map fun e => coreOf e.1).eraseDups
  minBy (fun c => (c + 319 - coreOf s.cur) % 160) cores

end Sys2Proof.Machine
end

