-- ==== Sys2Proof/Machine/Step.lean ====
section
/-! DEFINITION. One step of the device: what its schedule names, else what the default order lets happen. -/

namespace Sys2Proof.Machine

/-- `s` with an instruction stored where the hart in focus fetches its next one, to be run by the next step. `w` numbers its
bits from the first word; the bits above `nbits` are 0. It stands for the loading of a program (log entry 18). -/
def State.withFetchWord (s : State) (nbits w : Nat) : State :=
  placeWords s (w % 2 ^ nbits % 2 ^ 64) (w % 2 ^ nbits / 2 ^ 64 % 2 ^ 64)

noncomputable section

/-- One step. -/
def step (s : State) : Host.Outcome State Fault Refusal :=
  match s.schedule with
  | m :: t =>
    match m.act with
    | .event i => exec i ({ s with schedule := t }.elapse m.dt)
    | .flaw f => .next (({ s with schedule := t }.elapse m.dt).strike f)
    | .issue c => ({ s with schedule := t }.elapse m.dt).issueCore c
  | [] =>
    match s.nextEvent with
    | some s' => .next s'
    | none =>
      match s.issueNext with
      | some c => (s.elapse 1).issueCore c
      | none => if s.plat.bootState = 0xF then .fault .deviceFailed else .next (s.elapse 1)

end

end Sys2Proof.Machine
end

