-- ==== Sys2Proof/Safety.lean ====
section
/-! DEFINITION. Safe runs, and the conditions and next states in the terms that claims use. -/

namespace Sys2Proof

/-- A step that neither faults nor is refused. -/
def safeStep (s : Machine.State) : Prop := ∃ t, Machine.step s = .next t

/-- A run of `n` steps that neither faults nor is refused. -/
def safeRun (s : Machine.State) (n : Nat) : Prop := ∃ t, core.run n s = .next t

namespace Machine

/-- The instruction at the PC of the hart in focus has a true guard and is no repetition; no X register it names is bound to a
data queue, waits for a value, or holds a parity error (R297, R298, R287, R116, R58). -/
structure Runs (s : State) (gm : BitVec 4) (xs : List (BitVec 6)) : Prop where
  guard : s.blk.guard gm = true
  noRep : s.blk.rep = none
  unbound : ∀ r ∈ xs, s.blk.boundTo r = none
  ready : ∀ r ∈ xs, s.xPending r = false
  sound : ∀ r ∈ xs, s.blk.flawX.getLsbD r.toNat = false

/-- A block whose instruction has begun: it pops no data queue, and whether it has a literal is noted (R287). -/
def Block.opened (lit : Option Word) (b : Block) : Block := { b with pops := [], pcLit := lit.isSome }

/-- The state in which the instruction of the block in focus has begun. -/
def State.opened (s : State) (lit : Option Word) : State := s.setBlk (s.blk.opened lit)

/-- A block whose instruction at the PC completed: the PC passes it and its literal, ESTART is 0, nothing is left over (R296, R269). -/
def Block.moved (lit : Option Word) (b : Block) : Block :=
  { b with
    pc := b.pc + (if lit.isSome then 16 else 8), estart := 0, sentTo := 0, words := [], xbuf := [], wait := none, rel := .none
    pops := [], pcLit := lit.isSome, skipWatch := [], skipBp := false }

/-- The state in which only the block in focus has changed: by `f`, and by its PC passing the instruction. -/
def State.after (s : State) (lit : Option Word) (f : Block → Block) : State := s.setBlk ((f s.blk).moved lit)

/-- The state after a taken transfer to `target`; `f` writes the link or the counter. -/
def State.jumped (s : State) (lit : Option Word) (target : Word) (f : Block → Block) : State :=
  s.setBlk { (f s.blk).moved lit with pc := target, bubble := true }

/-- The second operand of formats A and A.f: X[b] + sext(imm), or + literal (R310). -/
def opA (b : Block) (f : FmtA) : Word := b.getX f.b + f.lit.getD (f.imm.signExtend 64)
def opF (b : Block) (f : FmtF) : Word := b.getX f.b + f.lit.getD (f.imm.signExtend 64)

/-- The low 32 bits, sign-extended (R328). -/
def low32 (v : Word) : Word := (v.setWidth 32).signExtend 64

end Machine

end Sys2Proof
end

