-- ==== Sys2Proof/Certificates/Slice0/Obligations.lean ====
section
/-! DEFINITION. The statements for the provers: what the numbered rules say the machine does. A statement gives the next state as
an equation where the rules give it whole, so that it says the frame too. -/

open Sys2Proof Sys2Proof.Machine Host


/-! ## Group 1 -/

/-- Instructions of format A with a value of two operands. -/
abbrev Sys2Proof.Machine.BinTable := List ((FmtA → Instr) × (Word → Word → Word))

/-- The value of each two-operand format A instruction of group 1, from X[a] and y (R328, R329, R247). -/
def Sys2Proof.Machine.scalarTable : BinTable :=
  ([(.add false, fun a y => a + y), (.sub false, fun a y => a - y), (.mul false, fun a y => a * y),
   (.add true, fun a y => low32 (a + y)), (.sub true, fun a y => low32 (a - y)), (.mul true, fun a y => low32 (a * y)),
   (.mulh, fun a y => (a.signExtend 128 * y.signExtend 128).extractLsb' 64 64),
   (.mulhn, fun a y => (a.setWidth 128 * y.setWidth 128).extractLsb' 64 64),
   (.div, fun a y => if y = 0 then BitVec.allOnes 64 else a.sdiv y),
   (.divn, fun a y => if y = 0 then BitVec.allOnes 64 else a.udiv y),
   (.rem, fun a y => if y = 0 then a else a.srem y), (.remn, fun a y => if y = 0 then a else a.umod y)] : BinTable) ++
  ([(.and, fun a y => a &&& y), (.or, fun a y => a ||| y), (.xor, fun a y => a ^^^ y), (.andn, fun a y => a &&& ~~~y),
   (.orn, fun a y => a ||| ~~~y),
   (.shl false, fun a y => a <<< (y.toNat % 64)), (.shr false, fun a y => a >>> (y.toNat % 64)),
   (.sar false, fun a y => a.sshiftRight (y.toNat % 64)),
   (.shl true, fun a y => (a.setWidth 32 <<< (y.toNat % 32)).signExtend 64),
   (.shr true, fun a y => (a.setWidth 32 >>> (y.toNat % 32)).signExtend 64),
   (.sar true, fun a y => ((a.setWidth 32).sshiftRight (y.toNat % 32)).signExtend 64),
   (.rol, fun a y => a.rotateLeft (y.toNat % 64)), (.ror, fun a y => a.rotateRight (y.toNat % 64))] : BinTable) ++
  ([(.min, fun a y => if a.toInt ≤ y.toInt then a else y), (.max, fun a y => if a.toInt ≤ y.toInt then y else a),
   (.minn, fun a y => if a.toNat ≤ y.toNat then a else y), (.maxn, fun a y => if a.toNat ≤ y.toNat then y else a),
   (.sext, fun a y => let n := y.toNat % 128
      if n = 0 ∨ 64 ≤ n then a else (a.setWidth n).signExtend 64),
   (.zext, fun a y => let n := y.toNat % 128
      if n = 0 ∨ 64 ≤ n then a else (a.setWidth n).setWidth 64),
   (.bfx, fun a y => ((a >>> (y.toNat % 64)).setWidth (y.toNat / 64 % 64 + 1)).signExtend 64),
   (.bfxn, fun a y => ((a >>> (y.toNat % 64)).setWidth (y.toNat / 64 % 64 + 1)).setWidth 64)] : BinTable)

/-- R328, R329: every format A instruction of group 1 with two operands completes: X[d] receives the value of its row, computed
from the values before the write; nothing else of the machine changes but the PC. -/
def Obligations.ScalarBinary : Prop :=
  ∀ p ∈ scalarTable, ∀ (f : FmtA) (s : State), Runs s f.gm [f.a, f.b, f.d] →
    exec (p.1 f) s = Outcome.next (s.after f.lit fun b => b.setX f.d (p.2 (b.getX f.a) (opA b f)))

/-- The value of each unary format A instruction of group 1, from y; the counts by what they mean (R328). -/
def Sys2Proof.Machine.unaryTable : List ((FmtA → Instr) × (Word → Word)) :=
  [(.mov, fun y => y), (.abs, fun y => if y.toInt < 0 then -y else y), (.brev, fun y => y.reverse),
   (.popc, fun y => BitVec.ofNat 64 ((List.range 64).countP fun i => y.getLsbD i)),
   (.clz, fun y => BitVec.ofNat 64 (((List.range 64).find? fun i => y.getMsbD i).getD 64)),
   (.ctz, fun y => BitVec.ofNat 64 (((List.range 64).find? fun i => y.getLsbD i).getD 64)),
   (.bswap, fun y => (List.range 8).foldl (fun v i => v ||| (y >>> (8 * i) &&& 0xFF) <<< (8 * (7 - i))) 0)]

/-- R328: the unary format A instructions complete with the value of their row; nothing else changes but the PC. -/
def Obligations.ScalarUnary : Prop :=
  ∀ p ∈ unaryTable, ∀ (f : FmtA) (s : State), Runs s f.gm [f.b, f.d] →
    exec (p.1 f) s = Outcome.next (s.after f.lit fun b => b.setX f.d (p.2 (opA b f)))

/-- R329, R330, R332: BFI, LEA, SEL and PLOG complete with the values of their rules. -/
def Obligations.ScalarOther : Prop :=
  (∀ (f : FmtA) (s : State), Runs s f.gm [f.a, f.b, f.d] →
    exec (.bfi f) s = Outcome.next (s.after f.lit fun b =>
      let y := opA b f
      let m : Word := (BitVec.allOnes 64 >>> (63 - y.toNat / 64 % 64)) <<< (y.toNat % 64)
      b.setX f.d ((b.getX f.d &&& ~~~m) ||| ((b.getX f.a <<< (y.toNat % 64)) &&& m)))) ∧
  (∀ (f : FmtF) (s : State), Runs s f.gm [f.a, f.b, f.d] →
    exec (.lea f) s = Outcome.next (s.after f.lit fun b =>
      b.setX f.d (b.getX f.a + b.getX f.b <<< f.fn.toNat + f.lit.getD (f.imm.signExtend 64))) ∧
    exec (.sel f) s = Outcome.next (s.after f.lit fun b =>
      b.setX f.d (if b.getP (f.fn.toNat % 8) ≠ f.fn.getLsbD 3 then b.getX f.a else opF b f))) ∧
  (∀ (f : FmtF) (s : State), Runs s f.gm [] →
    exec (.plog f) s = Outcome.next (s.after f.lit fun b =>
      b.setP f.d.toNat (f.fn.getLsbD (2 * (b.getP f.a.toNat).toNat + (b.getP f.b.toNat).toNat))))

/-- R331: SETP and SETX complete with the condition of their code on X[a] and y: P[d] takes it, P7 not; X[d] takes 1 or 0. A word of
theirs with a code of 12 to 15, or a SETP with d of 8 or more, raises ILLOP. -/
def Obligations.Comparisons : Prop :=
  (∀ (f : FmtF) (s : State),
    (Runs s f.gm [f.a, f.b] → exec (.setp f) s = Outcome.next (s.after f.lit fun b =>
      if f.d = 7 then b else b.setP f.d.toNat (Sys2Proof.Machine.cond f.fn.toNat (b.getX f.a) (opF b f)))) ∧
    (Runs s f.gm [f.a, f.b, f.d] → exec (.setx f) s = Outcome.next (s.after f.lit fun b =>
      b.setX f.d (if Sys2Proof.Machine.cond f.fn.toNat (b.getX f.a) (opF b f) then 1 else 0)))) ∧
  (∀ a y : Word, Sys2Proof.Machine.cond 0 a y = decide (a = y) ∧ Sys2Proof.Machine.cond 1 a y = decide (a ≠ y) ∧ Sys2Proof.Machine.cond 2 a y = decide (a.toInt < y.toInt) ∧
    Sys2Proof.Machine.cond 3 a y = decide (a.toInt ≤ y.toInt) ∧ Sys2Proof.Machine.cond 4 a y = decide (a.toInt > y.toInt) ∧ Sys2Proof.Machine.cond 5 a y = decide (a.toInt ≥ y.toInt) ∧
    Sys2Proof.Machine.cond 6 a y = decide (a.toNat < y.toNat) ∧ Sys2Proof.Machine.cond 7 a y = decide (a.toNat ≤ y.toNat) ∧ Sys2Proof.Machine.cond 8 a y = decide (a.toNat > y.toNat) ∧
    Sys2Proof.Machine.cond 9 a y = decide (a.toNat ≥ y.toNat) ∧ Sys2Proof.Machine.cond 10 a y = decide (a &&& y ≠ 0) ∧ Sys2Proof.Machine.cond 11 a y = decide (a &&& y = 0)) ∧
  (∀ (w next : Word) (s : State), s.blk.pastFaults = true →
    wordOp w = 0x022 ∧ (12 ≤ w.toNat / 2 ^ 28 % 16 ∨ 8 ≤ w.toNat / 2 ^ 44 % 64) ∨ wordOp w = 0x023 ∧ 12 ≤ w.toNat / 2 ^ 28 % 16 →
    s.runWord w next = Outcome.next (s.takeTrap { cause := .illop } (wordL w)))

/-- R247: an integer division by zero completes: every bit of the quotient is set, and the remainder is the dividend; −2^63 by −1
gives −2^63 with remainder 0. -/
def Obligations.IntegerDivision : Prop :=
  ∀ (f : FmtA) (s : State), Runs s f.gm [f.a, f.b, f.d] →
    (opA s.blk f = 0 →
      (∀ p ∈ ([.div, .divn] : List (FmtA → Instr)), exec (p f) s = Outcome.next (s.after f.lit fun b => b.setX f.d (BitVec.allOnes 64))) ∧
      (∀ p ∈ ([.rem, .remn] : List (FmtA → Instr)), exec (p f) s = Outcome.next (s.after f.lit fun b => b.setX f.d (b.getX f.a)))) ∧
    (s.blk.getX f.a = BitVec.intMin 64 → opA s.blk f = BitVec.allOnes 64 →
      exec (.div f) s = Outcome.next (s.after f.lit fun b => b.setX f.d (BitVec.intMin 64)) ∧
      exec (.rem f) s = Outcome.next (s.after f.lit fun b => b.setX f.d 0))

/-- R58, R286, R287: X0 reads 0 and ignores writes, P7 reads 1 and ignores writes; any other register holds what was written, and a write
leaves every other register alone. A bound register as a source gives the oldest entry of its data queue, which is popped once however
often it is named; as a destination it takes the result as the newest entry, after the pop. With no entry to give, the hart waits. A
register, or an oldest entry of a data queue, that holds a detected error raises UNCORR at an instruction that reads it; a write of the
register ends that.
Where the rules leave a point to the model, it follows log entry 76. -/
def Obligations.Registers : Prop :=
  (∀ b : Block,
     (∀ v, b.getX 0 = 0 ∧ b.setX 0 v = b) ∧
     (∀ v, b.getP 7 = true ∧ b.setP 7 v = b) ∧
     (∀ (r q : BitVec 6) v, (r ≠ 0 → (b.setX r v).getX r = v) ∧ (r ≠ q → (b.setX r v).getX q = b.getX q)) ∧
     (∀ n m v, n < 7 → (b.setP n v).getP n = v ∧ (n ≠ m → (b.setP n v).getP m = b.getP m)) ∧
     (∀ (r q : BitVec 5) v, (b.setV r v).getV r = v ∧ (r ≠ q → (b.setV r v).getV q = b.getV q)) ∧
     (∀ n m v, n < 12 → (b.setM n v).getM n = v ∧ (n ≠ m → (b.setM n v).getM m = b.getM m)) ∧
     (∀ n m v, n < 32 → (b.setD n v).getD n = v ∧ (n ≠ m → (b.setD n v).getD m = b.getD m))) ∧
  (∀ (f : FmtA) (s : State) (q : Nat) (e : Word) (t : List Word), s.blk.guard f.gm = true → s.blk.rep = none →
     s.blk.boundTo f.a = some q → f.b = f.a → s.xPending f.d = false → (f.d ≠ f.a → s.blk.boundTo f.d = none) →
     ((s.dataq q).entries = e :: t → t.length + s.pushesDue f.d < 1024 → (s.dataq q).bad.getD 0 false = false →
       exec (.add false f) s = Outcome.next (
         if f.d = f.a then
           (s.setDataq q { s.dataq q with entries := t ++ [e + (e + f.lit.getD (f.imm.signExtend 64))], bad := (s.dataq q).bad.tail }).after f.lit id
         else
           (s.setDataq q { s.dataq q with entries := t, bad := (s.dataq q).bad.tail }).after f.lit fun b =>
             b.setX f.d (e + (e + f.lit.getD (f.imm.signExtend 64))))) ∧
     ((s.dataq q).entries = e :: t → t.length + s.pushesDue f.d < 1024 → (s.dataq q).bad.getD 0 false = true →
       exec (.add false f) s = Outcome.next (s.takeTrap { cause := .uncorr } f.lit.isSome)) ∧
     ((s.dataq q).entries = [] → ∃ u, exec (.add false f) s = Outcome.next u ∧ u.blk.wait = some .retry ∧ u.blk.pc = s.blk.pc ∧
       (∀ r, u.blk.getX r = s.blk.getX r) ∧ ∀ n, u.dataq n = s.dataq n)) ∧
  (∀ (b : Block) (r q : BitVec 6) v, (r ≠ 0 → (b.setX r v).flawX.getLsbD r.toNat = false) ∧
     (r ≠ q → (b.setX r v).flawX.getLsbD q.toNat = b.flawX.getLsbD q.toNat)) ∧
  (∀ p ∈ scalarTable, ∀ (f : FmtA) (s : State), s.blk.guard f.gm = true →
     (∀ r ∈ [f.a, f.b, f.d], s.blk.boundTo r = none ∧ s.xPending r = false) →
     s.blk.flawX.getLsbD f.a.toNat = true ∨ s.blk.flawX.getLsbD f.b.toNat = true →
     exec (p.1 f) s = Outcome.next (s.takeTrap { cause := .uncorr } f.lit.isSome))

/-! ## Guards, repetition, scalar floating point, control -/

/-- The instructions of each guarded format; LEND, which traps under any guard, is not among them (R297, R350). -/
noncomputable def Sys2Proof.Machine.guardedA : List (FmtA → Instr) :=
  scalarTable.map (·.1) ++ unaryTable.map (·.1) ++
  ([.bfi, .jmp, .callr, .ret, .callt, .brx, .yield, .nop, .exit, .trap, .brk, .wfe, .lclaim, .lrelease] : List (FmtA → Instr))
noncomputable def Sys2Proof.Machine.guardedF : List (FmtF → Instr) :=
  ([.lea, .sel, .setp, .setx, .plog, .fcvt, .fclass] : List (FmtF → Instr)) ++ [true, false].flatMap fun dbl =>
    ([.fadd dbl, .fsub dbl, .fmul dbl, .fmac dbl, .fdiv dbl, .fsqrt dbl, .fmin dbl, .fmax dbl, .fsgn dbl, .fsetp dbl,
      .frnd dbl] : List (FmtF → Instr))
noncomputable def Sys2Proof.Machine.guardedM : List (FmtM → Instr) :=
  ([.lds8, .lds16, .lds32, .ldz8, .ldz16, .ldz32, .ld64, .st8, .st16, .st32, .st64, .amofadd, .fenceAcq, .fenceRel, .fenceAr,
    .qfence, .cwb, .cinv, .cflush, .pref, .stpatch, .ifence] : List (FmtM → Instr)) ++ [true, false].flatMap fun dbl =>
    ([.lda dbl, .stl dbl, .amoadd dbl, .amoand dbl, .amoor dbl, .amoxor dbl, .amomin dbl, .amomax dbl, .amominn dbl, .amomaxn dbl,
      .amoswp dbl, .amocas dbl] : List (FmtM → Instr))
noncomputable def Sys2Proof.Machine.guardedT : List (FmtT → Instr) :=
  ([.tshapeLo, .tshapeHi, .tdecl, .tfree, .tview, .twait, .twaitAll, .tstat, .tsync, .tmma, .tmmas, .tmmaq, .topa, .tzero,
    .taccl, .text, .textv, .tmap, .tew, .tred, .tfill] : List (FmtT → Instr)) ++
  ([.ttrn, .tcvt, .tscale, .trand, .tplane, .tplaneRw, .tpacksMeta, .tpacksSel, .trowv, .tvrow, .tsend, .trecv, .tchain,
    .tmcast, .tscan, .tscanc, .cpass, .cbar, .cinit] : List (FmtT → Instr))
noncomputable def Sys2Proof.Machine.guardedC : List (FmtC → Instr) := [.tld, .tst, .tprobe, .tunpin, .tlda, .tsta, .tgath, .tscat]
noncomputable def Sys2Proof.Machine.guardedQ : List (FmtQ → Instr) :=
  [.barinit, .bararr, .barwait, .barsync, .bartest, .elect, .gsync, .qbind, .qbindUnbind, .qpush, .qpop, .qtry, .qtake, .qcnt,
   .spawn, .strip, .sync, .taskend, .stgput, .stgget, .evsig, .evwait, .signal, .signalAdd, .time]
noncomputable def Sys2Proof.Machine.guardedY : List (FmtY → Instr) :=
  [.fork, .getc, .setc, .eret, .bankcfg, .l2cfg, .tlbinvRange, .tlbinvAll, .ctxsave, .ctxload, .halt, .suspend, .resumeb,
   .trace, .probev, .nbrd, .scrub, .measure]

/-- R297: an instruction whose guard is false only moves on past itself and its literal, whatever its registers, the queues and
the memory hold; outside a repetition and with nothing to pop, that changes nothing but the PC and what goes with it. The guard 0b0111
is always true, 0b1111 never; else bits 2..0 name a predicate that bit 3 negates. -/
def Obligations.Guards : Prop :=
  ((∀ p ∈ guardedA, ∀ (f : FmtA) (s : State), s.blk.guard f.gm = false → exec (p f) s = Outcome.next (s.advance f.lit)) ∧
   (∀ p ∈ guardedF, ∀ (f : FmtF) (s : State), s.blk.guard f.gm = false → exec (p f) s = Outcome.next (s.advance f.lit)) ∧
   (∀ p ∈ ([.br, .call, .loop] : List (FmtB → Instr)), ∀ (f : FmtB) (s : State), s.blk.guard f.gm = false →
     exec (p f) s = Outcome.next (s.advance none)) ∧
   (∀ (f : FmtA) (s : State), s.blk.guard f.gm = false → exec (.rep f) s = Outcome.next (s.advance none)) ∧
   (∀ p ∈ guardedM, ∀ (f : FmtM) (s : State), s.blk.guard f.gm = false → exec (p f) s = Outcome.next (s.advance f.lit)) ∧
   (∀ p ∈ guardedT, ∀ (f : FmtT) (s : State), s.blk.guard f.gm = false → exec (p f) s = Outcome.next (s.advance f.lit)) ∧
   (∀ p ∈ guardedC, ∀ (f : FmtC) (s : State), s.blk.guard f.gm = false → exec (p f) s = Outcome.next (s.advance f.lit)) ∧
   (∀ p ∈ guardedQ, ∀ (f : FmtQ) (s : State), s.blk.guard f.gm = false → exec (p f) s = Outcome.next (s.advance f.lit)) ∧
   (∀ p ∈ guardedY, ∀ (f : FmtY) (s : State), s.blk.guard f.gm = false → exec (p f) s = Outcome.next (s.advance f.lit)) ∧
   (∀ (lit : Option Word) (s : State), s.blk.rep = none → s.blk.pops = [] →
     s.advance lit = s.setBlk { s.blk.moved lit with pcLit := s.blk.pcLit })) ∧
  (∀ b : Block, b.guard 7 = true ∧ b.guard 15 = false ∧
     ∀ n : BitVec 3, b.guard (0#1 ++ n) = b.getP n.toNat ∧ b.guard (1#1 ++ n) = !b.getP n.toNat)

/-- The result and flags of each format A.f float instruction that writes X[d], from the block and its fields (R333 to R338). -/
def Sys2Proof.Machine.floatTable : List ((FmtF → Instr) × (Block → FmtF → FRes)) :=
  [true, false].flatMap fun dbl =>
    let ff := scalarFmt dbl
    let a := fun (b : Block) (f : FmtF) => scalarVal b dbl (b.getX f.a)
    let y := fun (b : Block) (f : FmtF) => scalarVal b dbl (opF b f)
    let r := fun (b : Block) (f : FmtF) => scalarRnd b f.fn.toNat
    [(.fadd dbl, fun b f => ff.addV (r b f) (a b f) (y b f)), (.fsub dbl, fun b f => ff.addV (r b f) (a b f) (y b f).neg),
     (.fmul dbl, fun b f => ff.mulV (r b f) (a b f) (y b f)), (.fdiv dbl, fun b f => ff.divV (r b f) (a b f) (y b f)),
     (.fmac dbl, fun b f => ff.fmaV (r b f) (a b f) (y b f) (scalarVal b dbl (b.getX f.d))),
     (.fsqrt dbl, fun b f => ff.sqrtV (r b f) (y b f)),
     (.fmin dbl, fun b f => ff.minMax (fzi b.ctl.fctl) false (scalarBits dbl (b.getX f.a)) (scalarBits dbl (opF b f))),
     (.fmax dbl, fun b f => ff.minMax (fzi b.ctl.fctl) true (scalarBits dbl (b.getX f.a)) (scalarBits dbl (opF b f))),
     (.fsgn dbl, fun b f => fsgnRes dbl f.fn.toNat (b.getX f.a) (opF b f)),
     (.frnd dbl, fun b f => frndRes ff (r b f) (y b f) (scalarBits dbl (opF b f)))]

/-- R333 to R339: a scalar float instruction none of whose flags is enabled completes: it writes its rounded result and ORs its
flags into FCTL; nothing else changes but the PC. FCLASS sets no flag. -/
def Obligations.ScalarFloat : Prop :=
  (∀ p ∈ floatTable, ∀ (f : FmtF) (s : State), Runs s f.gm [f.a, f.b, f.d] → enabledFlags s.blk.ctl.fctl (p.2 s.blk f).2 = 0 →
    exec (p.1 f) s = Outcome.next (s.after f.lit fun b =>
      ({ b with ctl := { b.ctl with fctl := orFlags b.ctl.fctl (p.2 b f).2 } }).setX f.d (BitVec.ofNat 64 (p.2 b f).1))) ∧
  (∀ (dbl : Bool) (f : FmtF) (s : State), Runs s f.gm [f.a, f.b] →
    let c := fun (b : Block) => fcond f.fn.toNat (scalarVal b dbl (b.getX f.a)) (scalarVal b dbl (opF b f))
    enabledFlags s.blk.ctl.fctl (c s.blk).2 = 0 →
    exec (.fsetp dbl f) s = Outcome.next (s.after f.lit fun b =>
      ({ b with ctl := { b.ctl with fctl := orFlags b.ctl.fctl (c b).2 } }).setP f.d.toNat (c b).1)) ∧
  (∀ (f : FmtF) (s : State), Runs s f.gm [f.b, f.d] →
    let r := fun (b : Block) => fcvtRes (f.a.toNat / 8) (f.a.toNat % 8) (fzi b.ctl.fctl) (scalarRnd b f.fn.toNat) (opF b f)
    enabledFlags s.blk.ctl.fctl (r s.blk).2 = 0 →
    exec (.fcvt f) s = Outcome.next (s.after f.lit fun b =>
      ({ b with ctl := { b.ctl with fctl := orFlags b.ctl.fctl (r b).2 } }).setX f.d (r b).1)) ∧
  (∀ (f : FmtF) (s : State), Runs s f.gm [f.b, f.d] →
    exec (.fclass f) s = Outcome.next (s.after f.lit fun b =>
      b.setX f.d (BitVec.ofNat 64 ((scalarFmt (f.fn == 1)).classify (scalarBits (f.fn == 1) (opF b f))))))

/-- R346, R348 to R350, R117: NOP only moves on; YIELD under GTO makes its hart the youngest of its core and leaves no hart
current; WFE with its latch set clears it and completes, else it waits, until a deadline when y is not 0, and a wake ends the wait;
TRAP raises SOFTTRAP with the low 32 bits of y; BRK halts with REASON 6 under BRKH, else raises BREAK; LEND raises ILLOP.
Where the rules leave a point to the model, it follows log entries 40, 41 and 74. -/
def Obligations.WaitsAndTraps : Prop :=
  (∀ (f : FmtA) (s : State), Runs s f.gm [] →
    exec (.nop f) s = Outcome.next (s.after f.lit id) ∧
    (let c := s.core s.myCore
     exec (.yield f) s = Outcome.next (if c.schedPol then s.after f.lit id
       else (s.setCore s.myCore { c with nextAge := c.nextAge + 1, current := none }).after f.lit fun b => { b with age := c.nextAge })) ∧
    (s.blk.ctl.brkh = false → exec (.brk f) s = Outcome.next ((s.opened f.lit).takeTrap { cause := .breakc } f.lit.isSome)) ∧
    (s.blk.ctl.brkh = true → ∃ t, exec (.brk f) s = Outcome.next t ∧ t.blk.ctl.haltstat = haltedStat s.blk.ctl.haltstat 6 ∧
      t.blk.x = s.blk.x ∧ t.blk.pc = s.blk.pc + (if f.lit.isSome then 16 else 8))) ∧
  (∀ (f : FmtA) (s : State), Runs s f.gm [f.b] →
    exec (.trap f) s = Outcome.next ((s.opened f.lit).takeTrap
      { cause := .softtrap, detail := (opA s.blk f).toNat % 2 ^ 32 } f.lit.isSome) ∧
    (s.blk.wake = true → exec (.wfe f) s = Outcome.next (s.after f.lit fun b => { b with wake := false })) ∧
    (s.blk.wake = false → ∃ t, exec (.wfe f) s = Outcome.next t ∧ t.blk.pc = s.blk.pc ∧
      t.blk.wait = some (.wfe (if opA s.blk f = 0 then none else some (s.ck + (opA s.blk f).toNat))))) ∧
  (∀ (f : FmtA) (s : State), exec (.lend f) s = Outcome.next (s.takeTrap { cause := .illop } f.lit.isSome)) ∧
  (∀ (h : Nat) (s : State) (d : Option Nat), (s.blkAt h).wait = some (.wfe d) → (s.blkAt h).rep = none → (s.blkAt h).pops = [] →
    ((s.blkAt h).wake = true ∨ ∃ k, d = some k ∧ k ≤ s.ck) →
    exec (.wfeWake h) s = Outcome.next (s.setBlkAt h
      { (s.blkAt h).moved (if (s.blkAt h).pcLit then some 0 else none) with wake := false }))

/-- R298: REP with its words fetched takes the count: with X[a] = 0 the pair is passed; otherwise the first repetition is next.
A repetition does what the repeated instruction does and counts X[a] down; the PC stays at the REP until the count is 0.
Where the rules leave a point to the model, it follows log entry 16. -/
def Obligations.Repetition : Prop :=
  (∀ (f : FmtA) (s u : State) (w : Word) (i : Instr), Runs s f.gm [] → s.fetchWord (s.blk.pc.toNat + 8) false = FetchRes.ok w u →
    wordL w = false → repInstr u.blk.gen w 0 = some i → repDest i ≠ some f.a → u.blk.boundTo f.a = none → u.xPending f.a = false →
    u.blk.flawX.getLsbD f.a.toNat = false → u.blk.rep = none → u.blk.pops = [] →
    (u.blk.getX f.a = 0 → ∃ t, exec (.rep f) s = Outcome.next t ∧ t.blk.pc = u.blk.pc + 16 ∧ t.blk.rep = none ∧ t.blk.x = u.blk.x) ∧
    (u.blk.getX f.a ≠ 0 → ∃ t, exec (.rep f) s = Outcome.next t ∧ t.blk.pc = u.blk.pc ∧ t.blk.rep = some (f.a, w, 0) ∧ t.blk.x = u.blk.x)) ∧
  (∀ (s : State) (a : BitVec 6) (w next : Word) (f : FmtA), s.blk.rep = some (a, w, next) →
    repInstr s.blk.gen w next = some (.add false f) → s.blk.guard f.gm = true →
    (∀ r ∈ [f.a, f.b, f.d], s.blk.boundTo r = none ∧ s.xPending r = false ∧ s.blk.flawX.getLsbD r.toNat = false) → a ≠ f.d → a ≠ 0 →
    ∃ t, exec .repRepetition s = Outcome.next t ∧
      (f.d ≠ 0 → t.blk.getX f.d = s.blk.getX f.a + opA s.blk f) ∧ t.blk.getX a = s.blk.getX a - 1 ∧
      (s.blk.getX a ≠ 1 → t.blk.pc = s.blk.pc ∧ t.blk.rep = s.blk.rep) ∧
      (s.blk.getX a = 1 → t.blk.rep = none ∧ t.blk.pc = s.blk.pc + 8 + (if f.lit.isSome then 16 else 8)))

/-- R341 to R344: taken transfers write their link or counter and set the PC to their target; LOOP is taken unless the new count is 0.
CALLT whose entry of FUNCS has been read writes its link and goes to TARGET × 8 where the entry is valid; where it is not, its hart waits
for the management cores to serve the function; an index beyond the section aborts the launch with cause TRANSLATE. The read of the
entry is a load of 8 bytes of its own, after which the entry's word is held.
Where the rules leave a point to the model, it follows log entries 12 and 44. -/
def Obligations.Transfers : Prop :=
  ((∀ (f : FmtB) (s : State), Runs s f.gm [f.a] →
     let target := s.blk.pc + f.off.signExtend 64
     let n := s.blk.getX f.a - 1
     (n = 0 → exec (.loop f) s = Outcome.next (s.after none fun b => b.setX f.a n)) ∧
     (target.toNat % 8 = 0 →
       exec (.br f) s = Outcome.next (s.jumped none target id) ∧
       exec (.call f) s = Outcome.next (s.jumped none target fun b => b.setX f.a (b.pc + 8)) ∧
       (n ≠ 0 → exec (.loop f) s = Outcome.next (s.jumped none target fun b => b.setX f.a n)))) ∧
   (∀ (f : FmtA) (s : State), Runs s f.gm [f.a, f.b, f.d] →
     let y := opA s.blk f
     let next := s.blk.pc + (if f.lit.isSome then 16 else 8)
     (y.toNat % 8 = 0 →
       exec (.jmp f) s = Outcome.next (s.jumped f.lit y id) ∧ exec (.ret f) s = Outcome.next (s.jumped f.lit y id) ∧
       exec (.callr f) s = Outcome.next (s.jumped f.lit y fun b => b.setX f.d next)) ∧
     (next.toNat % 8 = 0 →
       exec (.brx f) s = Outcome.next (s.jumped f.lit (next + 8 * BitVec.ofNat 64 (min (s.blk.getX f.a).toNat y.toNat)) id)))) ∧
  (∀ (f : FmtA) (s : State), Runs s f.gm [f.b, f.d] →
     let o := s.opened f.lit
     let i := (opA s.blk f).toNat
     (∀ (va k e : Nat), o.funcEntry i = some va → (s.blk.words.find? fun w => w.1 == va) = some (k, e) →
       (e.testBit 0 = true → exec (.callt f) s = Outcome.next
         (s.jumped f.lit (BitVec.ofNat 64 (e / 8 * 8)) fun b => b.setX f.d (b.pc + (if f.lit.isSome then 16 else 8)))) ∧
       (e.testBit 0 = false → exec (.callt f) s = Outcome.next ((o.updBlk fun b => { b with words := [] }).waitFor (.translate i)))) ∧
     (∀ (va : Nat), o.funcEntry i = some va → (∀ w ∈ s.blk.words, w.1 ≠ va) → (∀ p ∈ s.blk.pend, p.dest ≠ .word va) →
       s.blk.peerBad = none → o.blk.memReady = true → ∀ (pa : Nat) (x : Xlat) (u : State),
       o.probe .load .load va 8 0 = ProbeRes.ok pa x → (o.tlbTouch va).startLoad va pa 8 .device none (.word va) 0 = State.LoadRes.sent u →
       exec (.callt f) s = Outcome.next (u.waitFor .retry)) ∧
     (o.funcEntry i = none → exec (.callt f) s = Outcome.next (o.mgmtAbort s.cur i 8)))

/-! ## Group 5: vector and mask instructions -/

/-- The lanes are there, no repetition runs, the X registers named are unbound and at hand, and nothing in flight writes the V registers
named (R293, R298, R287, R116). -/
structure Sys2Proof.Machine.VRuns (s : State) (xs : List (BitVec 6)) (vs : List (BitVec 5)) : Prop where
  lanes : s.blk.lanes ≠ 0
  noRep : s.blk.rep = none
  unbound : ∀ r ∈ xs, s.blk.boundTo r = none
  ready : ∀ r ∈ xs, s.xPending r = false
  landed : ∀ v ∈ vs, s.blk.vPending v = false
  sound : (∀ r ∈ xs, s.blk.flawX.getLsbD r.toNat = false) ∧ (∀ v ∈ vs, s.blk.flawV[v.toNat]'(v.isLt) = 0) ∧ s.blk.flawM = Vector.replicate 12 0

/-- The condition for a format V instruction: its X registers and all the V registers that it can name. -/
def Sys2Proof.Machine.VReady (s : State) (f : FmtV) : Prop := VRuns s [f.vl, f.xs] [f.vd, f.va, f.vb, f.vc]

/-- VL (R292, R293). -/
def Sys2Proof.Machine.vlOf (b : Block) (vl : BitVec 6) (w : Nat) : Nat :=
  if vl = 0 then b.lanes * (64 / w) else min (b.getX vl).toNat (b.lanes * (64 / w))

/-- Element e at width w: bits w × e upwards (R292). -/
def Sys2Proof.Machine.el (b : Block) (v : BitVec 5) (w e : Nat) : BitVec w := (b.getV v).extractLsb' (w * e) w

/-- Whether the mask selects element e (R293), and whether element e is done now: selected, and not below ESTART (R269). -/
def Sys2Proof.Machine.selected (b : Block) (gm : BitVec 4) (e : Nat) : Bool := gm == 15 || (b.getM gm.toNat).getLsbD e
def Sys2Proof.Machine.doneNow (b : Block) (gm : BitVec 4) (e : Nat) : Bool := selected b gm e && decide (b.estart.toNat ≤ e)

/-- The scalar operand, and element e of the second source (R351). -/
def Sys2Proof.Machine.scalarV (b : Block) (f : FmtV) : Word := f.lit.getD (b.getX f.xs)
def Sys2Proof.Machine.elB (b : Block) (f : FmtV) (w e : Nat) : BitVec w :=
  if f.s = 1 then (scalarV b f).setWidth w else el b f.vb w e

/-- New contents of a register whose elements below n that `act` holds of are given by g, and whose others are as they were. -/
def Sys2Proof.Machine.Lanewise (w n : Nat) (act : Nat → Bool) (old new : BitVec 8192) (g : Nat → BitVec w) : Prop :=
  ∀ e, w * (e + 1) ≤ 8192 → new.extractLsb' (w * e) w = if e < n ∧ act e = true then g e else old.extractLsb' (w * e) w

/-- The next state of an instruction that writes V[vd] whole and ORs flags into FCTL; its progress index is full (R294). -/
def Sys2Proof.Machine.State.wroteV (s : State) (lit : Option Word) (vd : BitVec 5) (v : BitVec 8192) (fl : Flags) : State :=
  s.after lit fun b =>
    let b := (b.setV vd v).fullV vd
    { b with ctl := { b.ctl with fctl := orFlags b.ctl.fctl fl } }

/-- An integer clamped to a format, and whether the clamp acted (R354). -/
def Sys2Proof.Machine.clampTo (sg : Bool) (w : Nat) (z : Int) : BitVec w × Bool :=
  let lo : Int := if sg then -2 ^ (w - 1) else 0
  let hi : Int := if sg then 2 ^ (w - 1) - 1 else 2 ^ w - 1
  (BitVec.ofInt w (max lo (min hi z)), decide (z < lo ∨ hi < z))

/-- An element operation on integers: signedness of the format, width, a, b, c; the result and whether it was clamped. -/
abbrev Sys2Proof.Machine.IntOp := (sg : Bool) → (w : Nat) → BitVec w → BitVec w → BitVec w → BitVec w × Bool
abbrev Sys2Proof.Machine.IntTable := List ((FmtV → Instr) × IntOp)

/-- The integer element-wise instructions (R354). -/
def Sys2Proof.Machine.vecIntTable : IntTable :=
  ([(.vadd, fun _ _ a b _ => (a + b, false)), (.vsub, fun _ _ a b _ => (a - b, false)),
    (.vadds, fun sg w a b _ => clampTo sg w (if sg then a.toInt + b.toInt else (a.toNat : Int) + b.toNat)),
    (.vsubs, fun sg w a b _ => clampTo sg w (if sg then a.toInt - b.toInt else (a.toNat : Int) - b.toNat)),
    (.vmul, fun _ _ a b _ => (a * b, false)),
    (.vmulh, fun _ w a b _ => ((a.signExtend (2 * w) * b.signExtend (2 * w)).extractLsb' w w, false)),
    (.vmulhn, fun _ w a b _ => ((a.setWidth (2 * w) * b.setWidth (2 * w)).extractLsb' w w, false)),
    (.vmac, fun _ _ a b c => (a * b + c, false)),
    (.vmin, fun _ _ a b _ => (if b.toInt < a.toInt then b else a, false)),
    (.vmax, fun _ _ a b _ => (if a.toInt < b.toInt then b else a, false)),
    (.vminn, fun _ _ a b _ => (if b.toNat < a.toNat then b else a, false)),
    (.vmaxn, fun _ _ a b _ => (if a.toNat < b.toNat then b else a, false))] : IntTable) ++
  ([(.vabs, fun _ _ a _ _ => (if a.toInt < 0 then -a else a, false)), (.vand, fun _ _ a b _ => (a &&& b, false)),
    (.vor, fun _ _ a b _ => (a ||| b, false)), (.vxor, fun _ _ a b _ => (a ^^^ b, false)),
    (.vandn, fun _ _ a b _ => (a &&& ~~~b, false)), (.vshl, fun _ w a b _ => (a <<< (b.toNat % w), false)),
    (.vshr, fun _ w a b _ => (a >>> (b.toNat % w), false)), (.vsar, fun _ w a b _ => (a.sshiftRight (b.toNat % w), false)),
    (.vpopc, fun _ w a _ _ => (BitVec.ofNat w ((List.range w).countP fun i => a.getLsbD i), false)),
    (.vclz, fun _ w a _ _ => (BitVec.ofNat w (((List.range w).find? fun i => a.getMsbD i).getD w), false))] : IntTable)

/-- R351, R354: the integer element-wise instructions complete: each active element of V[vd] below VL takes the value of its row, the
others stay; a clamp sets SO; nothing else changes but the PC. -/
def Obligations.VectorIntegers : Prop :=
  ∀ p ∈ vecIntTable, ∀ (f : FmtV) (s : State), intFmt f.fmt = true → VReady s f →
    let b := s.blk
    let w := fmtBits f.fmt.toNat
    let n := vlOf b f.vl w
    let r := fun e => p.2 (fmtSigned f.fmt.toNat) w (el b f.va w e) (elB b f w e) (el b f.vc w e)
    ∃ v, Lanewise w n (doneNow b f.gm) (b.getV f.vd) v (fun e => (r e).1) ∧
      exec (p.1 f) s = Outcome.next (s.wroteV f.lit f.vd v
        (if (List.range n).any fun e => doneNow b f.gm e && (r e).2 then flagSO else 0))

/-- The float element-wise instructions: format, rounding, FZI, function code, a, b, c (R356, R357). -/
def Sys2Proof.Machine.vecFloatTable : List ((FmtV → Instr) × (FFmt → RndCtx → Bool → Nat → Nat → Nat → Nat → FRes)) :=
  [(.vfadd, fun ff r fz _ a b _ => ff.addV r (ff.decodeFzi fz a) (ff.decodeFzi fz b)),
   (.vfsub, fun ff r fz _ a b _ => ff.addV r (ff.decodeFzi fz a) (ff.decodeFzi fz b).neg),
   (.vfmul, fun ff r fz _ a b _ => ff.mulV r (ff.decodeFzi fz a) (ff.decodeFzi fz b)),
   (.vfma, fun ff r fz _ a b c => ff.fmaV r (ff.decodeFzi fz a) (ff.decodeFzi fz b) (ff.decodeFzi fz c)),
   (.vfdiv, fun ff r fz _ a b _ => ff.divV r (ff.decodeFzi fz a) (ff.decodeFzi fz b)),
   (.vfsqrt, fun ff r fz _ a _ _ => ff.sqrtV r (ff.decodeFzi fz a)),
   (.vfmin, fun ff _ fz _ a b _ => ff.minMax fz false a b), (.vfmax, fun ff _ fz _ a b _ => ff.minMax fz true a b),
   (.vclass, fun ff _ _ _ a _ _ => (ff.classify a, 0)), (.vsfu, fun ff r fz fn a _ _ => sfu ff r fn (ff.decodeFzi fz a))]

/-- The results of a float element-wise instruction, element by element; rounding code 5 takes the counter STRIPB + e (R246). -/
def Sys2Proof.Machine.floatEl (op : FFmt → RndCtx → Bool → Nat → Nat → Nat → Nat → FRes) (ff : FFmt) (b : Block) (f : FmtV) (e : Nat) :
    FRes :=
  let w := fmtBits f.fmt.toNat
  op ff (b.vRnd f.rnd.toNat f.sat.toNat e) (fzi b.ctl.fctl) f.fn.toNat (el b f.va w e).toNat (elB b f w e).toNat (el b f.vc w e).toNat

/-- R356, R357, R238: the float element-wise instructions none of whose active elements sets an enabled flag complete, with the flags of
their active elements ORed into FCTL. -/
def Obligations.VectorFloats : Prop :=
  ∀ p ∈ vecFloatTable, ∀ (f : FmtV) (s : State) (ff : FFmt), floatOf f.fmt.toNat = some ff → floatFmt f.fmt = true → VReady s f →
    let b := s.blk
    let w := fmtBits f.fmt.toNat
    let n := vlOf b f.vl w
    let r := floatEl p.2 ff b f
    (∀ e < n, doneNow b f.gm e = true → enabledFlags b.ctl.fctl (r e).2 = 0) →
    ∃ v, Lanewise w n (doneNow b f.gm) (b.getV f.vd) v (fun e => BitVec.ofNat w (r e).1) ∧
      exec (p.1 f) s = Outcome.next (s.wroteV f.lit f.vd v
        ((List.range n).foldl (fun fl e => if doneNow b f.gm e then fl ||| (r e).2 else fl) 0))

/-- R238, R333: an instruction that would set a flag whose enable bit is 1 raises FPEXC with the raising flags in TINFO. A scalar one
writes nothing, no register and no flag. Of a vector one the first active element k that sets an enabled flag raises it with ESTART k; the
elements below k are written and their flags set, the others and k are not; the progress index of V[vd] covers the groups below k. -/
def Obligations.FloatTraps : Prop :=
  (∀ p ∈ floatTable, ∀ (f : FmtF) (s : State), Runs s f.gm [f.a, f.b, f.d] → enabledFlags s.blk.ctl.fctl (p.2 s.blk f).2 ≠ 0 →
     exec (p.1 f) s = Outcome.next ((s.opened f.lit).takeTrap
       { cause := .fpexc, detail := (enabledFlags s.blk.ctl.fctl (p.2 s.blk f).2).toNat } f.lit.isSome)) ∧
  (∀ p ∈ vecFloatTable, ∀ (f : FmtV) (s : State) (ff : FFmt) (k : Nat), floatOf f.fmt.toNat = some ff → floatFmt f.fmt = true →
     VReady s f →
     let b := s.blk
     let w := fmtBits f.fmt.toNat
     let r := floatEl p.2 ff b f
     k < vlOf b f.vl w → doneNow b f.gm k = true → enabledFlags b.ctl.fctl (r k).2 ≠ 0 →
     (∀ e < k, doneNow b f.gm e = true → enabledFlags b.ctl.fctl (r e).2 = 0) →
     ∃ v, Lanewise w k (doneNow b f.gm) (b.getV f.vd) v (fun e => BitVec.ofNat w (r e).1) ∧
       exec (p.1 f) s = Outcome.next
         ((((s.opened f.lit).writeV f.vd v (some (k, w))).setFlags
           ((List.range k).foldl (fun fl e => if doneNow b f.gm e then fl ||| (r e).2 else fl) 0)).takeTrap
           { cause := .fpexc, detail := (enabledFlags b.ctl.fctl (r k).2).toNat, estart := k } f.lit.isSome))

/-- R355, R356: VCMP and VFCMP write bit e of M[vd] for each active e below VL; the other bits stay. -/
def Obligations.VectorCompares : Prop :=
  ∀ (f : FmtV) (s : State), VReady s f → f.vd.toNat < 12 →
    let b := s.blk
    let w := fmtBits f.fmt.toNat
    let n := vlOf b f.vl w
    let bits := fun (m : BitVec 1024) (g : Nat → Bool) =>
      ∀ e < 1024, m.getLsbD e = if e < n ∧ doneNow b f.gm e = true then g e else (b.getM f.vd.toNat).getLsbD e
    (intFmt f.fmt = true → f.fn.toNat < 12 →
      let c := fun e => Sys2Proof.Machine.cond f.fn.toNat
        (if 2 ≤ f.fn.toNat ∧ f.fn.toNat ≤ 5 then (el b f.va w e).signExtend 64 else (el b f.va w e).setWidth 64)
        (if 2 ≤ f.fn.toNat ∧ f.fn.toNat ≤ 5 then (elB b f w e).signExtend 64 else (elB b f w e).setWidth 64)
      ∃ m, bits m c ∧ exec (.vcmp f) s = Outcome.next (s.after f.lit fun b => b.setM f.vd.toNat m)) ∧
    (∀ ff, floatOf f.fmt.toNat = some ff → floatFmt f.fmt = true →
      let c := fun e => fcond f.fn.toNat (ff.decodeFzi (fzi b.ctl.fctl) (el b f.va w e).toNat)
        (ff.decodeFzi (fzi b.ctl.fctl) (elB b f w e).toNat)
      (∀ e < n, doneNow b f.gm e = true → enabledFlags b.ctl.fctl (c e).2 = 0) →
      let fl := (List.range n).foldl (fun fl e => if doneNow b f.gm e then fl ||| (c e).2 else fl) 0
      ∃ m, bits m (fun e => (c e).1) ∧ exec (.vfcmp f) s = Outcome.next (s.after f.lit fun b =>
        ({ b with ctl := { b.ctl with fctl := orFlags b.ctl.fctl fl } }).setM f.vd.toNat m))

/-- A sum of products and an addend in an integer format: modulo its width, or clamped once (R365). -/
def Sys2Proof.Machine.dotInt (sg : Bool) (sat : Bool) (W : Nat) (z : Int) : BitVec W × Bool :=
  if sat then clampTo sg W z else (BitVec.ofInt W z, false)

/-- An element of an integer format as a number. -/
def Sys2Proof.Machine.intOf (sg : Bool) {w : Nat} (x : BitVec w) : Int := if sg then x.toInt else x.toNat

/-- R358, R359, R365: VCVT and VCVTSR convert element e of V[va], VL being counted at the wider carrier or at 32 bits; VDOT and VWMAC of
integers add the exact products of the source elements to the wide element, modulo its width or clamped once; VRNG gives Gen(STRIPB + e). -/
def Obligations.VectorConversions : Prop :=
  ∀ (f : FmtV) (s : State), VReady s f →
    let b := s.blk
    let src := f.fn.toNat % 64
    let ws := max 8 (fmtBits src)
    let wd := max 8 (fmtBits f.fmt.toNat)
    (∀ p ∈ ([(.vcvt, max ws wd, false), (.vcvtsr, 32, true)] : List ((FmtV → Instr) × Nat × Bool)),
      let rnd := fun e => if p.2.2 then { b.vRnd f.rnd.toNat f.sat.toNat e with mode := 5, g := (el b f.vb 32 e).toNat }
        else b.vRnd f.rnd.toNat f.sat.toNat e
      let r := fun e => convertElem src f.fmt.toNat (fzi b.ctl.fctl) (rnd e) ((el b f.va ws e).toNat % 2 ^ fmtBits src)
      let n := vlOf b f.vl p.2.1
      (p.2.2 = true → vcvtsrPair f.fmt (f.fn.setWidth 6) = true) →
      (p.2.2 = false → vcvtFmt f.fmt = true ∧ vcvtFmt (f.fn.setWidth 6) = true) →
      (∀ e < n, doneNow b f.gm e = true → enabledFlags b.ctl.fctl (r e).2 = 0) →
      ∃ v, Lanewise wd n (doneNow b f.gm) (b.getV f.vd) v (fun e => BitVec.ofNat wd (r e).1) ∧
        exec (p.1 f) s = Outcome.next (s.wroteV f.lit f.vd v
          ((List.range n).foldl (fun fl e => if doneNow b f.gm e then fl ||| (r e).2 else fl) 0))) ∧
    (intFmt f.fmt = true →
      let w := fmtBits f.fmt.toNat
      let sg := fmtSigned f.fmt.toNat
      let W := if w = 8 then 32 else 64
      let a := fun (k e : Nat) => (List.range k).foldl (fun z j => z + intOf sg (el b f.va w (k * e + j)) * intOf sg (elB b f w (k * e + j)))
        (0 : Int)
      let dot := fun e => dotInt sg (f.sat == 1) W (a 4 e + intOf sg (el b f.vc W e))
      let mac := fun e => dotInt sg (f.sat == 1) (2 * w) (a 1 e + intOf sg (el b f.vd (2 * w) e))
      let so := fun (n : Nat) (g : Nat → Bool) => if (List.range n).any fun e => doneNow b f.gm e && g e then flagSO else 0
      (w ≤ 16 → ∃ v, Lanewise W (vlOf b f.vl W) (doneNow b f.gm) (b.getV f.vd) v (fun e => (dot e).1) ∧
        exec (.vdot f) s = Outcome.next (s.wroteV f.lit f.vd v (so (vlOf b f.vl W) fun e => (dot e).2))) ∧
      (w ≤ 32 → ∃ v, Lanewise (2 * w) (vlOf b f.vl (2 * w)) (doneNow b f.gm) (b.getV f.vd) v (fun e => (mac e).1) ∧
        exec (.vwmac f) s = Outcome.next (s.wroteV f.lit f.vd v (so (vlOf b f.vl (2 * w)) fun e => (mac e).2))) ∧
      ∃ v, Lanewise w (vlOf b f.vl w) (doneNow b f.gm) (b.getV f.vd) v
          (fun e => (Sys2Proof.Machine.gen b.ctl.seed (b.ctl.stripb + BitVec.ofNat 64 e)).setWidth w) ∧
        exec (.vrng f) s = Outcome.next (s.wroteV f.lit f.vd v 0))

/-- R365: VDOT and VWMAC of floats add the exact products to the wide element and round once; no enabled flag being set, they complete. -/
def Obligations.VectorFloatDots : Prop :=
  ∀ (f : FmtV) (s : State) (ff : FFmt), VReady s f → floatOf f.fmt.toNat = some ff →
    let b := s.blk
    let w := fmtBits f.fmt.toNat
    let fz := fzi b.ctl.fctl
    let val := fun {w : Nat} (g : FFmt) (x : BitVec w) => g.decodeFzi fz x.toNat
    (∀ p ∈ ([(.vdot, 2, 0x11, f.vc), (.vwmac, 1, if w = 32 then 0x10 else 0x11, f.vd)] : List ((FmtV → Instr) × Nat × Nat × BitVec 5)),
      ∀ fd, floatOf p.2.2.1 = some fd → (p.2.1 = 2 → dotFmt f.fmt = true) → (p.2.1 = 1 → wmacFmt f.fmt = true) →
      let W := fmtBits p.2.2.1
      let prods := fun e => (List.range p.2.1).map fun j =>
        (val ff (el b f.va w (p.2.1 * e + j)), val ff (elB b f w (p.2.1 * e + j)))
      let r := fun e => sumRound fd (b.vRnd f.rnd.toNat f.sat.toNat e)
        (((prods e).map fun q => q.1.mul q.2) ++ [some (val fd (el b p.2.2.2 W e))])
        ((prods e).any fun q => q.1.zeroTimesInf q.2 || q.1.isSignalling || q.2.isSignalling)
      let n := vlOf b f.vl W
      (∀ e < n, doneNow b f.gm e = true → enabledFlags b.ctl.fctl (r e).2 = 0) →
      ∃ v, Lanewise W n (doneNow b f.gm) (b.getV f.vd) v (fun e => BitVec.ofNat W (r e).1) ∧
        exec (p.1 f) s = Outcome.next (s.wroteV f.lit f.vd v
          ((List.range n).foldl (fun fl e => if doneNow b f.gm e then fl ||| (r e).2 else fl) 0)))

/-- The instructions that move elements: the block, the fields, VL, the width and the element (R360, R362). -/
def Sys2Proof.Machine.vecMoveTable : List ((FmtV → Instr) × (Block → FmtV → Nat → (w : Nat) → Nat → BitVec w)) :=
  [(.vsel, fun b f _ w e => if (b.getM f.vc.toNat).getLsbD e then el b f.va w e else elB b f w e),
   (.vmov, fun b f _ w e => elB b f w e),
   (.viota, fun b f _ w e =>
      if f.fn = 0 then BitVec.ofNat w (e + (scalarV b f).toNat)
      else BitVec.ofNat w ((List.range e).countP fun j => selected b f.gm j && (b.getM f.vc.toNat).getLsbD j)),
   (.vperm, fun b f n w e => let k := (el b f.vb w e).toNat; if k < n then el b f.va w k else 0),
   (.vslup, fun b f _ w e => let k := (scalarV b f).toNat; if k ≤ e then el b f.va w (e - k) else el b f.vd w e),
   (.vsldn, fun b f n w e => let k := (scalarV b f).toNat; if e + k < n then el b f.va w (e + k) else 0),
   (.vexpd, fun b f _ w e => el b f.va w ((List.range e).countP fun j => selected b f.gm j))]

/-- R360, R361, R362: the instructions that select, move and permute elements complete with the elements of their rows; VCOMP packs the
active elements; VEXT and VINS move the element that X[vl] names, if it lies below VLMAX. -/
def Obligations.VectorMoves : Prop :=
  ∀ (f : FmtV) (s : State), laneFmt f.fmt = true → VReady s f →
    let b := s.blk
    let w := fmtBits f.fmt.toNat
    let n := vlOf b f.vl w
    (∀ p ∈ vecMoveTable, ∃ v, Lanewise w n (doneNow b f.gm) (b.getV f.vd) v (p.2 b f n w) ∧
      exec (p.1 f) s = Outcome.next (s.wroteV f.lit f.vd v 0)) ∧
    (let act := (List.range n).filter (selected b f.gm)
     ∃ v, (∀ j, w * (j + 1) ≤ 8192 → v.extractLsb' (w * j) w = match act[j]? with
        | some e => if b.estart.toNat ≤ e then el b f.va w e else el b f.vd w j
        | none => el b f.vd w j) ∧
      exec (.vcomp f) s = Outcome.next (s.wroteV f.lit f.vd v 0)) ∧
    (let i := (b.getX f.vl).toNat
     (∃ v, Lanewise w (b.lanes * (64 / w)) (fun e => e == i) (b.getV f.vd) v (fun _ => (scalarV b f).setWidth w) ∧
        exec (.vins f) s = Outcome.next (s.wroteV f.lit f.vd v 0)) ∧
     exec (.vext f) s = Outcome.next (s.after f.lit fun b' => b'.setX f.xs
        (if i < b.lanes * (64 / w) then
          (if fmtSigned f.fmt.toNat then (el b f.va w i).signExtend 64 else (el b f.va w i).setWidth 64) else 0)))

/-- Comb of R252 on partials with the flags gathered so far: none is neutral. -/
def Sys2Proof.Machine.joinPart (comb : Nat → Nat → FRes) (a b : Option Nat × Flags) : Option Nat × Flags :=
  match a.1, b.1 with
  | some x, some y => (some (comb x y).1, a.2 ||| b.2 ||| (comb x y).2)
  | some x, none => (some x, a.2 ||| b.2)
  | none, y => (y, a.2 ||| b.2)

/-- Partial j after s folding steps: partial j of step s − 1 with partial j + 2^(s−1) (R252). -/
def Sys2Proof.Machine.treePart (comb : Nat → Nat → FRes) (part : Nat → Option Nat × Flags) : Nat → Nat → Option Nat × Flags
  | 0, j => part j
  | s + 1, j => joinPart comb (treePart comb part s j) (treePart comb part s (j + 2 ^ s))

/-- The partial of lane j: its active elements in ascending order (R252). -/
def Sys2Proof.Machine.lanePart (comb : Nat → Nat → FRes) (b : Block) (f : FmtV) (w j : Nat) : Option Nat × Flags :=
  if j < b.lanes then
    (List.range (64 / w)).foldl (fun acc i =>
      let e := j * (64 / w) + i
      if e < vlOf b f.vl w ∧ doneNow b f.gm e = true then joinPart comb acc (some (el b f.va w e).toNat, 0) else acc) (none, 0)
  else (none, 0)

/-- The greater or lesser of two element values (R254), and the identity of that choice (R253). -/
def Sys2Proof.Machine.pickOf (wantMax : Bool) (b : Block) (f : FmtV) (x y : Nat) : FRes :=
  match floatOf f.fmt.toNat with
  | some ff => ff.minMax (fzi b.ctl.fctl) wantMax x y
  | none =>
    let v := fun x => intOf (fmtSigned f.fmt.toNat) (BitVec.ofNat (fmtBits f.fmt.toNat) x)
    (if wantMax then (if v x < v y then y else x) else (if v y < v x then y else x), (0 : Flags))
def Sys2Proof.Machine.pickUnit (wantMax : Bool) (fmt : Nat) : Nat :=
  match floatOf fmt with
  | some ff => ff.inf wantMax
  | none =>
    let w := fmtBits fmt
    if fmtSigned fmt then (if wantMax then 2 ^ (w - 1) else 2 ^ (w - 1) - 1) else (if wantMax then 0 else 2 ^ w - 1)

/-- The reductions: whether of floats, the operator and its identity (R252 to R254, R363). -/
def Sys2Proof.Machine.reduceTable : List ((FmtV → Instr) × Bool × (Block → FmtV → Nat → Nat → FRes) × (Nat → Nat)) :=
  [(.vrsum, false, fun _ f x y =>
      let w := fmtBits f.fmt.toNat
      let sg := fmtSigned f.fmt.toNat
      let c := clampTo sg w (intOf sg (BitVec.ofNat w x) + intOf sg (BitVec.ofNat w y))
      if f.sat = 1 then (c.1.toNat, if c.2 then flagSO else 0) else ((x + y) % 2 ^ w, 0), fun _ => 0),
   (.vrmax, false, pickOf true, pickUnit true), (.vrmin, false, pickOf false, pickUnit false),
   (.vrfmax, true, pickOf true, pickUnit true), (.vrfmin, true, pickOf false, pickUnit false),
   (.vrfsum, true, fun b f x y => match floatOf f.fmt.toNat with
      | some ff => ff.addV (b.vRnd f.rnd.toNat 0 0) (ff.decodeFzi (fzi b.ctl.fctl) x) (ff.decodeFzi (fzi b.ctl.fctl) y)
      | none => (0, 0), fun _ => 0)]

/-- R252, R253, R363: a reduction none of whose steps sets an enabled flag completes: the lanes' partials are combined as a tree; X[xs]
takes the result or the identity, P[vc] and VSTAT.EMPTY say whether an element was active. -/
def Obligations.VectorReductions : Prop :=
  ∀ p ∈ reduceTable, ∀ (f : FmtV) (s : State), (if p.2.1 then floatFmt f.fmt else intFmt f.fmt) = true → VReady s f →
    let b := s.blk
    let w := fmtBits f.fmt.toNat
    let r := treePart (p.2.2.1 b f) (lanePart (p.2.2.1 b f) b f w) 7 0
    let x := r.1.getD (p.2.2.2 f.fmt.toNat)
    enabledFlags b.ctl.fctl r.2 = 0 →
    exec (p.1 f) s = Outcome.next (s.after f.lit fun b =>
      let vstat := (b.ctl.vstat &&& ~~~1) ||| (if r.1.isSome then 0 else 1)
      let b := { b with ctl := { b.ctl with fctl := orFlags b.ctl.fctl r.2, vstat := vstat } }
      (b.setX f.xs (if fmtSigned f.fmt.toNat then (BitVec.ofNat w x).signExtend 64 else (BitVec.ofNat w x).setWidth 64)).setP
        f.vc.toNat r.1.isSome)

/-- R364: the mask instructions write bit e of M[vd] for each active e below VL, and MPOP and MFIRST write X[xs]. -/
def Obligations.VectorMasks : Prop :=
  ∀ (f : FmtV) (s : State), laneFmt f.fmt = true → VReady s f → f.vd.toNat < 12 →
    let b := s.blk
    let n := vlOf b f.vl (fmtBits f.fmt.toNat)
    let act := fun e => decide (e < n) && doneNow b f.gm e
    let ma := fun e => (b.getM f.va.toNat).getLsbD e
    let first := (List.range n).find? fun e => selected b f.gm e && ma e
    (∀ p ∈ ([(.mlog, fun e => f.fn.getLsbD (2 * (ma e).toNat + ((b.getM f.vb.toNat).getLsbD e).toNat)),
        (.msbf, fun e => (first.map fun k => decide (e < k)).getD true), (.msif, fun e => (first.map fun k => decide (e ≤ k)).getD true),
        (.msof, fun e => first == some e),
        (.mset, fun e => if f.fn = 0 then false else if f.fn = 1 then true else decide (e < (scalarV b f).toNat))] :
        List ((FmtV → Instr) × (Nat → Bool))),
      ∃ m : BitVec 1024, (∀ e < 1024, m.getLsbD e = if act e = true then p.2 e else (b.getM f.vd.toNat).getLsbD e) ∧
        exec (p.1 f) s = Outcome.next (s.after f.lit fun b => b.setM f.vd.toNat m)) ∧
    exec (.mpop f) s = Outcome.next (s.after f.lit fun b =>
      b.setX f.xs (BitVec.ofNat 64 ((List.range n).countP fun e => act e && ma e))) ∧
    exec (.mfirst f) s = Outcome.next (s.after f.lit fun b =>
      b.setX f.xs ((first.map fun e => BitVec.ofNat 64 e).getD (BitVec.allOnes 64)))
/-! ## Lane groups and accesses to memory -/

/-- The instructions of formats V and W. -/
def Sys2Proof.Machine.vecV : List (FmtV → Instr) :=
  vecIntTable.map (·.1) ++ vecFloatTable.map (·.1) ++ vecMoveTable.map (·.1) ++ reduceTable.map (·.1) ++
    ([.vcmp, .vfcmp, .vcvt, .vcvtsr, .vdot, .vwmac, .vrng, .vcomp, .vins, .vext, .mlog, .msbf, .msif, .msof, .mset, .mpop,
      .mfirst] : List (FmtV → Instr))
def Sys2Proof.Machine.vecW : List (FmtW → Instr) := [.vld, .vlds, .vldx, .vldff, .vst, .vsts, .vstx, .vamoadd, .vtld, .vtst]

/-- The groups of a core that no placed block holds and that are not lent to another stage than `stage`, lowest first (R352 step 5). -/
def Sys2Proof.Machine.State.takeable (s : State) (c stage : Nat) : List Nat :=
  (List.range 8).filter fun g =>
    (s.blocks.all fun e => coreOf e.1 != c || !e.2.placed || !e.2.groups.contains g) &&
      !((s.core c).lent.contains g && (s.core c).lentStage != stage)

/-- A core on which nothing asks for a shrink, and no claim waits (R114). -/
def Sys2Proof.Machine.State.calmLanes (s : State) (c : Nat) : Prop :=
  (s.core c).laneWait = false ∧ (s.core c).lentStage = 0 ∧ (s.core c).claims = []

/-- R293, R352, R353: with LANES = 0 every instruction of formats V and W raises LANES. LCLAIM of more than 128 lanes raises LANES. Otherwise,
where nothing is to be shrunk, the hart keeps its lowest groups or takes free ones, lowest first, up to its goal; new ones read 0, kept
ones keep their elements, and X[d] says what it holds. Short of LMIN it takes nothing and waits. A waiting claim that can be met is met.
LRELEASE frees every group. -/
def Obligations.LaneClaims : Prop :=
  ((∀ p ∈ vecV, ∀ (f : FmtV) (s : State), s.blk.lanes = 0 → (∀ r ∈ [f.vl, f.xs], s.blk.boundTo r = none ∧ s.xPending r = false) →
     (∀ v ∈ [f.vd, f.va, f.vb, f.vc], s.blk.vPending v = false) →
     exec (p f) s = Outcome.next (s.takeTrap { cause := .lanes } f.lit.isSome)) ∧
   (∀ p ∈ vecW, ∀ (f : FmtW) (s : State), s.blk.lanes = 0 →
     (∀ r ∈ [f.vl, f.base, f.stride], s.blk.boundTo r = none ∧ s.xPending r = false) →
     (∀ v ∈ [f.vd, f.vi], s.blk.vPending v = false) →
     exec (p f) s = Outcome.next (s.takeTrap { cause := .lanes } f.lit.isSome))) ∧
  ((∀ (f : FmtA) (s : State), Runs s f.gm [f.b, f.d] → (∀ v, s.blk.vPending v = false) →
     let b := s.blk
     let q := (opA b f).toNat
     let goal := max (min ((q + 15) / 16) b.lmax) b.lmin
     let keep := b.groups.take goal
     let new := ((s.setBlk { b with groups := keep }).takeable s.myCore b.stage).take (goal - keep.length)
     (128 < q → exec (.lclaim f) s = Outcome.next ((s.opened f.lit).takeTrap { cause := .lanes } f.lit.isSome)) ∧
     (q ≤ 128 → s.calmLanes s.myCore → b.lmin ≤ keep.length + new.length →
       ∃ t, exec (.lclaim f) s = Outcome.next t ∧ t.blk.groups = keep ++ new ∧
         t.blk.pc = b.pc + (if f.lit.isSome then 16 else 8) ∧
         t.blk.getX f.d = (if f.d = 0 then 0 else BitVec.ofNat 64 (16 * (keep ++ new).length)) ∧
         (∀ r, r ≠ f.d → t.blk.getX r = b.getX r) ∧
         (b.freshLanes = false → t.blk.m = b.m ∧ ∀ v g, g < 8 → (t.blk.getV v).extractLsb' (1024 * g) 1024 =
           if keep.length ≤ g ∧ g < keep.length + new.length then 0 else (b.getV v).extractLsb' (1024 * g) 1024) ∧
         (b.freshLanes = true → ∀ v, t.blk.getV v = 0)) ∧
     (q ≤ 128 → s.calmLanes s.myCore → keep.length + new.length < b.lmin →
       ∃ t, exec (.lclaim f) s = Outcome.next t ∧ t.blk.wait = some (.lclaim q f.d) ∧ t.blk.groups = keep ∧ t.blk.pc = b.pc ∧
         (t.core s.myCore).claims = [s.cur])) ∧
   (∀ (c h q : Nat) (rest : List Nat) (d : BitVec 6) (s : State), (s.core c).claims = h :: rest → (s.core c).laneWait = false →
     (s.core c).lentStage = 0 → coreOf h = c →
     let b := s.blkAt h
     let new := (s.takeable c b.stage).take (max (min ((q + 15) / 16) b.lmax) b.lmin - b.groups.length)
     b.wait = some (.lclaim q d) → b.rep = none → b.pops = [] → b.boundTo d = none → b.lmin ≤ b.groups.length + new.length →
     b.lmin ≤ b.groups.length + (s.takeable c b.stage).length →
     ∃ t, exec (.lclaimGrant c) s = Outcome.next t ∧ (t.blkAt h).groups = b.groups ++ new ∧ (t.blkAt h).wait = none ∧
       (t.core c).claims = rest ∧ (t.blkAt h).pc = b.pc + (if b.pcLit then 16 else 8) ∧
       (d ≠ 0 → (t.blkAt h).getX d = BitVec.ofNat 64 (16 * (b.groups ++ new).length))) ∧
   (∀ (f : FmtA) (s : State), Runs s f.gm [] → (∀ p ∈ s.blk.pend, ∀ v w e, p.dest ≠ .vel v w e) →
     (∀ e ∈ s.blk.sq, (∀ es sc, e ≠ .store es sc true) ∧ ∀ g, e ≠ .gather g) →
     exec (.lrelease f) s = Outcome.next (s.after f.lit fun b => { b with groups := [], freshLanes := true })))

/-- An access of `n` bytes that its checks let through: no acquire of the hart is in flight (R200), and it reaches physical address pa
(R411). -/
structure Sys2Proof.Machine.Reaches (s : State) (lit : Option Word) (k : AKind) (acc : Access) (va n pa : Nat) : Prop where
  ready : s.blk.memReady = true
  page : ∃ x, (s.opened lit).probe k acc va n 0 = ProbeRes.ok pa x

/-- Effective addresses (R410), and the value that a load of n bytes puts into X[d] (R412). -/
def Sys2Proof.Machine.eaLoad (b : Block) (f : FmtM) : Nat :=
  (b.getX f.base + b.getX f.index <<< f.shift.toNat + f.lit.getD (f.off.signExtend 64)).toNat
def Sys2Proof.Machine.eaAtomic (b : Block) (f : FmtM) : Nat := (b.getX f.base + f.lit.getD (f.off.signExtend 64)).toNat
def Sys2Proof.Machine.loaded (signed : Bool) (n v : Nat) : Word :=
  if signed then ((BitVec.ofNat (8 * n) v).signExtend 64) else ((BitVec.ofNat (8 * n) v).setWidth 64)

/-- The loads: bytes, and whether the value is sign-extended (R412, R413). -/
def Sys2Proof.Machine.loadTable : List ((FmtM → Instr) × Nat × Bool) :=
  [(.lds8, 1, true), (.lds16, 2, true), (.lds32, 4, true), (.ldz8, 1, false), (.ldz16, 2, false), (.ldz32, 4, false), (.ld64, 8, false)]

/-- A load that leaves the core: its destination waits, its request is the newest packet, bound for the home of its address. -/
def Sys2Proof.Machine.RequestSent (s t : State) (lit : Option Word) (p : PendLoad → Prop) (op : HomeOp) (pa : Nat) : Prop :=
  (∃ q, t.blk.pend = s.blk.pend ++ [q] ∧ p q ∧
    ∃ k r, t.ms.packets = s.ms.packets ++ [k] ∧ k.msg = .req r ∧ k.dst = .stack (stackOf pa) ∧ r.id = q.id ∧ r.pa = pa ∧ r.op = op ∧
      r.src = .core s.myCore) ∧
  t.blk.x = s.blk.x ∧ t.blk.pc = s.blk.pc + (if lit.isSome then 16 else 8) ∧ t.ms.mem = s.ms.mem ∧ t.ms.slice = s.ms.slice

/-- R157 to R159, R410, R412: a scalar load takes the bytes of the youngest older store of its hart that covers it, or at CORE scope
those of an L1 line in which they are all valid; X[d] receives them at once. Otherwise its request leaves for the home: at CORE scope
with CACHE banks for a fill of the line, else for its bytes. What it finds among the older stores: the value of the youngest that overlaps
it, when that one is a scalar store that covers it; an older store that overlaps it otherwise is waited for; one that does not is passed.
Where the rules leave a point to the model, it follows log entries 14 and 23. -/
def Obligations.ScalarLoads : Prop :=
  (∀ p ∈ loadTable, ∀ (f : FmtM) (s : State) (pa : Nat), Runs s f.gm [f.base, f.index, f.d] →
     let va := eaLoad s.blk f
     let n := p.2.1
     let c := s.core s.myCore
     Reaches s f.lit .load .load va n pa →
     (∀ v, s.blk.searchStores pa n = .forward v →
       exec (p.1 f) s = Outcome.next ((s.tlbTouch va).after f.lit fun b => b.setX f.d (loaded p.2.2 n v))) ∧
     (s.blk.searchStores pa n = .none → cacheable pa = true → f.scope = 0 → c.l1Ways ≠ [] → s.coreLocked s.myCore pa n = false →
       (∀ v, c.l1Read pa n = some v → (∀ q ∈ s.blk.pend, q.covers pa n = false) →
         exec (p.1 f) s = Outcome.next ((((s.tlbTouch va).updCore s.myCore fun k => k.l1Touch pa).seeBytes s.myCore pa n).after f.lit fun b =>
           b.setX f.d (loaded p.2.2 n v))) ∧
       (c.l1Read pa n = none → s.wbInFlight s.myCore pa = false → ∃ t, exec (p.1 f) s = Outcome.next t ∧
         RequestSent s t f.lit (fun q => q.dest = .x f.d p.2.2 (8 * n) ∧ q.pa = pa ∧ q.n = n ∧ q.fill = true ∧ q.acquire = none) .fill pa)) ∧
     (s.blk.searchStores pa n = .none → cacheable pa = true → f.scope ≠ 0 ∨ c.l1Ways = [] → s.wbInFlight s.myCore pa = false →
       ∃ t, exec (p.1 f) s = Outcome.next t ∧
         RequestSent s t f.lit (fun q => q.dest = .x f.d p.2.2 (8 * n) ∧ q.pa = pa ∧ q.n = n ∧ q.fill = false ∧ q.acquire = none)
           (.read n) pa) ∧
     (∀ a l, aperture pa = .host a → s.blk.searchStores pa n = .none →
       s.ms.sysRead s.myPasid (0x300000000000 + a) n = some l →
       exec (p.1 f) s = Outcome.next ((s.tlbTouch va).after f.lit fun b => b.setX f.d (loaded p.2.2 n (ofLe l))))) ∧
  (∀ (es : List SqOp) (pa n a m v : Nat) (sc : Scope),
     (a ≤ pa → pa + n ≤ a + m → 0 < n →
       sqSearch (.store [(a, m, v)] sc false :: es) pa n = .forward (v / 2 ^ (8 * (pa - a)) % 2 ^ (8 * n))) ∧
     (a < pa + n → pa < a + m → (pa < a ∨ a + m < pa + n) → sqSearch (.store [(a, m, v)] sc false :: es) pa n = .wait) ∧
     (a + m ≤ pa ∨ pa + n ≤ a → sqSearch (.store [(a, m, v)] sc false :: es) pa n = sqSearch es pa n) ∧
     (a < pa + n → pa < a + m → sqSearch (.store [(a, m, v)] sc true :: es) pa n = .wait))

/-- The stores (R412). -/
def Sys2Proof.Machine.storeTable : List ((FmtM → Instr) × Nat) := [(.st8, 1), (.st16, 2), (.st32, 4), (.st64, 8)]

/-- The AMOs on words of 4 or 8 bytes (R414). -/
def Sys2Proof.Machine.amoTable : List ((FmtM → Instr) × Nat × AmoOp) :=
  ([true, false].flatMap fun dbl =>
    let n := if dbl then 8 else 4
    ([(.amoadd dbl, n, .add), (.amoand dbl, n, .and), (.amoor dbl, n, .or), (.amoxor dbl, n, .xor), (.amomin dbl, n, .min),
      (.amomax dbl, n, .max), (.amominn dbl, n, .minn), (.amomaxn dbl, n, .maxn), (.amoswp dbl, n, .swp), (.amocas dbl, n, .cas)] :
      List ((FmtM → Instr) × Nat × AmoOp))) ++ [(.amofadd, 4, .faddF32)]

/-- The state after an instruction that put `e` into the store queue of the hart. -/
def Sys2Proof.Machine.State.queued (s : State) (lit : Option Word) (e : SqOp) : State := s.after lit fun b => { b with sq := b.sq ++ [e] }

/-- R410, R412 to R414, R417: stores, release stores, AMOs and line write-backs become the newest entry of the store queue, with the
physical address, the bytes and the scope; memory changes only when the entry is performed. An AMO's result is then due in X[d].
Where the rules leave a point to the model, it follows log entry 43. -/
def Obligations.StoresAndAmos : Prop :=
  (∀ p ∈ storeTable, ∀ (f : FmtM) (s : State) (pa : Nat), Runs s f.gm [f.base, f.index, f.d] → s.blk.sq.length < 16 →
    Reaches s f.lit .store .store (eaLoad s.blk f) p.2 pa →
    exec (p.1 f) s = Outcome.next ((s.tlbTouch (eaLoad s.blk f)).queued f.lit
      (.store [(pa, p.2, (s.blk.getX f.d).toNat % 2 ^ (8 * p.2))] (effScope pa (scopeOf f.scope.toNat)) false))) ∧
  (∀ (dbl : Bool) (f : FmtM) (s : State) (pa : Nat), Runs s f.gm [f.base, f.index, f.d] → s.blk.sq.length < 16 →
    s.blk.releasing = false → s.blk.rel = .none → s.peerWrites = false →
    let n := if dbl then 8 else 4
    Reaches s f.lit .store .store (eaLoad s.blk f) n pa →
    exec (.stl dbl f) s = Outcome.next ((s.tlbTouch (eaLoad s.blk f)).queued f.lit
      (.release (scopeOf f.scope.toNat) (some (pa, n, (s.blk.getX f.d).toNat % 2 ^ (8 * n))) false .drain false))) ∧
  (∀ p ∈ amoTable, ∀ (f : FmtM) (s : State) (pa : Nat), Runs s f.gm [f.base, f.index, f.d] → s.blk.sq.length < 16 →
    Reaches s f.lit .amo .atomic (eaAtomic s.blk f) p.2.1 pa → (∀ off, aperture pa ≠ .peer off) →
    ∃ t q, exec (p.1 f) s = Outcome.next t ∧ t.blk.pend = s.blk.pend ++ [q] ∧ q.dest = .x f.d false (8 * p.2.1) ∧ q.amo = true ∧
      t.blk.sq = s.blk.sq ++ [.amo q.id p.2.2 pa p.2.1 ((s.blk.getX f.index).toNat % 2 ^ (8 * p.2.1))
        ((s.blk.getX f.d).toNat % 2 ^ (8 * p.2.1))] ∧
      t.blk.x = s.blk.x ∧ t.blk.pc = s.blk.pc + (if f.lit.isSome then 16 else 8) ∧ t.ms.mem = s.ms.mem ∧ t.ms.slice = s.ms.slice) ∧
  (∀ p ∈ ([(.cwb, false), (.cflush, true)] : List ((FmtM → Instr) × Bool)), ∀ (f : FmtM) (s : State) (x : Xlat),
    Runs s f.gm [f.base, f.index] → s.blk.sq.length < 16 → s.blk.memReady = true →
    let va := eaLoad s.blk f
    findPage (s.core s.myCore) s.blk.xbuf s.blk.ctx false va = some (some x) →
    exec (p.1 f) s = Outcome.next (if cacheable (x.phys va) then (s.tlbTouch va).queued f.lit (.writeBack (x.phys va / 64) p.2 false)
      else (s.tlbTouch va).after f.lit id))

/-- R306, R340, R410, R411: a computed target with any of bits 2..0 set raises ALIGN at the transfer, and no link is written. An access whose
address is not a multiple of its size raises ALIGN with the address in TVA, before any other check; nothing is loaded or stored. -/
def Obligations.Misalignment : Prop :=
  (∀ (f : FmtA) (s : State), Runs s f.gm [f.a, f.b, f.d] → (opA s.blk f).toNat % 8 ≠ 0 →
     ∀ p ∈ ([.jmp, .ret, .callr] : List (FmtA → Instr)),
       exec (p f) s = Outcome.next ((s.opened f.lit).takeTrap { cause := .align, access := .fetch, va := opA s.blk f } f.lit.isSome)) ∧
  ((∀ p ∈ loadTable, ∀ (f : FmtM) (s : State), Runs s f.gm [f.base, f.index, f.d] → s.blk.memReady = true →
     eaLoad s.blk f % p.2.1 ≠ 0 → exec (p.1 f) s = Outcome.next ((s.opened f.lit).takeTrap
       { cause := .align, access := .load, va := BitVec.ofNat 64 (eaLoad s.blk f) } f.lit.isSome)) ∧
   (∀ p ∈ storeTable, ∀ (f : FmtM) (s : State), Runs s f.gm [f.base, f.index, f.d] → s.blk.memReady = true → s.blk.sq.length < 16 →
     eaLoad s.blk f % p.2 ≠ 0 → exec (p.1 f) s = Outcome.next ((s.opened f.lit).takeTrap
       { cause := .align, access := .store, va := BitVec.ofNat 64 (eaLoad s.blk f) } f.lit.isSome)) ∧
   (∀ p ∈ amoTable, ∀ (f : FmtM) (s : State), Runs s f.gm [f.base, f.index, f.d] → s.blk.memReady = true → s.blk.sq.length < 16 →
     eaAtomic s.blk f % p.2.1 ≠ 0 → exec (p.1 f) s = Outcome.next ((s.opened f.lit).takeTrap
       { cause := .align, access := .atomic, va := BitVec.ofNat 64 (eaAtomic s.blk f) } f.lit.isSome)))
/-! ## Vector accesses, fences, caches -/

/-- A vector memory instruction runs: lanes, registers and reads of the hart leave it free to go on (R293, R287, R116, R200). -/
structure Sys2Proof.Machine.VMemRuns (s : State) (f : FmtW) : Prop where
  regs : VRuns s [f.vl, f.base, f.stride] [f.vd, f.vi]
  ready : s.blk.memReady = true
  room : s.blk.sq.length < 16
  ids : s.ms.nextId + 16 * s.blk.lanes + 2 ≤ 2 ^ 60

/-- Element addresses (R366). -/
def Sys2Proof.Machine.baseOf (b : Block) (f : FmtW) : Word := b.getX f.base + f.lit.getD (f.off.signExtend 64)
def Sys2Proof.Machine.unitEa (b : Block) (f : FmtW) (e : Nat) : Nat := (baseOf b f + BitVec.ofNat 64 (e * (fmtBits f.fmt.toNat / 8))).toNat
def Sys2Proof.Machine.strideEa (b : Block) (f : FmtW) (e : Nat) : Nat := (baseOf b f + BitVec.ofNat 64 e * b.getX f.stride).toNat
def Sys2Proof.Machine.indexEa (b : Block) (f : FmtW) (e : Nat) : Nat :=
  (baseOf b f + (if fmtBits f.fmt.toNat = 64 then el b f.vi 64 e else (el b f.vi 32 e).signExtend 64)).toNat

/-- The elements that an instruction does, in ascending order: active, below VL at width W, not below ESTART (R293, R366). -/
def Sys2Proof.Machine.doneList (b : Block) (f : FmtW) (W : Nat) : List Nat := (List.range (vlOf b f.vl W)).filter (doneNow b f.gm)

/-- Every element of a list reaches its physical address in device memory or scratch (R411). -/
def Sys2Proof.Machine.AllReach (s : State) (f : FmtW) (k : AKind) (acc : Access) (ea : Nat → Nat) (pas : Nat → Nat) (es : List Nat) :
    Prop :=
  ∀ e ∈ es, cacheable (pas e) = true ∧ ∃ x, (s.opened f.lit).probe k acc (ea e) (fmtBits f.fmt.toNat / 8) e = ProbeRes.ok (pas e) x

/-- R366, R367, R369, R412: VLD, VLDS and VLDFF take each element from the L1 lines that hold it at CORE scope, or send one request for it,
in ascending order; VST and VSTS queue the elements as one store; VLDX and VSTX go as one gather request; VAMOADD queues its elements as
atomic adds that follow one another. Every form begins at its first element here: none of its elements was sent before.
Where the rules leave a point to the model, it follows log entries 28 and 42. -/
def Obligations.VectorMemory : Prop :=
  ∀ (f : FmtW) (s : State) (pas : Nat → Nat), laneFmt f.fmt = true → VMemRuns s f → s.blk.sentTo = 0 →
    let b := s.blk
    let w := fmtBits f.fmt.toNat
    let c := s.core s.myCore
    let es := doneList b f w
    let xs := doneList b f (max 32 w)
    (∀ p ∈ ([(.vld, unitEa b f), (.vlds, strideEa b f), (.vldff, unitEa b f)] : List ((FmtW → Instr) × (Nat → Nat))),
      AllReach s f .load .load p.2 pas es → b.sq = [] → b.pend = [] →
      (∀ vals : Nat → Nat, f.scope = 0 → c.l1Ways ≠ [] →
        (∀ e ∈ es, c.l1Read (pas e) (w / 8) = some (vals e) ∧ s.coreLocked s.myCore (pas e) (w / 8) = false) →
        ∃ t, exec (p.1 f) s = Outcome.next t ∧ t.blk.pend = [] ∧ t.blk.pc = b.pc + (if f.lit.isSome then 16 else 8) ∧
          Lanewise w (vlOf b f.vl w) (doneNow b f.gm) (b.getV f.vd) (t.blk.getV f.vd) (fun e => BitVec.ofNat w (vals e)) ∧
          (∀ v, v ≠ f.vd → t.blk.getV v = b.getV v) ∧ t.ms = s.ms) ∧
      (f.scope ≠ 0 → (∀ e ∈ es, s.wbInFlight s.myCore (pas e) = false) →
        ∃ t, exec (p.1 f) s = Outcome.next t ∧
          t.blk.pend.map (fun q => (q.dest, q.pa, q.n)) = es.map (fun e => (Dest.vel f.vd (8 * (w / 8)) e, pas e, w / 8)) ∧
          t.blk.v = b.v ∧ t.blk.pc = b.pc + (if f.lit.isSome then 16 else 8) ∧ t.ms.mem = s.ms.mem ∧ t.ms.slice = s.ms.slice)) ∧
    (∀ p ∈ ([(.vst, unitEa b f), (.vsts, strideEa b f)] : List ((FmtW → Instr) × (Nat → Nat))),
      AllReach s f .store .store p.2 pas es →
      exec (p.1 f) s = Outcome.next (if es = [] then s.after f.lit id else
        (s.vTouch (es.map fun e => (e, p.2 e, pas e))).queued f.lit (.store (es.map fun e => (pas e, w / 8, (el b f.vd w e).toNat)) (scopeOf f.scope.toNat) true))) ∧
    (let data := xs.map fun e => (e, pas e, (el b f.vd w e).toNat)
     xs ≠ [] →
     (AllReach s f .store .store (indexEa b f) pas xs →
       ∃ t g, exec (.vstx f) s = Outcome.next t ∧ t.blk.sq = b.sq ++ [.gather g] ∧ g.write = true ∧ g.n = w / 8 ∧ g.elems = data ∧
         t.blk.v = b.v ∧ t.ms.mem = s.ms.mem ∧ t.blk.pc = b.pc + (if f.lit.isSome then 16 else 8)) ∧
     (AllReach s f .amo .atomic (indexEa b f) pas xs →
       ∃ t, exec (.vamoadd f) s = Outcome.next t ∧ t.blk.sq = b.sq ++ [.amoSeq data (w / 8) none b.pc] ∧
         t.blk.v = b.v ∧ t.ms.mem = s.ms.mem ∧ t.blk.pc = b.pc + (if f.lit.isSome then 16 else 8))) ∧
    (AllReach s f .load .load (indexEa b f) pas xs → xs ≠ [] → b.pend = [] → (∀ e ∈ xs, s.wbInFlight s.myCore (pas e) = false) →
      ∃ t q k g, exec (.vldx f) s = Outcome.next t ∧ t.blk.pend = [q] ∧ (∃ e, q.dest = .vel f.vd w e) ∧
        t.ms.packets = s.ms.packets ++ [k] ∧ k.msg = .gather g ∧ g.id = q.id ∧ g.write = false ∧
        g.elems = xs.map (fun e => (e, pas e, 0)) ∧ t.blk.v = b.v ∧ t.blk.pc = b.pc + (if f.lit.isSome then 16 else 8))

/-- R214, R269, R367, R368: where element k of a vector access is the first that raises a trap, the elements below k are done before the trap
is taken: a store sends them and stays until they have been performed; with none left to send, and all performed, the trap is taken. VLDFF
instead shortens the vector to k, if an element below k was active and the cause is ALIGN, XLATE or PERM.
Where the rules leave a point to the model, it follows log entry 28. -/
def Obligations.VectorAccessFaults : Prop :=
  ∀ (f : FmtW) (s : State) (pas : Nat → Nat) (k : Nat) (r : FaultRec), laneFmt f.fmt = true → VMemRuns s f → s.blk.sq = [] →
    let b := s.blk
    let w := fmtBits f.fmt.toNat
    let below := (doneList b f w).filter (· < k)
    k ∈ doneList b f w →
    (AllReach s f .store .store (unitEa b f) pas below → (s.opened f.lit).probe .store .store (unitEa b f k) (w / 8) k = ProbeRes.trap r →
      (b.sentTo = 0 → below ≠ [] → ∃ t, exec (.vst f) s = Outcome.next t ∧ t.blk.wait = some .retry ∧ t.blk.sentTo = k ∧
        t.blk.estart = b.estart ∧ t.blk.pc = b.pc ∧ t.blk.level = b.level ∧
        t.blk.sq = [.store (below.map fun e => (pas e, w / 8, (el b f.vd w e).toNat)) (scopeOf f.scope.toNat) true]) ∧
      ((∀ e ∈ below, e < b.sentTo) → b.unacked = [] → (∀ q ∈ b.pend, q.id < 2 ^ 60) → b.peerBad = none →
        exec (.vst f) s = Outcome.next
          (((s.opened f.lit).vTouch (below.map fun e => (e, unitEa b f e, pas e))).takeTrap r f.lit.isSome))) ∧
    (AllReach s f .load .load (unitEa b f) pas below → (s.opened f.lit).probe .load .load (unitEa b f k) (w / 8) k = ProbeRes.trap r →
      b.pend = [] → b.sentTo = 0 → f.scope ≠ 0 → (∀ e ∈ below, s.wbInFlight s.myCore (pas e) = false) →
      (∃ u : State, exec (.vld f) s = Outcome.next (u.takeTrap r f.lit.isSome) ∧ u.blk.pc = b.pc ∧
        u.blk.pend.map (fun q => (q.dest, q.pa)) = below.map (fun e => (Dest.vel f.vd (8 * (w / 8)) e, pas e))) ∧
      (below ≠ [] → r.cause = .align ∨ r.cause = .xlate ∨ r.cause = .perm →
        ∃ t, exec (.vldff f) s = Outcome.next t ∧ (f.vl ≠ 0 → t.blk.getX f.vl = BitVec.ofNat 64 k) ∧ t.blk.level = b.level ∧
          t.blk.pc = b.pc + (if f.lit.isSome then 16 else 8)))

/-- The clean bytes of the core's L1 become invalid: an acquire above CORE scope (R200). -/
def Sys2Proof.Machine.State.acquired (s : State) (sc : Scope) : State :=
  if sc = .core then s else s.updCore s.myCore fun k =>
    { k with l1 := k.l1.map (fun l => { l with valid := l.dirty }), acquires := k.acquires + 1 }

/-- R200, R202, R413, R415: an acquire fence completes once the hart's reads have returned, with the clean bytes of L1 invalid; a release
fence whose release has nothing left to do completes, else it puts its release behind the hart's stores and waits for it. LDA reads as a
load does, then acquires.
Where the rules leave a point to the model, it follows log entries 15, 43, 81 and 99. -/
def Obligations.Fences : Prop :=
  (∀ (f : FmtM) (s : State), Runs s f.gm [] → s.blk.releasing = false ∨ s.blk.rel ≠ .none →
    let sc := scopeOf f.scope.toNat
    let calm := fun (sc : Scope) => (s.quiescent sc = true ∨ s.blk.rel = .done) ∧ s.blk.failedWrite = none
    (s.blk.pend = [] → exec (.fenceAcq f) s = Outcome.next ((s.acquired sc).after f.lit id)) ∧
    (calm sc → exec (.fenceRel f) s = Outcome.next (s.after f.lit id)) ∧
    (calm sc → s.blk.pend = [] → exec (.fenceAr f) s = Outcome.next ((s.acquired sc).after f.lit id)) ∧
    (calm .device → exec (.ifence f) s = Outcome.next (((s.updCore s.myCore fun k => { k with icache := [] }).dropFetches s.myCore fun _ => true).after f.lit id)) ∧
    (s.quiescent sc = false → s.blk.rel = .none →
      ∀ p ∈ ([.fenceRel, .fenceAr] : List (FmtM → Instr)), ∃ t, exec (p f) s = Outcome.next t ∧ t.blk.wait = some .release ∧
        t.blk.rel = .pending ∧ t.blk.pc = s.blk.pc ∧ t.blk.sq = s.blk.sq ++ [.release sc none false .drain true])) ∧
  (∀ (f : FmtM) (s : State), Runs s f.gm [] → s.blk.sq = [] → s.blk.pend = [] → s.blk.unacked = [] →
    (∀ t ∈ s.blk.live, ∀ q, engineOf t.ins = some q → f.off.toNat.testBit (fenceBit q) = true → t.phase = .finished) →
    exec (.qfence f) s = Outcome.next (s.after f.lit id)) ∧
  (∀ (dbl : Bool) (f : FmtM) (s : State) (pa : Nat), Runs s f.gm [f.base, f.index, f.d] → s.blk.releasing = false →
    let va := eaLoad s.blk f
    let n := if dbl then 8 else 4
    Reaches s f.lit .load .load va n pa → s.blk.searchStores pa n = .none → cacheable pa = true →
    (∀ v, f.scope = 0 → s.coreLocked s.myCore pa n = false → (s.core s.myCore).l1Ways ≠ [] → (s.core s.myCore).l1Read pa n = some v →
      (∀ q ∈ s.blk.pend, q.covers pa n = false) →
      exec (.lda dbl f) s = Outcome.next ((((s.tlbTouch va).updCore s.myCore fun k => k.l1Touch pa).seeBytes s.myCore pa n).after f.lit fun b =>
        b.setX f.d (loaded false n v))) ∧
    (f.scope ≠ 0 → s.wbInFlight s.myCore pa = false → ∃ t, exec (.lda dbl f) s = Outcome.next t ∧
      RequestSent s t f.lit (fun q => q.dest = .x f.d false (8 * n) ∧ q.pa = pa ∧ q.n = n ∧
        q.acquire = some (scopeOf f.scope.toNat)) (.read n) pa))

/-- R417, R418, R419: CINV makes the clean bytes of a line of L1 invalid; PREF never waits and changes no register and no memory; STPATCH
sends one write that every instruction cache must acknowledge, 160 in all, and waits for them.
Where the rules leave a point to the model, it follows log entries 54, 57 and 69. -/
def Obligations.CacheOperations : Prop :=
  (∀ (f : FmtM) (s : State) (x : Xlat), Runs s f.gm [f.base, f.index] → s.blk.memReady = true →
    let va := eaLoad s.blk f
    findPage (s.core s.myCore) s.blk.xbuf s.blk.ctx false va = some (some x) → cacheable (x.phys va) = true →
    exec (.cinv f) s = Outcome.next (((s.tlbTouch va).updCore s.myCore fun k =>
      { k with l1 := k.l1.map fun l => if l.line = x.phys va / 64 then { l with valid := l.dirty } else l }).after f.lit id)) ∧
  (∀ (f : FmtM) (s : State), Runs s f.gm [f.base, f.index] →
    (∃ t, exec (.pref f) s = Outcome.next t ∧ t.blk = s.blk.moved f.lit ∧ t.ms.mem = s.ms.mem ∧ t.ms.slice = s.ms.slice ∧
      (t.core s.myCore).l1 = (s.core s.myCore).l1) ∧
    (∀ x, let va := eaLoad s.blk f
      findPage (s.core s.myCore) s.blk.xbuf s.blk.ctx false va = some (some x) → x.allows s.blk.level .load = true →
      (∃ a, aperture (x.phys va) = .device a) → s.wbInFlight s.myCore (x.phys va) = false → f.d = 1 →
      ∃ t k r, exec (.pref f) s = Outcome.next t ∧ t.ms.packets = s.ms.packets ++ [k] ∧ k.msg = .req r ∧ r.pa = x.phys va ∧ r.op = .read 1)) ∧
  (∀ (f : FmtM) (s : State) (pa : Nat), Runs s f.gm [f.base, f.index, f.d] →
    Reaches s f.lit .store .store (eaLoad s.blk f) 8 pa → s.blk.searchStores pa 8 = .none → s.wbInFlight s.myCore pa = false →
    s.readsOut = false → cacheable pa = true →
    ∃ t k r, exec (.stpatch f) s = Outcome.next t ∧ t.blk.wait = some (.patch 160) ∧ t.ms.packets = s.ms.packets ++ [k] ∧ k.msg = .req r ∧
      r.op = .patch (s.blk.getX f.d).toNat ∧ r.pa = pa ∧ t.blk.x = s.blk.x ∧ t.blk.pc = s.blk.pc)
/-! ## Group 6: tile instructions -/

/-- The engine instructions of format T, with the X registers that they read and the V registers whose values they wait for. -/
noncomputable def Sys2Proof.Machine.tileT : List ((FmtT → Instr) × (FmtT → List (BitVec 6)) × (FmtT → List (BitVec 5))) :=
  (([.tmma, .tmmas, .tmmaq, .tzero, .taccl, .text, .tmap, .tred, .ttrn, .tcvt, .tscale, .trand, .tplane, .tplaneRw, .tpacksMeta,
    .tpacksSel, .tsend, .trecv, .tchain, .cpass] : List (FmtT → Instr)).map fun i => (i, (fun _ => []), fun _ => [])) ++
  (([.tew, .tfill, .tmcast, .tscan, .tscanc, .cinit] : List (FmtT → Instr)).map fun i => (i, (fun f => [f.xs]), fun _ => [])) ++
  ([(.topa, (fun f => [f.xs]), fun f => [f.ta.setWidth 5, f.tb.setWidth 5]), (.textv, (fun f => [f.xs]), fun f => [f.td.setWidth 5]),
   (.trowv, (fun f => [f.xs]), fun f => [f.td.setWidth 5]), (.tvrow, (fun f => [f.xs]), fun f => [f.ta.setWidth 5])] :
    List ((FmtT → Instr) × (FmtT → List (BitVec 6)) × (FmtT → List (BitVec 5))))

/-- Those of format C, with the X registers that they name. -/
noncomputable def Sys2Proof.Machine.tileC : List ((FmtC → Instr) × (FmtC → List (BitVec 6))) :=
  (([.tld, .tst, .tgath, .tscat] : List (FmtC → Instr)).map fun i => (i, fun f => [f.base, f.xo])) ++
  (([.tlda, .tsta, .tprobe] : List (FmtC → Instr)).map fun i => (i, fun f => [f.base, f.xo, f.token]))

/-- What issue does with an engine instruction i whose registers are at hand, no younger one of the block having been refused: when its
checks pass it joins the tile instructions of the block with what it captures; when one fails and none is unretired, the trap is taken; with
older ones unretired it joins them as refused, and the hart waits (R127, R134, R239). -/
def Sys2Proof.Machine.Accepted (i : Instr) (lit : Option Word) (s : State) : Prop :=
  let o := s.opened lit
  let b := s.blk
  (∀ u, o.accept i none = AccRes.ok u → ∃ t r, exec i s = Outcome.next t ∧ t.blk.trecs = b.trecs ++ [r] ∧ r.ins = i ∧ r.pc = b.pc ∧ r.seq = b.seqNext ∧
    r.phase = .queued ∧ r.fault = none ∧ r.refused = false ∧ r.fctl = b.ctl.fctl ∧ r.seed = b.ctl.seed ∧ r.stripb = b.ctl.stripb ∧
    r.srgn = b.ctl.srgn.toList ∧ t.blk.seqNext = b.seqNext + 1 ∧ t.blk.pc = b.pc + (if lit.isSome then 16 else 8) ∧ t.blk.x = b.x ∧
    t.blk.p = b.p ∧ t.blk.v = b.v ∧ t.blk.m = b.m ∧ t.blk.d = b.d ∧ t.blk.ctl = b.ctl) ∧
  (∀ u r, o.accept i none = AccRes.trap u r → b.live = [] → exec i s = Outcome.next (u.takeTrap r lit.isSome)) ∧
  (∀ u r, o.accept i none = AccRes.trap u r → b.live ≠ [] → ∃ t q, exec i s = Outcome.next t ∧ t.blk.trecs = b.trecs ++ [q] ∧ q.refused = true ∧
    q.fault = some r ∧ t.blk.wait = some .retry ∧ t.blk.pc = b.pc)

/-- A matrix instruction's operands: its T names and A name are declared and free of a parked instruction or a chain (R375, R267, R435). -/
structure Sys2Proof.Machine.MmaNames (b : Block) (f : FmtT) : Prop where
  ta : b.badT f.ta = false
  tb : b.badT f.tb = false
  td : b.badA f.td = false
  whole : (b.accOf f.td).empty = false
  free : b.lateDst none f.td = false

/-- R127, R134, R239, R248, R376, R387, R468: acceptance of every instruction that uses an engine. TMMA is accepted when A is PLANE and B is
ROW, neither SP, A's rows and B's columns are within the accumulator, B's rows are A's columns, a B of an X format has KAX, an A of an X
format has a multiple of 128 columns, and the formats are a pair of R248; the first of the shape conditions that fails raises SHAPE with its
operand, and a wrong pair raises FORMAT.
Where the rules leave a point to the model, it follows log entries 60 and 61. -/
def Obligations.TileAcceptance : Prop :=
  ((∀ p ∈ tileT, ∀ (f : FmtT) (s : State), Runs s f.gm (p.2.1 f) → s.blk.flawM = Vector.replicate 12 0 →
     (∀ v ∈ p.2.2 f, s.blk.vPending v = false ∧ s.blk.flawV[v.toNat]'(v.isLt) = 0) → (∀ t ∈ s.blk.live, t.refused = false) →
     Accepted (p.1 f) f.lit s) ∧
   (∀ p ∈ tileC, ∀ (f : FmtC) (s : State), Runs s f.gm (p.2 f) → s.blk.vPending f.layout = false → s.blk.flawV[f.layout.toNat]'(f.layout.isLt) = 0 →
     (∀ t ∈ s.blk.live, t.refused = false) → Accepted (p.1 f) f.lit s) ∧
   (∀ (f : FmtT) (s : State), 48 ≤ f.td.toNat → Runs s f.gm [] → (∀ t ∈ s.blk.live, t.refused = false) → Accepted (.tfree f) f.lit s)) ∧
  (∀ (f : FmtT) (s : State), MmaNames s.blk f → s.mayAccept (.tmma f) = true → fmtQI (Shape.fmt (s.blk.shapeOf f.ta)) = false →
     let a := s.blk.shapeOf f.ta
     let b := s.blk.shapeOf f.tb
     let acc := s.blk.accOf f.td
     let layouts := Shape.layout a = 2 ∧ Shape.layout b = 0 ∧ Shape.sp a = false
     let dims := Shape.rows a ≤ acc.rows ∧ Shape.cols b ≤ acc.cols ∧ Shape.rows b = Shape.cols a
     let scales := (fmtX (Shape.fmt b) = true → Shape.kax b = true) ∧ (fmtX (Shape.fmt a) = true → Shape.cols a % 128 = 0)
     let pair := ∃ c, classA (Shape.fmt a) = some c ∧ classA (Shape.fmt b) = some c ∧ acc.fmt = (if c = 1 then 0x21 else 0x20)
     (layouts → dims → scales → pair → ∃ u, s.accept (.tmma f) none = AccRes.ok u) ∧
     (Shape.layout a ≠ 2 → s.accept (.tmma f) none = AccRes.trap s (shapeFault f.ta)) ∧
     (Shape.layout a = 2 → Shape.layout b ≠ 0 → s.accept (.tmma f) none = AccRes.trap s (shapeFault f.tb)) ∧
     (layouts → acc.rows < Shape.rows a → s.accept (.tmma f) none = AccRes.trap s (shapeFault f.ta)) ∧
     (layouts → Shape.rows a ≤ acc.rows → acc.cols < Shape.cols b → s.accept (.tmma f) none = AccRes.trap s (shapeFault f.tb)) ∧
     (layouts → Shape.rows a ≤ acc.rows → Shape.cols b ≤ acc.cols → Shape.rows b ≠ Shape.cols a →
       s.accept (.tmma f) none = AccRes.trap s (shapeFault f.tb)) ∧
     (layouts → dims → scales → ¬pair → s.accept (.tmma f) none = AccRes.trap s formatFault))

/-- An instruction that retires at acceptance may go on: every older tile instruction is past its fault point, fewer than 16 are unretired
(R132, R134, R376). -/
def Sys2Proof.Machine.TileReady (s : State) : Prop := s.blk.pastFaults = true ∧ s.blk.live.length < 16

/-- R380 to R385, R134: TSHAPE writes half of a record, and TSHAPE.hi refuses a contradictory one; TDECL gives a name its record with a
zeroed current slot and two reservations, or a zeroed accumulator; TFREE ends a name, TVIEW makes one of another name's window; TSTAT tells
of a name.
Where the rules leave a point to the model, it follows log entries 26 and 60. -/
def Obligations.TileNames : Prop :=
  (∀ (f : FmtT) (s : State), Runs s f.gm [f.xs] → TileReady s →
    let b := s.blk
    let v := b.getX f.xs + f.lit.getD (f.imm.signExtend 64)
    let d := b.getD f.td.toNat
    let new : Shape := v ++ (d.extractLsb' 0 64)
    exec (.tshapeLo f) s = Outcome.next (s.after f.lit fun b => b.setD f.td.toNat ((d.extractLsb' 64 64) ++ v)) ∧
    (Shape.bad b.gen new = false → exec (.tshapeHi f) s = Outcome.next (s.after f.lit fun b => b.setD f.td.toNat new)) ∧
    (Shape.bad b.gen new = true → b.live = [] →
      exec (.tshapeHi f) s = Outcome.next ((s.opened f.lit).takeTrap (recordFault f.td.toNat) f.lit.isSome)) ∧
    (let o := b.getX f.xs
     viewFault f (s.opened f.lit) = none → exec (.tview f) s = Outcome.next (s.after f.lit fun b => b.setTname f.td.toNat
      { rcd := Shape.withPitch (b.getD f.tb.toNat) (Shape.pitch (b.shapeOf f.ta)), cur := 0, resv := []
        view := some { slotId := ((b.tname f.ta.toNat).map (·.cur)).getD 0, row0 := o.toNat / 2 ^ 32, col0 := o.toNat % 2 ^ 32 } })) ∧
    ((b.tname f.td.toNat).isNone → (b.aname f.td.toNat).isNone → f.mode = 0 →
      exec (.tstat f) s = Outcome.next (s.after f.lit fun b => b.setX f.xs 0)) ∧
    (∀ x, b.tname f.td.toNat = some x → f.td.toNat < 48 →
      (f.mode = 0 → ∃ v : Word, exec (.tstat f) s = Outcome.next (s.after f.lit fun b => b.setX f.xs v) ∧ v.getLsbD 0 = true ∧
        v.getLsbD 2 = x.view.isSome ∧ v.getLsbD 3 = x.chain.isSome ∧ v >>> 4 = 0) ∧
      (f.mode = 2 → exec (.tstat f) s = Outcome.next (s.after f.lit fun b => b.setX f.xs (x.rcd.extractLsb' 0 64))) ∧
      (f.mode = 3 → exec (.tstat f) s = Outcome.next (s.after f.lit fun b => b.setX f.xs (x.rcd.extractLsb' 64 64)))) ∧
    (∀ a, b.aname f.td.toNat = some a → 48 ≤ f.td.toNat → f.mode = 1 →
      (∀ t ∈ b.live, engineOf t.ins = some .matrix → t.phase = .finished) →
      exec (.tstat f) s = Outcome.next (s.after f.lit fun b => b.setX f.xs (if a.aov then 1 else 0))) ∧
    (f.mode = 5 → exec (.tstat f) s = Outcome.next (s.after f.lit fun b => b.setX f.xs (BitVec.ofNat 64 b.live.length))) ∧
    (1 ≤ f.mode.toNat → f.mode.toNat ≤ 4 → Block.badName b f.td = true → b.live = [] →
      exec (.tstat f) s = Outcome.next ((s.opened f.lit).takeTrap { cause := .tilestate } f.lit.isSome))) ∧
  (∀ (f : FmtT) (s : State), Runs s f.gm [] → TileReady s →
    let d : Shape := s.blk.getD f.ta.toNat
    let n := f.td.toNat
    (declFault f (s.opened f.lit) = none → n < 48 → ∃ t x y us vs, exec (.tdecl f) s = Outcome.next t ∧ t.blk.tname n = some x ∧
      (t.core s.myCore).slots = (s.core s.myCore).slots ++ [y] ∧ x.rcd = d ∧ x.cur = y.id ∧ x.resv = [(y.id, us), (0, vs)] ∧
      us.length = Shape.units d ∧ vs.length = Shape.units d ∧ y.units = us ∧ y.state = .ready ∧ y.content = 0 ∧ y.filled = true ∧
      y.owner = s.cur ∧ y.name = n ∧ t.blk.x = s.blk.x ∧ t.blk.pc = s.blk.pc + (if f.lit.isSome then 16 else 8)) ∧
    (declFault f (s.opened f.lit) = none → 48 ≤ n → Shape.dist d = false → ∃ t a, exec (.tdecl f) s = Outcome.next t ∧ t.blk.aname n = some a ∧
      a.rcd = d ∧ a.rows = Shape.rows d ∧ a.cols = Shape.cols d ∧ a.elems = List.replicate (a.rows * a.cols) 0 ∧ a.aov = false ∧
      a.empty = false ∧ t.blk.tnames = s.blk.tnames) ∧
    (∀ x, s.blk.tname n = some x → n < 48 → s.blk.lateDst none f.td = false → Block.unplaced s n = false →
      ∃ t, exec (.tfree f) s = Outcome.next t ∧ t.blk.tname n = none ∧ t.blk.x = s.blk.x ∧
        t.blk.pc = s.blk.pc + (if f.lit.isSome then 16 else 8)))

/-- R384, R429, R440: TWAIT completes once its slot is filled and no older instruction names its name, TWAIT.all once nothing older is
unretired, else the hart waits until then; TUNPIN releases its token, and a value that names none raises TOKEN; CBAR completes when its
completion has come, waits for it when it is under way, and else raises CARRY. -/
def Obligations.TileWaits : Prop :=
  (∀ (f : FmtT) (s : State), Runs s f.gm [] → TileReady s →
    let b := s.blk
    ((∀ t ∈ b.live, b.seqNext ≤ t.seq) → exec (.twaitAll f) s = Outcome.next (s.after f.lit id)) ∧
    ((∃ t ∈ b.live, t.seq < b.seqNext) → exec (.twaitAll f) s = Outcome.next ((s.opened f.lit).waitFor (.twait none 0 b.seqNext))) ∧
    (Block.badName b f.td = false →
      let id_ := ((b.tsrc f.td.toNat).map (·.slot)).getD 0
      (id_ = 0 ∨ s.slotFilled s.cur id_ = true → (∀ t ∈ b.live, f.td.toNat ∉ t.names) →
        exec (.twait f) s = Outcome.next (s.after f.lit id)) ∧
      (id_ ≠ 0 → s.slotFilled s.cur id_ = false →
        exec (.twait f) s = Outcome.next ((s.opened f.lit).waitFor (.twait (some f.td.toNat) id_ b.seqNext))))) ∧
  (∀ (h q : Nat) (s : State), (s.blkAt h).wait = some (.twait none 0 q) → (s.blkAt h).rep = none → (s.blkAt h).pops = [] →
    (∀ t ∈ (s.blkAt h).live, q ≤ t.seq) →
    exec (.twaitComplete h) s = Outcome.next (s.setBlkAt h ((s.blkAt h).moved (if (s.blkAt h).pcLit then some 0 else none)))) ∧
  (∀ (f : FmtC) (s : State), Runs s f.gm [f.token] → TileReady s →
    let v := s.blk.getX f.token
    ((∃ k ∈ s.blk.tokens, k.value = v) →
      exec (.tunpin f) s = Outcome.next (s.after f.lit fun b => { b with tokens := b.tokens.filter fun k => k.value != v })) ∧
    ((∀ k ∈ s.blk.tokens, k.value ≠ v) → s.blk.live = [] →
      exec (.tunpin f) s = Outcome.next ((s.opened f.lit).takeTrap { cause := .token, detail := v.toNat } f.lit.isSome))) ∧
  (∀ (f : FmtT) (s : State), Runs s f.gm [f.xs] → s.blk.live = [] →
    let n := (s.blk.getX f.xs + BitVec.ofNat 64 ((f.lit.map (·.toNat)).getD f.imm.toNat)).toNat % 2 ^ 32
    (s.blk.chain = none → exec (.cbar f) s = Outcome.next ((s.opened f.lit).takeTrap { cause := .carry, detail := 1 } f.lit.isSome)) ∧
    (∀ c, s.blk.chain = some c →
      (c.next ≤ n → exec (.cbar f) s = Outcome.next ((s.opened f.lit).takeTrap { cause := .carry, detail := 2 } f.lit.isSome)) ∧
      (n < c.next → n < c.done → exec (.cbar f) s = Outcome.next (s.after f.lit id)) ∧
      (n < c.next → c.done ≤ n → exec (.cbar f) s = Outcome.next ((s.opened f.lit).waitFor (.cbar n)))))

/-- R370: with nothing unretired, VTLD takes elements out of the current slot of its T name and VTST puts them there, at the offsets that
the index register gives; a name that is not declared, or is a view, raises TILESTATE.
Where the rules leave a point to the model, it follows log entries 4 and 71. -/
def Obligations.TileVectorMoves : Prop :=
  ∀ (f : FmtW) (s : State), laneFmt f.fmt = true → VRuns s [f.vl] [f.vd, f.vi] → s.blk.live = [] →
    let b := s.blk
    let w := fmtBits f.fmt.toNat
    let es := doneList b f (max 32 w)
    let off := fun e => ((el b f.vi 32 e).setWidth 64 + f.lit.getD (f.off.signExtend 64)).toNat
    (∀ (t : TName) (x : Slot), b.tname f.base.toNat = some t → t.view = none → s.slot s.myCore t.cur = some x →
      (∀ e ∈ es, off e % (w / 8) = 0 ∧ off e + w / 8 ≤ 4096 * Shape.units t.rcd) →
      (x.undef = 0 → x.bad = 0 → ∃ v, exec (.vtld f) s = Outcome.next (s.after f.lit fun b => (b.setV f.vd v).fullV f.vd) ∧
        Lanewise w (vlOf b f.vl (max 32 w)) (doneNow b f.gm) (b.getV f.vd) v (fun e => BitVec.ofNat w (x.content >>> (8 * off e)))) ∧
      (∃ u y, exec (.vtst f) s = Outcome.next u ∧ u.slot s.myCore t.cur = some y ∧ u.blk.v = b.v ∧ u.blk.x = b.x ∧
        u.blk.pc = b.pc + (if f.lit.isSome then 16 else 8) ∧ u.ms.mem = s.ms.mem ∧
        (∀ e ∈ es, (∀ e' ∈ es, off e' = off e → e' ≤ e) → BitVec.ofNat w (y.content >>> (8 * off e)) = el b f.vd w e) ∧
        (∀ p, (∀ e ∈ es, p < 8 * off e ∨ 8 * off e + w ≤ p) → y.content.testBit p = x.content.testBit p))) ∧
    (b.tname f.base.toNat = none ∨ (∃ t, b.tname f.base.toNat = some t ∧ t.view.isSome) →
      ∀ i ∈ ([.vtld, .vtst] : List (FmtW → Instr)),
        exec (i f) s = Outcome.next ((s.opened f.lit).takeTrap { cause := .tilestate } f.lit.isSome))

/-- The micro-operation that runs in an engine queue of a core, with its hart (R127). -/
def Sys2Proof.Machine.State.runningOn (s : State) (c : Nat) (q : EngineQ) : Option (Nat × TileRec) :=
  (s.blocksOf c).findSome? fun e =>
    (e.2.trecs.find? fun t => engineOf t.ins == some q && t.phase == .running && t.holds).map fun t => (e.1, t)

/-- The sum of the products of the first n steps from step t in cell (i, j) (R248). -/
def Sys2Proof.Machine.MatIn.partialSum (m : MatIn) (i j t n : Nat) : Int := ((List.range n).map fun u => m.intProduct i j (t + u)).sum

/-- R127, R235, R248, R270, R387, R391, R392: an engine that runs nothing starts the oldest micro-operation that may start, up to the end
that its operands and the points of R270 allow, which is the instruction's own when every source has arrived and no number of elements is
asked; TZERO clears what is left of an accumulator, and its AOV; n steps of an integer TMMA add n products to each accumulator element of the M × N cells, exactly while no sum
leaves 96 bits, and leave the others.
Where the rules leave a point to the model, it follows log entries 42 and 76. -/
def Obligations.TileEngines : Prop :=
  (∀ (c h n : Nat) (t : TileRec) (rest : List (Nat × TileRec)) (s : State),
    (∀ q, q = .matrix ∨ q = .scan → s.engineBusy c q = false → s.starters c q = (h, t) :: rest →
      (∃ f, t.ins = .tzero f ∨ t.ins = .topa f ∨ t.ins = .taccl f ∨ t.ins = .text f ∨ t.ins = .textv f ∨ t.ins = .tscan f) →
      (∀ e, s.chunkEnd h t n = some e →
        exec (.microOpStart c q n) s = Outcome.next (s.setRecAt h { t with phase := .running, chunk := e - t.progress })) ∧
      (n = 0 → (∀ x ∈ t.src, s.slotFilled h x.slot = true) → s.chunkEnd h t n = some (t.total (s.matIn h t))) ∧
      (∀ e, s.chunkEnd h t n = some e → t.progress < t.total (s.matIn h t) →
        t.progress < e ∧ e ≤ s.avail h t ∧ (e = t.total (s.matIn h t) ∨ t.mayStop (s.matIn h t) e = true))) ∧
    (s.engineBusy c .matrix = false → s.starters c .matrix = (h, t) :: rest →
      (∃ f, t.ins = .tmma f ∨ t.ins = .tmmaq f) → t.fault = none → t.progress < (s.matIn h t).steps →
      (∀ x ∈ t.src, s.slotFilled h x.slot = true) →
      ∃ e, exec (.microOpStart c .matrix n) s = Outcome.next (s.setRecAt h { t with phase := .running, chunk := e - t.progress }) ∧
        t.progress < e ∧ e ≤ (s.matIn h t).steps ∧ (n = 0 → e = (s.matIn h t).steps) ∧
        (e = (s.matIn h t).steps ∨ e % (s.matIn h t).groupSteps = 0))) ∧
  (∀ (c h n : Nat) (t : TileRec) (a : AName) (b : Block) (s : State), s.runningOn c .matrix = some (h, t) → aget s.blocks h = some b →
    t.names.getLast? = some n → b.aname n = some a → b.freeing = [] → s.flawIn h t = none →
    (∀ f, t.ins = .tzero f → ∃ u, exec (.microOpFinish c .matrix) s = Outcome.next u ∧
      (u.blkAt h).aname n = some { a with elems := a.elems.take t.progress ++ (a.elems.drop t.progress).map (fun _ => 0), aov := false } ∧ u.ms = s.ms) ∧
    (∀ f, t.ins = .tmma f →
      let m := s.matIn h t
      classA (Shape.fmt m.da) = some 1 → a.elems.length = a.rows * a.cols →
      ∃ u a', exec (.microOpFinish c .matrix) s = Outcome.next u ∧ (u.blkAt h).aname n = some a' ∧ u.ms = s.ms ∧
        a'.elems.length = a.elems.length ∧ (a.aov = true → a'.aov = true) ∧
        (∀ i j, i < a.rows → j < a.cols →
          let old := (a.elems[i * a.cols + j]?).getD 0
          let new := (a'.elems[i * a.cols + j]?).getD 0
          (i < Shape.rows m.da → j < Shape.cols m.db →
            (∀ k ≤ t.chunk, -2 ^ 95 ≤ old.toInt + m.partialSum i j t.progress k ∧ old.toInt + m.partialSum i j t.progress k < 2 ^ 95) →
            new.toInt = old.toInt + m.partialSum i j t.progress t.chunk) ∧
          (Shape.rows m.da ≤ i ∨ Shape.cols m.db ≤ j → new = old))))

/-- R129, R130, R132, R134, R135, R265, R267: a destination without units takes those of its name's reservation; the translate stage of a
copy adds the page that it needs, records the fault of the first element whose page fails, and passes the fault point after the last
element; the oldest instruction retires when its work is done, and its flags join FCTL; its fault is taken with TEPC its PC and TESTART its
element, and it is parked.
Where the rules leave a point to the model, it follows log entries 62 and 70. -/
def Obligations.TileProgress : Prop :=
  ∀ (h : Nat) (t : TileRec) (b : Block) (s : State), aget s.blocks h = some b → b.trecs = [t] → t.phase ≠ .parked →
    (∀ (d : TDst) (x : TName) (y : Slot) (us : List Nat) (rest : List (Nat × List Nat)), t.dst = [d] → s.slotPlaced h d.slot = false →
      s.slot (coreOf h) d.slot = some y → b.tname d.name = some x → x.resv = (0, us) :: rest →
      ((s.core (coreOf h)).slots.filter fun z => z.owner == h && z.name == d.name && z.placed && z.id != d.slot).length ≤ 1 →
      ∃ u, exec (.tileAccept h) s = Outcome.next u ∧ u.slot (coreOf h) d.slot = some { y with units := us, placed := true } ∧
        (u.blkAt h).tname d.name = some { x with resv := (d.slot, us) :: rest }) ∧
    (∀ f, t.ins = .tld f → b.frozen = false → t.faultPassed = false → t.fault = none → t.phase = .queued →
      (∀ d ∈ t.dst, s.slotPlaced h d.slot = true) →
      (t.need b (t.shape.count - t.xlated) t.xlated = .done →
        exec (.copyTranslatePage h) s = Outcome.next (s.setRecAt h { t with xlated := t.shape.count, faultPassed := true })) ∧
      (∀ e va x a, t.need b (t.shape.count - t.xlated) t.xlated = .page e va false →
        findPage (s.core (coreOf h)) b.ebuf b.ctx false va = some (some x) → x.allows b.level .load = true →
        aperture (x.phys va) = .device a → (x.fmt = 0 ∨ x.fmt = Shape.fmt t.shape) → (x.fmt = 0 → hasScales t.shape = false) →
        ∃ u, exec (.copyTranslatePage h) s = Outcome.next u ∧ (u.blkAt h).live = [{ t with xlated := e, held := t.held ++ [x] }]) ∧
      (∀ e va, t.need b (t.shape.count - t.xlated) t.xlated = .page e va false →
        findPage (s.core (coreOf h)) b.ebuf b.ctx false va = some none →
        ∃ u r, exec (.copyTranslatePage h) s = Outcome.next u ∧ (u.blkAt h).live = [{ t with xlated := e, fault := some r }] ∧
          r.cause = (if bufBad b.ebuf va && canonical va then .uncorr else .xlate) ∧ r.access = .copyIn ∧ r.estart = e ∧ r.va = BitVec.ofNat 64 va ∧ r.row = e / Shape.stored t.shape ∧
          r.col = e % Shape.stored t.shape)) ∧
    (t.phase = .finished → t.fault = none → t.refused = false →
      (∀ f, t.ins ≠ .tscanc f ∧ t.ins ≠ .cpass f) →
      ∃ u, exec (.tileRetire h) s = Outcome.next u ∧ (u.blkAt h).trecs = [] ∧
        (u.blkAt h).ctl.fctl = orFlags b.ctl.fctl t.flags ∧ (u.blkAt h).pc = b.pc ∧ (u.blkAt h).x = b.x ∧
        (∀ e, t.emptyBit = some e → (u.blkAt h).ctl.vstat.getLsbD 0 = e)) ∧
    (∀ r, t.fault = some r → t.phase = .queued → t.progress = r.estart → t.out = [] → t.streams = [] → t.refused = false →
      b.ctl.haltstat.getLsbD 0 = false → b.stop = 0 → b.escalates r.cause = false →
      ∃ u p, exec (.tileTrapTaken h) s = Outcome.next u ∧ (u.blkAt h).level = .s ∧ (u.blkAt h).pc = b.ctl.tvec &&& ~~~7 ∧
        (u.blkAt h).ctl.tepc = t.pc ∧ (u.blkAt h).ctl.testart = BitVec.ofNat 64 r.estart ∧ (u.blkAt h).ctl.tcause = r.tcause t.lit ∧
        (u.blkAt h).ctl.tinfo = r.tinfo ∧ (u.blkAt h).ctl.tva = r.va ∧ (u.blkAt h).live = [] ∧ (u.blkAt h).parked = some p ∧
        p.seq = t.seq ∧ p.dst = t.dst ∧ p.progress = t.progress)

/-- R434, R438 to R440: the header of a stream that its receiver expects joins the two, and one that differs raises FORMAT; a group of 64
bytes leaves the sender's slot for the channel's buffer while that holds fewer than 64 groups, and goes from there into the receiver's slot; a CINIT that names a free place makes the block a member of its chain, another raises CARRY; a carry
and a completion reach their member.
Where the rules leave a point to the model, it follows log entries 62, 67 and 68. -/
def Obligations.TileNetwork : Prop :=
  (∀ (n h : Nat) (x : Stream) (t : TileRec) (b : Block) (s : State), (s.streams.find? fun y => y.id == n) = some x →
    s.memberHart x.gang x.dst = some h → aget s.blocks h = some b → b.frozen = false →
    (State.receiverOn b x.ch = some t → x.headerSeen = false → x.receiver = none → ((t.xv[0]?).getD 0).toNat = x.src →
      (∀ y ∈ s.streams, y.gang = x.gang → y.src = x.src → y.dst = x.dst → y.ch = x.ch → y = x ∨ y.receiver.isSome) →
      (State.ownHeader t.shape = x.header → ∃ u, exec (.streamHeaderArrival n) s = Outcome.next u ∧
        u.blkAt h = b.setRec { t with streams := [n], faultPassed := true } ∧
        ∀ y ∈ u.streams, y.id = n → y.headerSeen = true ∧ y.receiver = some t.seq) ∧
      (State.ownHeader t.shape ≠ x.header → ∃ u, exec (.streamHeaderArrival n) s = Outcome.next u ∧
        u.blkAt h = b.setRec { t with streams := [n], phase := .queued, fault := some { cause := .format, tile := some t.tileNo } })) ∧
    (∀ d y, (b.live.find? fun t => t.streams.contains n && t.faultPassed && t.phase == .running && some t.seq == x.receiver) = some t →
      x.arrived + 1 < cdiv x.bytes 64 → x.arrived < x.sent →
      t.dst = [d] → s.slot (coreOf h) d.slot = some y → 64 * x.arrived + 64 ≤ min x.bytes (Shape.content t.shape) →
      ∃ u z w, exec (.streamGroupArrival n) s = Outcome.next u ∧ u.slot (coreOf h) d.slot = some z ∧
        z.content / 2 ^ (512 * x.arrived) % 2 ^ 512 = x.content / 2 ^ (512 * x.arrived) % 2 ^ 512 ∧
        (∀ p, p < 512 * x.arrived ∨ 512 * x.arrived + 512 ≤ p → z.content.testBit p = y.content.testBit p) ∧
        (u.streams.find? fun y => y.id == n) = some w ∧ w.arrived = x.arrived + 1 ∧ x.sent ≤ w.sent ∧ w.sent ≤ x.sent + 1) ∧
    (∀ g y z, s.memberHart x.gang x.src = some g → g ≠ awayHart → (s.blkAt g).frozen = false →
      ((s.blkAt g).live.find? fun t => t.streams.contains n && t.phase == .running) = some t → t.src.head? = some y →
      s.slot (coreOf g) y.slot = some z → z.filled = true → s.served x = some n → x.receiver = none → 64 * x.sent + 64 ≤ x.bytes →
      ∃ u w, exec (.streamGroupArrival n) s = Outcome.next u ∧ u.blocks = s.blocks ∧ (u.streams.find? fun y => y.id == n) = some w ∧
        w.arrived = x.arrived ∧
        (x.sent < x.arrived + 64 → w.sent = x.sent + 1 ∧
          w.content / 2 ^ (512 * x.sent) % 2 ^ 512 = z.content / 2 ^ (y.off + 512 * x.sent) % 2 ^ 512) ∧
        (x.arrived + 64 ≤ x.sent → w = x))) ∧
  (∀ (h : Nat) (t : TileRec) (f : FmtT) (b : Block) (s : State), aget s.blocks h = some b → b.trecs = [t] → t.ins = .cinit f →
    t.phase = .running →
    let w := (t.xv[0]?).getD 0
    let pos := (w.extractLsb' 0 16).toNat
    let len := (w.extractLsb' 16 16).toNat
    let lines := (w.extractLsb' 32 16).toNat
    (len ≠ 0 → lines ≠ 0 → pos < len → s.chainTaken h t.chSeq pos = false → ∃ u, exec (.cinitAnswer h) s = Outcome.next u ∧
      (u.blkAt h).chain = some { key := t.chSeq, pos := pos, len := len, lines := lines, wide := f.mode.getLsbD 0 } ∧
      (u.blkAt h).live = [{ t with phase := .finished, faultPassed := true }]) ∧
    (len = 0 ∨ lines = 0 ∨ len ≤ pos ∨ s.chainTaken h t.chSeq pos = true → ∃ u, exec (.cinitAnswer h) s = Outcome.next u ∧
      (u.blkAt h).chain = none ∧ (u.blkAt h).live = [{ t with phase := .queued, fault := some { cause := .carry, detail := 1 } }])) ∧
  (∀ (n h : Nat) (k : Carry) (b : Block) (c : Chain) (s : State), aget s.blocks h = some b → b.chain = some c →
    s.chainMember k.launch k.key k.pos = some h →
    (s.carries[n]? = some k → (∀ y ∈ s.carries.take n, (y.launch, y.key, y.pos) ≠ (k.launch, k.key, k.pos)) →
      ∃ u, exec (.saffronCarryArrival n) s = Outcome.next u ∧ u.carries = s.carries.eraseIdx n ∧
        (u.blkAt h).chain = some { c with carries := c.carries ++ [(k.seq, k.carries)] }) ∧
    (s.completions[n]? = some k → (∀ y ∈ s.completions.take n, (y.launch, y.key, y.pos) ≠ (k.launch, k.key, k.pos)) →
      ∃ u, exec (.saffronCompletionArrival n) s = Outcome.next u ∧
        u.completions = s.completions.eraseIdx n ++ (if k.pos = 0 then [] else [{ k with pos := k.pos - 1 }]) ∧
        (u.blkAt h).chain = some { c with done := max c.done (k.seq + 1) }))
/-! ## Homes, answers, gathers, locks, mesh, walks -/

/-- A request heads the messages that wait at home t, its turn has come, the wait buffer has room unless it is a lock holder's, and no gather
of the stack's unit has still to perform an element of its line (R162, R185, R193, R198). -/
structure Sys2Proof.Machine.HeadRequest (s : State) (t : Nat) (r : HomeReq) (rest : List (Node × Msg)) : Prop where
  head : s.ms.inbox = (.stack t, .req r) :: rest
  turn : s.inTurn r = true
  room : s.waitingAt t < 1024 ∨ r.holder.isSome = true
  first : s.workAhead t (lineOf (homeAddr r.pa)) = false

/-- It names a line of device memory that is in the slice, is locked by no other than its own copy, and is not being copied to a spare row
(R61, R161, R184). -/
structure Sys2Proof.Machine.ReadyLine (s : State) (r : HomeReq) : Prop where
  device : aperture r.pa = .device r.pa
  present : (s.ms.sliceLine r.pa).isSome = true
  row : s.rowHeld r.pa = false
  free : ∀ k, s.ms.lockOf (lineOf r.pa) = some k → State.LineLock.heldBy k r = true

/-- The one packet that a step sent carries message m to node d. -/
def Sys2Proof.Machine.Sent (s t : State) (d : Node) (m : Msg) : Prop :=
  ∃ k, t.ms.packets = s.ms.packets ++ [k] ∧ k.dst = d ∧ k.msg = m

/-- The bytes of n from address a hold v, and every other byte is as it was. -/
def Sys2Proof.Machine.Stored (s t : MemSys) (a n v : Nat) : Prop :=
  ∀ x, t.homeByte x = if a ≤ x ∧ x < a + n then BitVec.ofNat 8 (v / 256 ^ (x - a)) else s.homeByte x

/-- R161, R162, R185, R189, R219, R414: HOME_ACCESS performs the request at its home: a read or a fill answers the bytes there; a write
changes exactly the bytes of its mask and is acknowledged; an AMO answers the old value and stores the new one, unless the old one is
uncorrectable; STPATCH's write sends 160 drop requests. A request for a line that is locked, but not by its own copy, joins the line's queue. The new values of the AMOs on words of n bytes: sum, bitwise
operations, minimum and maximum by sign or not, exchange; AMOCAS writes only where the old value equals the one in X[rc].
Where the rules leave a point to the model, it follows log entries 10, 23 and 65. -/
def Obligations.HomeAccesses : Prop :=
  (∀ (t : Nat) (r : HomeReq) (rest : List (Node × Msg)) (s : State), HeadRequest s t r rest →
     (∀ k, s.ms.lockOf (lineOf (homeAddr r.pa)) = some k → State.LineLock.heldBy k r = false → ∃ u, exec (.homeAccess t) s = Outcome.next u ∧ u.ms.inbox = rest ∧
       u.ms.lockOf (lineOf (homeAddr r.pa)) = some { k with waiters := k.waiters ++ [.req r] } ∧ u.ms.mem = s.ms.mem ∧
       u.ms.slice = s.ms.slice ∧ u.ms.packets = s.ms.packets) ∧
     (ReadyLine s r → ∃ u, exec (.homeAccess t) s = Outcome.next u ∧ u.ms.inbox = rest ∧ u.blocks = s.blocks ∧ u.cores = s.cores ∧
       (∀ n, r.op = .read n → Sent s u r.src (.resp r.id (s.ms.homeRead r.pa n) (s.badMask r.pa n)) ∧
         ∀ x, u.ms.homeByte x = s.ms.homeByte x) ∧
       (r.op = .fill → Sent s u r.src (.fill r.id (r.pa / 64 * 64) (s.ms.homeRead (r.pa / 64 * 64) 64) (s.badMask (r.pa / 64 * 64) 64)) ∧
         ∀ x, u.ms.homeByte x = s.ms.homeByte x) ∧
       (∀ v mask n, r.op = .write v mask n → Memory.wf s.ms.mem = true →
         (∀ x, u.ms.homeByte x = if r.pa ≤ x ∧ x < r.pa + n ∧ mask.testBit (x - r.pa) = true
           then BitVec.ofNat 8 (v / 256 ^ (x - r.pa)) else s.ms.homeByte x) ∧
         (r.id ≠ 0 → Sent s u r.src (.ack r.id)) ∧ (r.id = 0 → u.ms.packets = s.ms.packets)) ∧
       (∀ op n v cmp, r.op = .amo op n v cmp → Memory.wf s.ms.mem = true →
         let old := s.ms.homeRead r.pa n
         Sent s u r.src (.resp r.id old (s.badMask r.pa n)) ∧
           Stored s.ms u.ms r.pa n (if s.badMask r.pa n = 0 then (amoNew op n old v cmp).getD old else old)) ∧
       (∀ kind cont inplace, r.op = .frame kind cont inplace → Memory.wf s.ms.mem = true →
         let old := s.ms.homeRead r.pa 8
         Sent s u r.src (.resp r.id old (s.badMask r.pa 8)) ∧
           Stored s.ms u.ms r.pa 8 (if s.badMask r.pa 8 = 0 then (frameNew kind cont inplace old).getD old else old)) ∧
       (∀ v, r.op = .patch v → Memory.wf s.ms.mem = true → Stored s.ms u.ms r.pa 8 v ∧
         ∃ ps, u.ms.packets = s.ms.packets ++ ps ∧
           ps.map (fun k => (k.dst, k.msg)) = (List.range 160).map fun c => (Node.core c, Msg.drop (r.pa / 64) (coreOf r.hart) r.hart)))) ∧
  (∀ n ∈ [4, 8], ∀ old v cmp : BitVec (8 * n),
     let f := fun op => amoNew op n old.toNat v.toNat cmp.toNat
     f .add = some (old + v).toNat ∧ f .and = some (old &&& v).toNat ∧ f .or = some (old ||| v).toNat ∧
     f .xor = some (old ^^^ v).toNat ∧ f .swp = some v.toNat ∧ f .cas = (if old = cmp then some v.toNat else none) ∧
     f .min = some (if v.slt old then v else old).toNat ∧ f .max = some (if old.slt v then v else old).toNat ∧
     f .minn = some (min old.toNat v.toNat) ∧ f .maxn = some (max old.toNat v.toNat))

/-- R157, R160, R161, R189, R196, R199, R203: the head of a store queue: a CORE-scope store enters the line that L1 holds; one of DEVICE
scope leaves for its home once nothing older holds it, and its acknowledgement is awaited; so does an AMO; a release of CORE scope is ready
when the hart's reads and writes are done, and an instruction that waits for it goes on. A line of device memory that a request at its stack
waits for enters the slice when a way of its set is free: it is then present, and every byte at every home is what it was.
Where the rules leave a point to the model, it follows log entries 15, 24, 81 and 93. -/
def Obligations.StoreQueues : Prop :=
  (∀ (h : Nat) (b : Block) (rest : List SqOp) (s : State), aget s.blocks h = some b →
     let c := coreOf h
     (∀ pa n v l, b.sq = .store [(pa, n, v)] .core false :: rest → cacheable pa = true → (s.core c).l1Find pa = some l →
       l.valid ≠ 0 → (s.core c).l1Ways ≠ [] → s.coreLocked c pa n = false → s.wbInFlight c pa = false → (∀ p ∈ b.pend, p.covers pa n = false) → pa % 64 + n ≤ 64 → 0 < n →
       ∃ u, exec (.storePerformL1 h) s = Outcome.next u ∧ (u.blkAt h).sq = rest ∧ (u.core c).l1Read pa n = some (v % 2 ^ (8 * n)) ∧
         u.ms.mem = s.ms.mem ∧ u.ms.slice = s.ms.slice ∧ u.ms.packets = s.ms.packets) ∧
     (∀ pa n v sc vec, b.sq = .store [(pa, n, v)] sc vec :: rest → (∃ a, aperture pa = .device a) → sc ≠ .core →
       (s.focus h).mayLeave pa = true → ∃ u r, exec (.storePerformL1 h) s = Outcome.next u ∧ (u.blkAt h).sq = rest ∧
         Sent s u (.stack (stackOf pa)) (.req r) ∧ r.pa = pa ∧ r.op = .write v (2 ^ n - 1) n ∧ r.src = .core c ∧
         (u.blkAt h).unacked = b.unacked ++ [(r.id, stackOf pa)] ∧ u.ms.mem = s.ms.mem ∧ u.ms.slice = s.ms.slice) ∧
     (∀ id op pa n v cmp, b.sq = .amo id op pa n v cmp :: rest → (∃ a, aperture pa = .device a) →
       (∀ l, (s.core c).l1Find pa = some l → l.dirty = 0) →
       (s.focus h).mayLeave pa = true → ∃ u r, exec (.storePerformL1 h) s = Outcome.next u ∧ (u.blkAt h).sq = rest ∧
         Sent s u (.stack (stackOf pa)) (.req r) ∧ r.id = id ∧ r.pa = pa ∧ r.op = .amo op n v cmp ∧ u.ms.mem = s.ms.mem) ∧
     (∀ w, b.sq = .release .core none false .drain w :: rest → b.pend = [] → b.unacked = [] →
       ∃ u, exec (.storePerformL1 h) s = Outcome.next u ∧ (u.blkAt h).sq = .release .core none false .ready w :: rest) ∧
     (∀ sc, b.sq = .release sc none false .ready true :: rest → b.wait = some .release →
       ∃ u, exec (.storePerformL1 h) s = Outcome.next u ∧ (u.blkAt h).sq = rest ∧ (u.blkAt h).rel = .done ∧ (u.blkAt h).wait = none) ∧
     (∀ sc w add ph hs ps q, b.sq = .release sc w add (.flush hs ps q) ph :: rest → hs ≠ [] → h < 9000 →
       ∃ u, exec (.hostFlushReadComplete h) s = Outcome.next u ∧ (u.blkAt h).sq = .release sc w add (.flush [] ps q) ph :: rest ∧
         (u.core c).hostPorts = (s.core c).hostPorts.filter fun x => decide (q < x.2))) ∧
  (∀ (t line : Nat) (s : State), stackOf line = t → aperture line = .device line → s.ms.sliceLine line = none →
     (∃ r, (Node.stack t, Msg.req r) ∈ s.ms.inbox ∧ lineOf (homeAddr r.pa) = lineOf line) →
     (∃ w, (s.plat.scrWays[t]?).getD 0 ≤ w ∧ w < 16 ∧ ∀ l ∈ s.ms.slice, l.stack = t →
       stackOffset l.line / 256 % 8192 = stackOffset line / 256 % 8192 → l.way ≠ w) →
     ∃ u, exec (.sliceMissFill t line) s = Outcome.next u ∧ (u.ms.sliceLine line).isSome = true ∧
       (∀ x, u.ms.homeByte x = s.ms.homeByte x) ∧ u.ms.inbox = s.ms.inbox)

/-- The value of a load whose bytes are taken from L1 where a mask says so, and from the answer elsewhere (R158, R159). -/
def Sys2Proof.Machine.bytewise (n own mask v : Nat) (w : Nat) : Prop :=
  w < 256 ^ n ∧ ∀ i, i < n → w / 256 ^ i % 256 = (if mask.testBit i then own else v) / 256 ^ i % 256

/-- R158, R159, R203, R204, R219: what returns to a core. An answer gives a load its bytes, those that L1 held dirty excepted; a fill gives
them too and makes its line valid; an acknowledgement frees its write; a drop request empties the instruction cache of its line and is
acknowledged, and the last acknowledgement ends the STPATCH; a home acknowledges a Clove marker once it has served the core's requests, and
the release then waits for that home no more.
Where the rules leave a point to the model, it follows log entry 23. -/
def Obligations.CoreAnswers : Prop :=
  ∀ (c : Nat) (rest : List (Node × Msg)) (s : State),
    (∀ id v h p r sg b, s.ms.inbox = (.core c, .resp id v 0) :: rest → s.loadOf c id = some (h, p) → p.dest = .x r sg (8 * p.n) →
      cacheable p.pa = true → p.acquire = none → p.n ≤ 8 → aget s.blocks h = some b → b.boundTo r = none → r ≠ 0 → p.id = id →
      ∃ u w, exec (.responseArrival c) s = Outcome.next u ∧ (u.blkAt h).getX r = loaded sg p.n w ∧ (u.blkAt h).pc = b.pc ∧
        (if p.amo then w = v else v < 256 ^ p.n → bytewise p.n p.dirtyV p.dirtyM v w) ∧
        (u.blkAt h).pend = b.pend.filter (fun q => q.id != id) ∧ (∀ q, q ≠ r → (u.blkAt h).getX q = b.getX q) ∧ u.ms.inbox = rest) ∧
    (∀ id h b, s.ms.inbox = (.core c, .ack id) :: rest → s.engOf c id = none → aget s.blocks h = some b → coreOf h = c →
      ∃ u, exec (.responseArrival c) s = Outcome.next u ∧ u.ms.inbox = rest ∧
        u.blkAt h = { b with unacked := b.unacked.filter fun q => q.1 != id }) ∧
    (∀ id l d h p r sg b, s.ms.inbox = (.core c, .fill id l d 0) :: rest → s.loadOf c id = some (h, p) → p.dest = .x r sg (8 * p.n) →
      p.acquire = none → aget s.blocks h = some b → b.boundTo r = none → r ≠ 0 → p.pa / 64 * 64 = l → p.pa % 64 + p.n ≤ 64 → p.n ≤ 8 →
      p.dirtyM = 0 → p.before = (s.core c).acquires → p.newer = [] → (s.core c).l1Find l = none → (s.core c).l1Ways ≠ [] →
      ∃ u, exec (.l1FillArrival c) s = Outcome.next u ∧ (u.core c).l1Read l 64 = some (d % 2 ^ 512) ∧
        (u.blkAt h).getX r = loaded sg p.n (d / 256 ^ (p.pa % 64) % 256 ^ p.n)) ∧
    (∀ l i h, s.ms.inbox = (.core c, .drop l i h) :: rest →
      ∃ u, exec (.icacheDropRequest c) s = Outcome.next u ∧ (∀ x ∈ (u.core c).icache, x.line ≠ l) ∧ Sent s u (.core i) (.dropAck h)) ∧
    (∀ h n b, s.ms.inbox = (.core c, .dropAck h) :: rest → aget s.blocks h = some b → b.rep = none → b.pops = [] →
      (b.wait = some (.patch (n + 2)) → ∃ u, exec (.icacheDropAck c) s = Outcome.next u ∧
        u.blkAt h = { b with wait := some (.patch (n + 1)) }) ∧
      (b.wait = some (.patch 1) → ∃ u, exec (.icacheDropAck c) s = Outcome.next u ∧
        u.blkAt h = b.moved (if b.pcLit then some 0 else none))) ∧
    (∀ t h i, s.ms.inbox = (.stack t, .clove i h) :: rest → s.coreServed t i [] = true →
      ∃ u, exec (.cloveMarker t) s = Outcome.next u ∧ Sent s u (.core i) (.cloveAck t h) ∧ u.ms.mem = s.ms.mem ∧ u.ms.slice = s.ms.slice) ∧
    (∀ t h b sc w add hs ph q n, s.ms.inbox = (.core c, .cloveAck t h) :: rest → aget s.blocks h = some b →
      b.sq = .release sc w add (.marked hs n) ph :: q →
      ∃ u, exec (.cloveAckArrival c) s = Outcome.next u ∧ (u.blkAt h).sq = .release sc w add (.marked (hs.filter (· != t)) n) ph :: q)

/-- Elements of a gather that lie in lines of device memory which stack t holds in its slice, aligned to their n bytes. -/
def Sys2Proof.Machine.HereAll (s : State) (t n : Nat) (es : List (Nat × Nat × Nat)) : Prop :=
  ∀ x ∈ es, aperture x.2.1 = .device x.2.1 ∧ stackOf x.2.1 = t ∧ (s.ms.sliceLine x.2.1).isSome = true ∧ x.2.1 % n = 0

/-- Nothing holds the elements of a gather that has reached stack t, whose unit has no other work: no row copy, no lock, no earlier request of
its core for their lines (R61, R162, R185, R193). -/
structure Sys2Proof.Machine.FreeElems (s : State) (t : Nat) (g : GatherReq) : Prop where
  idle : ∀ w ∈ s.ms.gathers, w.stack ≠ t
  room : s.waitingAt t < 1024
  free : ∀ x ∈ g.elems, s.held x.2.1 = false ∧ s.ms.lockOf (State.elemLine x) = none ∧
    (g.engine = true ∨ s.inOrder g.core (State.elemLine x) g.seq = true)

/-- R165, R208: a gather unit reads its own elements in order and answers the core when none is left; one that a unit forwarded is
performed and returned; the last return ends the request; a scatter writes its elements at their homes; the answer puts each element
into the vector register.
Where the rules leave a point to the model, it follows log entry 42. -/
def Obligations.GatherUnits : Prop :=
  ∀ (t : Nat) (g : GatherReq) (rest : List (Node × Msg)) (s : State), (g.n = 1 ∨ g.n = 2 ∨ g.n = 4 ∨ g.n = 8) →
    (s.ms.inbox = (.stack t, .gather g) :: rest → FreeElems s t g → HereAll s t g.n g.elems →
      (g.write = false → g.bad = none → s.ms.bad = [] → ∃ u, exec (.gatherRequest t) s = Outcome.next u ∧
        Sent s u (.core g.core) (.gatherDone { g with elems := g.elems.map fun x => (x.1, x.2.1, s.ms.homeRead x.2.1 g.n) }) ∧
        ∀ x, u.ms.homeByte x = s.ms.homeByte x) ∧
      (g.write = true → (g.elems.map (·.2.1)).Nodup → ∃ u, exec (.gatherRequest t) s = Outcome.next u ∧
        (∀ x ∈ g.elems, u.ms.homeRead x.2.1 g.n = x.2.2 % 256 ^ g.n) ∧
        (∀ a, (∀ x ∈ g.elems, a < x.2.1 ∨ x.2.1 + g.n ≤ a) → u.ms.homeByte a = s.ms.homeByte a))) ∧
    (s.ms.inbox = (.stack t, .gatherFwd g) :: rest → FreeElems s t g → HereAll s t g.n g.elems → g.write = false → g.bad = none → s.ms.bad = [] → ∃ u, exec (.gatherForwardGroup t) s = Outcome.next u ∧
        Sent s u (.stack g.first) (.gatherRet { g with elems := g.elems.map fun x => (x.1, x.2.1, s.ms.homeRead x.2.1 g.n) })) ∧
    (∀ w, s.ms.inbox = (.stack t, .gatherRet g) :: rest → s.ms.gathers = [w] → w.stack = t → w.fwd = false → w.req.id = g.id →
      w.todo = [] → w.missing = g.elems.length → w.req.bad = none → g.bad = none → ∃ u, exec (.gatherForwardGroup t) s = Outcome.next u ∧ u.ms.gathers = [] ∧
        Sent s u (.core w.req.core) (.gatherDone { w.req with elems := w.done ++ g.elems })) ∧
    (∀ h p v w e b, s.ms.inbox = (.core g.core, .gatherDone g) :: rest → s.loadOf g.core g.id = some (h, p) → g.bad = none →
      p.dest = .vel v w e → w = 8 * g.n → aget s.blocks h = some b → (g.elems.map (·.1)).Nodup → (∀ x ∈ p.elems, x.2.2.2 = 0) →
      (∀ x ∈ g.elems, w * (x.1 + 1) ≤ 8192) → ∃ u, exec (.gatherResult g.core) s = Outcome.next u ∧
        (∀ x ∈ g.elems, ((u.blkAt h).getV v).extractLsb' (w * x.1) w = BitVec.ofNat w x.2.2) ∧
        (∀ i, w * (i + 1) ≤ 8192 → (∀ x ∈ g.elems, x.1 ≠ i) →
          ((u.blkAt h).getV v).extractLsb' (w * i) w = (b.getV v).extractLsb' (w * i) w) ∧
        (∀ q, q ≠ v → (u.blkAt h).getV q = b.getV q) ∧ (u.blkAt h).pend = b.pend.filter (fun q => q.id != g.id))

/-- R184, R185: a lock request takes its lines when none is held and is granted, and else joins the queue of the first line that is; a grant
makes its granule the copy's, which asks for the next; a release frees its lines.
Where the rules leave a point to the model, it follows log entry 66. -/
def Obligations.LineLocks : Prop :=
  ∀ (t : Nat) (r : LockReq) (rest : List (Node × Msg)) (s : State),
    (s.ms.inbox = (.stack t, .lock r) :: rest → (∀ l ∈ r.lines, s.workAhead t l = false) →
      (r.lines.Nodup → (∀ l ∈ r.lines, lineOf l = l ∧ s.ms.lockOf l = none) → ∃ u, exec (.maceLockRequest t) s = Outcome.next u ∧
        Sent s u (.core r.core) (.grant r.hart r.seq) ∧
        ∀ l, u.ms.lockOf l = if lineOf l ∈ r.lines then some { line := lineOf l, holder := r.hart, seq := r.seq, waiters := [] }
          else s.ms.lockOf l) ∧
      (∀ l ls k, r.lines = l :: ls → s.ms.lockOf l = some k → lineOf l = l → ∃ u, exec (.maceLockRequest t) s = Outcome.next u ∧
        u.ms.lockOf l = some { k with waiters := k.waiters ++ [.lock r] } ∧ u.ms.packets = s.ms.packets)) ∧
    (s.ms.inbox = (.stack t, .release r) :: rest → (∀ k ∈ s.ms.locks, k.line ∈ r.lines → k.waiters = []) →
      ∃ u, exec (.maceRelease t) s = Outcome.next u ∧ u.ms.locks = s.ms.locks.filter fun k => !r.lines.contains k.line) ∧
    (∀ h q b p, s.ms.inbox = (.core t, .grant h q) :: rest → aget s.blocks h = some b → b.trecs = [p] → p.seq = q → p.locksLeft ≠ [] →
      let left := p.locksLeft.filter fun l => !(State.firstGranule p.locksLeft).contains l
      ∃ u x, exec (.maceGrant t) s = Outcome.next u ∧ (u.blkAt h).trecs = [x] ∧ x.locks = p.locks ++ State.firstGranule p.locksLeft ∧
        x.locksLeft = left ∧ x.seq = q ∧
        ∀ l ls, left = l :: ls → Sent s u (.stack (stackOf l)) (.lock { hart := h, seq := q, core := coreOf h, lines := State.firstGranule left }))

/-- R167, R169: a packet alone at its router goes on by the egress that its route names, along the row first, then along the column; at
its own router it reaches its target; the host port and the SXL ports take what reaches them at once. -/
def Obligations.MeshForwarding : Prop :=
  (∀ (p : Packet) (s : State), s.ms.packets = [p] → (∀ k, 0 < s.plat.weight k) →
    let out := routeOut p.die p.col p.row p.dst
    (out = .here → ∃ u : State, exec (.meshPacketForward p.die p.col p.row out) s = Outcome.next u.hostTake.sxlTake ∧ u.ms.packets = [] ∧
      u.ms.inbox = s.ms.inbox ++ [(p.dst, p.msg)] ∧ u.plat = s.plat ∧ u.fab = s.fab) ∧
    (out ≠ .here → ∃ u : State, exec (.meshPacketForward p.die p.col p.row out) s = Outcome.next u.hostTake.sxlTake ∧
      u.ms.inbox = s.ms.inbox ∧ u.plat = s.plat ∧ u.fab = s.fab ∧
      let x := nextHop p.die p.col p.row out
      u.ms.packets = [{ p with die := x.1, col := x.2.1, row := x.2.2.1, inPort := x.2.2.2, since := s.ck }])) ∧
  (∀ s : State, (s.plat.hostOut = none → s.hostTake = s) ∧ (s.fab.serving = [] → s.sxlTake = s) ∧
    ∀ id v bad, s.plat.hostOut = some id → s.ms.inbox = [(.host, .resp id v bad)] →
      s.hostTake = ({ s with ms := { s.ms with inbox := [] } } : State).hostDone v) ∧
  (∀ (die col row : Nat) (d : Node), let x := d.router
    (x.1 = die → col < x.2.1 → routeOut die col row d = .east) ∧ (x.1 = die → x.2.1 < col → routeOut die col row d = .west) ∧
    (x.1 = die → col = x.2.1 → row < x.2.2 → routeOut die col row d = .south) ∧
    (x.1 = die → col = x.2.1 → x.2.2 < row → routeOut die col row d = .north) ∧
    (x.1 = die → col = x.2.1 → row = x.2.2 → routeOut die col row d = .here) ∧
    (x.1 ≠ die → col = bridgeCol die → routeOut die col row d = .bridge))

/-- R173 to R176, R181: a miss is looked up in its die's cache; a walk reads the entry of its level at its home: an entry that is not valid
ends it without a translation, a table entry leads to the next level, a leaf has A (and D for a write) set by an AMOOR.64 at its home, and
ends it with the page. Its end answers the waiting hart, whose core's TLB then holds the page.
Where the rules leave a point to the model, it follows log entries 7, 78 and 79. -/
def Obligations.PageWalks : Prop :=
  ∀ (n : Nat) (m : Miss) (s : State), s.ms.misses[n]? = some m →
    (∀ e x, m.looked = false → s.ms.dieCache = [(e, x)] →
      (e = m.die ∧ x.ctx = m.ctx ∧ x.maps m.va = true ∧ (m.write = true → x.d = true) →
        exec (.dieCacheLookup n) s = Outcome.next (s.setMiss n { m with looked := true, done := true, res := some x })) ∧
      (¬(e = m.die ∧ x.ctx = m.ctx ∧ x.maps m.va = true ∧ (m.write = true → x.d = true)) →
        (s.ms.misses.filter fun y => y.die == m.die && y.looked).length < 4096 →
        exec (.dieCacheLookup n) s = Outcome.next { s with ms := { s.ms with
          misses := s.ms.misses.eraseIdx n ++ [{ m with looked := true }] } })) ∧
    (m.looked = true → m.done = false → m.started = true →
      let a := State.pteAddr m
      let set := if m.write then 0xC0 else 0x40
      (m.req = none → m.leaf = none → aperture a = .device a → s.ms.upper = [] →
        ∃ u r v k, exec (.pageWalk n) s = Outcome.next u ∧ Sent s u (.stack (stackOf a)) (.req r) ∧ r.src = .walker m.die ∧ r.pa = a ∧
          r.op = .read 8 ∧ u.ms.misses = s.ms.misses.set n { m with req := some r.id, dirtyV := v, dirtyM := k } ∧
          ((s.core m.core).l1Find a = none → k = 0) ∧ u.ms.mem = s.ms.mem ∧ u.ms.slice = s.ms.slice) ∧
      (∀ id e rest, m.req = some id → m.leaf = none → m.dirtyM = 0 → s.ms.inbox = (.walker m.die, .resp id e 0) :: rest →
        ∃ u, exec (.pageWalk n) s = Outcome.next u ∧ u.ms.inbox = rest ∧ u.ms.packets = s.ms.packets ∧ u.ms.mem = s.ms.mem ∧
          u.ms.misses = s.ms.misses.set n
            (if State.badPte e m.level = true then { m with req := none, done := true, res := none }
             else if e.testBit 1 = true then { m with req := none, leaf := some e }
             else { m with req := none, level := m.level - 1, table := e / 8192 % 2 ^ 33 * 8192 })) ∧
      (∀ e, m.req = none → m.leaf = some e → (s.core m.core).l1Find a = none → s.wbInFlight m.core a = false →
        ∃ u r, exec (.pageWalk n) s = Outcome.next u ∧ Sent s u (.stack (stackOf a)) (.req r) ∧ r.src = .walker m.die ∧ r.pa = a ∧
          r.op = .amo .or 8 set 0 ∧ u.ms.misses = s.ms.misses.set n { m with req := some r.id, dirtyV := 0, dirtyM := 0 }) ∧
      (∀ id e v rest, m.req = some id → m.leaf = some e → s.ms.inbox = (.walker m.die, .resp id v 0) :: rest →
        ∃ u x, exec (.pageWalk n) s = Outcome.next u ∧ u.ms.inbox = rest ∧
          u.ms.misses = s.ms.misses.set n { m with req := none, done := true, res := some x } ∧ x.pa = e / 8192 % 2 ^ 33 * 8192 ∧
          x.log2 = 13 + 10 * m.level ∧ x.page = m.va % 2 ^ 53 / 2 ^ x.log2 * 2 ^ x.log2 ∧ x.ctx = m.ctx ∧ x.r = e.testBit 2 ∧
          x.w = e.testBit 3 ∧ x.x = e.testBit 4 ∧ x.s = e.testBit 5 ∧ x.d = (e.testBit 7 || m.write) ∧ x.fmt = e / 2 ^ 58 % 64 ∧
          x.srgn = e / 2 ^ 56 % 4)) ∧
    (∀ h b x, m.done = true → m.waiters = [h] → h < 2000 → aget s.blocks h = some b → b.wait = some .walk → m.stale = false →
      m.res = some x → ∃ u, exec (.pageWalkComplete n) s = Outcome.next u ∧ u.ms.misses = s.ms.misses.eraseIdx n ∧
        u.blkAt h = { b with wait := none, xbuf := b.xbuf ++ [{ page := m.vpn * 8192, write := m.write, res := some x, bad := m.bad }] } ∧
        (∃ y ∈ (u.core (coreOf h)).tlb, y = { x with use := y.use })) ∧
    (∀ h b, m.done = true → m.waiters = [h] → h < 2000 → aget s.blocks h = some b → b.wait = some .walk → m.res = none →
      ∃ u, exec (.pageWalkComplete n) s = Outcome.next u ∧ u.ms.misses = s.ms.misses.eraseIdx n ∧ (u.core (coreOf h)).tlb = (s.core (coreOf h)).tlb ∧
        u.blkAt h = { b with wait := none, xbuf := b.xbuf ++ [{ page := m.vpn * 8192, write := m.write, res := none, bad := m.bad }] })
/-! ## Barriers, hardware queues, tasks -/

/-- A release of the hart at a scope has nothing left to do, and no write to peer memory has failed (R199, R204, R205). -/
def Sys2Proof.Machine.State.calm (s : State) (sc : Scope) : Prop :=
  (s.quiescent sc = true ∨ s.blk.rel = .done) ∧ s.blk.failedWrite = none

/-- The block in focus changed by f, and a message of it on its way to its gang's home core (R118). -/
def Sys2Proof.Machine.State.barred (s : State) (m : BarMsg) (f : Block → Block) : State :=
  { s.setBlk (f s.blk) with barMsgs := s.barMsgs ++ [{ gang := s.blk.gang, pos := s.blk.gangPos, hart := s.cur, msg := m }] }

/-- The block in focus waits at a re-negotiation point: the shrink of R114 comes to its core. -/
def Sys2Proof.Machine.State.atPoint (s : State) : State := s.shrink s.myCore (some s.cur)

/-- The literal of the instruction that the block waits in, where it has one, as a number of no meaning. -/
def Sys2Proof.Machine.Block.heldLit (b : Block) : Option Word := if b.pcLit then some 0 else none

/-- R114, R118, R119, R386, R442 to R444: what the barrier instructions send to the gang's home core, what they wait for, where a shrink may
come to their core, and BARTEST's answer; in
a child, or for a number at or above NBAR, they raise BARRIER. At the home core an arrival is counted, the last of a phase tells every
member that arrived, BARINIT sets the count of a barrier at which nobody has arrived; a member that was told resumes.
Where the rules leave a point to the model, it follows log entry 59. -/
def Obligations.Barriers : Prop :=
  (∀ (f : FmtQ) (s : State), Runs s f.gm [f.a] → s.blk.child = false → f.n.toNat < s.nbar →
    let n := f.n.toNat
    let b := s.blk
    let c := (b.getX f.a + f.lit.getD (f.imm.setWidth 64)).toNat
    let here := fun (b : Block) => { b with arrivals := aset b.arrivals n false }
    (1 ≤ c → c ≤ 4095 → exec (.barinit f) s = Outcome.next (s.barred (.init n c) fun b => { b.opened f.lit with wait := some (.barInit n) })) ∧
    (c = 0 ∨ 4095 < c → exec (.barinit f) s = Outcome.next ((s.opened f.lit).takeTrap { cause := .barrier, detail := n } f.lit.isSome)) ∧
    (aget b.arrivals n = none → exec (.barwait f) s = Outcome.next (s.barred (.ask n) fun b => { b.opened f.lit with wait := some (.barrierAsk n) }).atPoint) ∧
    (aget b.arrivals n = some false →
      exec (.barwait f) s = Outcome.next (s.setBlk { b.opened f.lit with wait := some (.barrier n false false none) }).atPoint) ∧
    (aget b.arrivals n = some true → exec (.barwait f) s = Outcome.next ((s.acquired .device).after f.lit id)) ∧
    (let done := (aget b.arrivals n).getD false
     exec (.bartest f) s = Outcome.next ((if done then s.acquired .device else s).after f.lit fun b => b.setP f.d.toNat done)) ∧
    (s.calm .device →
      exec (.bararr f) s = Outcome.next (s.barred (.arrive n) fun b => (here b).moved f.lit) ∧
      exec (.barsync f) s =
        Outcome.next (s.barred (.arrive n) fun b => { (here b).opened f.lit with wait := some (.barrier n false false none) }).atPoint ∧
      exec (.elect f) s =
        Outcome.next (s.barred (.arrive n) fun b => { (here b).opened f.lit with wait := some (.barrier n false false (some f.d)) }).atPoint)) ∧
  (∀ p ∈ ([.barinit, .bararr, .barwait, .barsync, .bartest, .elect] : List (FmtQ → Instr)), ∀ (f : FmtQ) (s : State), Runs s f.gm [f.a] →
    s.blk.child = true ∨ s.nbar ≤ f.n.toNat →
    exec (p f) s = Outcome.next ((s.opened f.lit).takeTrap { cause := .barrier, detail := f.n.toNat } f.lit.isSome)) ∧
  (∀ (f : FmtQ) (s : State), Runs s f.gm [] →
    (s.blk.child = true → exec (.gsync f) s = Outcome.next ((s.opened f.lit).takeTrap { cause := .barrier } f.lit.isSome)) ∧
    (s.blk.child = false → s.calm .device → exec (.gsync f) s = Outcome.next (s.barred .gsync fun b =>
      { b.opened f.lit with gsyncs := b.gsyncs + 1, wait := some (.gsync (b.gsyncs + 1)) }).atPoint)) ∧
  (∀ (f : FmtT) (s : State), Runs s f.gm [] →
    (s.blk.child = true → s.blk.live = [] → exec (.tsync f) s = Outcome.next ((s.opened f.lit).takeTrap { cause := .barrier } f.lit.isSome)) ∧
    (s.blk.child = false → s.blk.live = [] → s.calm .device → exec (.tsync f) s = Outcome.next (s.barred .tsync fun b =>
      { b.opened f.lit with tsyncs := b.tsyncs + 1, wait := some (.tsync (b.tsyncs + 1)) }))) ∧
  (∀ (i : Nat) (m : BarReq) (g : Gang) (s : State), s.barMsgs[i]? = some m → (∀ x ∈ s.barMsgs.take i, x.gang ≠ m.gang ∨ x.pos ≠ m.pos) →
    s.gangOf m.gang = some g →
    let o := { s with barMsgs := dropAt s.barMsgs i }
    (m.msg = .gsync → ∃ u : State, exec (.barrierArrival i) s = Outcome.next u ∧ u.barMsgs = o.barMsgs ∧ u.blocks = s.blocks ∧
      u.gangOf m.gang = some { g with gsync := g.gsync.set m.pos ((g.gsync[m.pos]?).getD 0 + 1) }) ∧
    (m.msg = .tsync → ∃ u : State, exec (.barrierArrival i) s = Outcome.next u ∧ u.barMsgs = o.barMsgs ∧ u.blocks = s.blocks ∧
      u.gangOf m.gang = some { g with tsync := g.tsync.set m.pos ((g.tsync[m.pos]?).getD 0 + 1) }) ∧
    (∀ n x, m.msg = .arrive n → g.bars[n]? = some x →
      (x.arrived + 1 ≠ x.count → ∃ u : State, exec (.barrierArrival i) s = Outcome.next u ∧ u.barMsgs = o.barMsgs ∧ u.blocks = s.blocks ∧
        u.gangOf m.gang = some { g with bars := g.bars.set n { x with arrived := x.arrived + 1, arr := x.arr ++ [m.pos] } }) ∧
      (x.arrived + 1 = x.count → ∃ u : State, exec (.barrierArrival i) s = Outcome.next u ∧ u.barMsgs = o.barMsgs ∧
        u.gangOf m.gang = some { g with bars := g.bars.set n { x with arrived := 0, phase := !x.phase, arr := [], asks := [] } } ∧
        ∀ h b v w e, aget s.blocks h = some b → b.placed = true → b.child = false → b.gang = m.gang → b.gangPos ∈ x.arr ++ [m.pos] →
          b.gangPos ∉ x.asks → o.arrivalDue m.gang b.gangPos n = false → b.wait = some (.barrier n v w e) →
          (u.blkAt h).wait = some (.barrier n true (decide (∀ q ∈ x.arr ++ [m.pos], b.gangPos ≤ q)) e))) ∧
    (∀ n c x, m.msg = .init n c → g.bars[n]? = some x → (s.blkAt m.hart).wait = some (.barInit n) → (s.blkAt m.hart).rep = none →
      (s.blkAt m.hart).pops = [] →
      (x.arrived = 0 → ∃ u : State, exec (.barrierArrival i) s = Outcome.next u ∧ u.gangOf m.gang = some { g with bars := g.bars.set n { x with count := c } } ∧
        u.blkAt m.hart = (s.blkAt m.hart).moved (s.blkAt m.hart).heldLit) ∧
      (x.arrived ≠ 0 → exec (.barrierArrival i) s =
        Outcome.next (o.onHart m.hart fun s => s.takeTrap { cause := .barrier, detail := n } s.blk.pcLit)))) ∧
  (∀ (h : Nat) (s : State), (s.blkAt h).rep = none → (s.blkAt h).pops = [] →
    let b := s.blkAt h
    let back := fun (f : Block → Block) => ((((s.focus h).acquired .device).after b.heldLit f).focus s.cur)
    let met := fun (g : Gang) (counts : List Nat) (k : Nat) => counts.length = g.members.length ∧
      ∀ p x : Nat, g.members[p]? = some (some x) → k ≤ (counts[p]?).getD 0
    (∀ n won e, b.wait = some (.barrier n true won e) → exec (.barrierWaiterResume h) s = Outcome.next (back fun b => match e with
      | some d => b.setP d.toNat won
      | none => b)) ∧
    (∀ k g, b.wait = some (.gsync k) → s.gangOf b.gang = some g → met g g.gsync k → exec (.barrierWaiterResume h) s = Outcome.next (back id)) ∧
    (∀ k g, b.wait = some (.tsync k) → s.gangOf b.gang = some g → met g g.tsync k → exec (.tsyncComplete h) s = Outcome.next (back id)))

/-- A block that has taken record v of queue q into X[r] to X[r + 7] (R104, R107, R446, R448). -/
def Sys2Proof.Machine.Block.took (r : BitVec 6) (v : Rec) (q : Nat) (b : Block) : Block :=
  { (v.zipIdx).foldl (fun (b : Block) w => b.setX (r + BitVec.ofNat 6 w.2) w.1) b with
    consumers := if b.consumers.contains q then b.consumers else b.consumers ++ [q], stripPrev := 0 }

/-- The block in focus has begun a push of record v to queue q, which is on its way, and waits for its acceptance (R104). -/
def Sys2Proof.Machine.State.pushing (s : State) (q : Nat) (v : Rec) (lit : Option Word) : State :=
  { s.setBlk { s.blk.opened lit with wait := some (.push q) } with
    pushes := s.pushes ++ [{ cluster := clusterOf s.myCore, q := q, hart := s.cur, rcd := v }] }

/-- X[r] to X[r + 7]. -/
def Sys2Proof.Machine.Block.rec8 (b : Block) (r : BitVec 6) : Rec := (List.range 8).map fun i => b.getX (r + BitVec.ofNat 6 i)

/-- A hart whose waiting instruction completes as f says, with its wake latch set (R349). -/
def Sys2Proof.Machine.Block.resumedBy (b : Block) (f : Block → Block) : Block := (f b).moved b.heldLit

/-- R101, R104 to R109, R349, R445 to R448, R452: a push sends its record and waits for the queue to take it; a pop takes the oldest
record when one is there and no hart is in line, an acquire; QTRY and STGGET tell of it; QTAKE takes several into a V register; QCNT
counts; STRIP grants elements of the task in X16 to X22; QBIND binds a register to a data queue of a FIFO bank. A push that reaches its
queue, after those of lower harts in its ck, enters it when nothing waits before it, the queue is open with no ring record and an entry is free; it waits while the queue is full,
unless its block is the only consumer, which raises QDEADLOCK. Room serves the oldest waiting push, a record the first waiting pop.
Where the rules leave a point to the model, it follows log entry 45. -/
def Obligations.HardwareQueues : Prop :=
  ((∀ (f : FmtQ) (s : State), Runs s f.gm (recRegs f.a) → s.calm .device →
     let b := s.blk
     let w := fun (i : Nat) => b.getX (f.a + BitVec.ofNat 6 i)
     let size := fun (n : Nat) => (w 6).toNat / 2 ^ (16 * n) % 2 ^ 16
     let good := (w 0).toNat % 8 = 0 ∧ ∀ n < 4, size n ∈ [0, 1, 2, 4, 8] ∧ (size n ≠ 0 → (w (2 + n)).toNat % size n = 0)
     exec (.qpush f) s = Outcome.next (s.pushing f.n.toNat (b.rec8 f.a) f.lit) ∧
     (good → exec (.spawn f) s = Outcome.next (s.pushing f.n.toNat (b.rec8 f.a) f.lit)) ∧
     (¬good → exec (.spawn f) s = Outcome.next ((s.opened f.lit).takeTrap { cause := .align } f.lit.isSome)) ∧
     (b.stage + 1 < s.myStages → exec (.stgput f) s = Outcome.next (s.pushing (56 + b.stage) (b.rec8 f.a) f.lit)) ∧
     (s.myStages ≤ b.stage + 1 →
       exec (.stgput f) s = Outcome.next ((s.opened f.lit).takeTrap { cause := .qdeadlock, detail := 56 + b.stage } f.lit.isSome))) ∧
   (∀ (f : FmtQ) (s : State) (q : Nat), Runs s f.gm (recRegs f.d) →
     let c := clusterOf s.myCore
     let x := s.hwq c q
     let none_ := fun (b : Block) => { b with consumers := if b.consumers.contains q then b.consumers else b.consumers ++ [q] }
     let line := s.blk.stage ≠ 0 ∧ q = 55 + s.blk.stage
     (∀ v t, x.recs = v :: t → v.length = 8 → x.waitPop = [] → ((s.opened f.lit).registerConsumer q).refillFault x = none →
       let got := fun (p : Block → Block) => ((s.acquired .device).setHwq c q { x with recs := t }).after f.lit fun b => p (b.took f.d v q)
       (q = f.n.toNat → exec (.qpop f) s = Outcome.next (got id)) ∧
       (q = f.n.toNat → exec (.qtry f) s = Outcome.next (got fun b => b.setP f.b.toNat true)) ∧
       (line → exec (.stgget f) s = Outcome.next (got fun b => b.setP f.b.toNat true))) ∧
     (x.recs = [] →
       (q = f.n.toNat → exec (.qtry f) s = Outcome.next (s.after f.lit fun b => (none_ b).setP f.b.toNat false)) ∧
       (line → x.waitPop = [] → x.closed = true → x.ringCount = 0 →
         exec (.stgget f) s = Outcome.next (s.after f.lit fun b => (none_ b).setP f.b.toNat false)) ∧
       (q = f.n.toNat → exec (.qpop f) s = Outcome.next ((s.setHwq c q { x with waitPop := x.waitPop ++ [s.cur] }).setBlk
         { none_ (s.blk.opened f.lit) with wait := some (.pop q f.d none) })) ∧
       (line → x.closed = false → exec (.stgget f) s = Outcome.next ((s.setHwq c q { x with waitPop := x.waitPop ++ [s.cur] }).setBlk
         { none_ (s.blk.opened f.lit) with wait := some (.pop q f.d (some f.b)) }))) ∧
     (s.blk.stage = 0 → exec (.stgget f) s = Outcome.next ((s.opened f.lit).takeTrap { cause := .qdeadlock, detail := 55 } f.lit.isSome))) ∧
   (∀ (f : FmtQ) (s : State), Runs s f.gm [f.a, f.d] →
     let c := clusterOf s.myCore
     let x := s.hwq c f.n.toNat
     let v : BitVec 5 := f.d.setWidth 5
     let k := min (f.lit.getD (f.imm.setWidth 64)).toNat (min x.recs.length (s.blk.lanes / 8))
     exec (.qcnt f) s = Outcome.next (s.after f.lit fun b => b.setX f.d (BitVec.ofNat 64 (x.recs.length + x.ringCount))) ∧
     (s.blk.vPending v = false → x.waitPop = [] ∨ x.recs = [] →
       (s.blk.lanes = 0 → exec (.qtake f) s = Outcome.next ((s.opened f.lit).takeTrap { cause := .lanes } f.lit.isSome)) ∧
       (s.blk.lanes ≠ 0 → k = 0 ∨ (s.opened f.lit).refillFault x = none → (∀ r ∈ x.recs, r.length = 8) → s.blk.lanes ≤ 128 →
         ∃ u : State, exec (.qtake f) s = Outcome.next u ∧ u.hwq c f.n.toNat = { x with recs := x.recs.drop k } ∧
           (f.a ≠ 0 → u.blk.getX f.a = BitVec.ofNat 64 k) ∧ u.blk.pc = s.blk.pc + (if f.lit.isSome then 16 else 8) ∧
           (∀ i < 128, vGet (u.blk.getV v) 64 i = if i < 8 * k then (((x.recs[i / 8]?).getD [])[i % 8]?.getD 0).toNat
             else vGet (s.blk.getV v) 64 i) ∧
           (∀ r, r ≠ f.a → u.blk.getX r = s.blk.getX r) ∧ ∀ r, r ≠ v → u.blk.getV r = s.blk.getV r))) ∧
   (∀ (f : FmtQ) (s : State), Runs s f.gm (f.d :: (List.range 7).map fun i => BitVec.ofNat 6 (16 + i)) →
     let b := s.blk
     let size := fun (n : Nat) => (b.getX 22).toNat / 2 ^ (16 * n) % 2 ^ 16
     let good := ∀ n < 4, size n ∈ [0, 1, 2, 4, 8]
     let widest := max (max (size 0) (size 1)) (max (size 2) (size 3))
     let g := min (b.getX 17).toNat (b.lanes * 8 / (if widest = 0 then 8 else widest))
     (b.lanes = 0 → exec (.strip f) s = Outcome.next ((s.opened f.lit).takeTrap { cause := .lanes } f.lit.isSome)) ∧
     (b.lanes ≠ 0 → ¬good → exec (.strip f) s = Outcome.next ((s.opened f.lit).takeTrap { cause := .align } f.lit.isSome)) ∧
     (b.lanes ≠ 0 → good → ∃ u : State, exec (.strip f) s = Outcome.next u ∧ u.blk.pc = b.pc + (if f.lit.isSome then 16 else 8) ∧
       (f.d ≠ 0 → u.blk.getX f.d = BitVec.ofNat 64 g) ∧ (f.d ≠ 17 → u.blk.getX 17 = b.getX 17 - BitVec.ofNat 64 g) ∧
       (∀ n < 4, BitVec.ofNat 6 (18 + n) ≠ f.d → u.blk.getX (BitVec.ofNat 6 (18 + n)) = b.getX (BitVec.ofNat 6 (18 + n)) +
         BitVec.ofNat 64 (g * size n)) ∧ (f.b.toNat < 7 → u.blk.getP f.b.toNat = decide (0 < g)) ∧
       (∀ r, r ≠ f.d → r.toNat < 17 ∨ 21 < r.toNat → u.blk.getX r = b.getX r) ∧
       u.blk.ctl = { b.ctl with stripb := b.ctl.stripb + BitVec.ofNat 64 b.stripPrev } ∧ u.blk.stripPrev = g ∧ u.blk.v = b.v)) ∧
   (∀ (f : FmtQ) (s : State), Runs s f.gm [] → s.xPending f.d = false → 60 ≤ f.d.toNat →
     let q := (f.lit.getD (f.imm.setWidth 64)).toNat
     let x := s.dataq q
     let bank := (((s.core s.myCore).banks[q / 4]?).getD .cache)
     let fifo := fun (v : Option Nat) (b : Block) => { b with fifo := b.fifo.setIfInBounds (f.d.toNat - 60) v }
     (bank = .fifo → x.bound = none ∨ x.bound = some s.cur → s.blk.boundTo f.d = none →
       exec (.qbind f) s = Outcome.next ((s.setDataq q
         { bound := some s.cur, owner := some s.cur, entries := if x.owner = some s.cur then x.entries else [] }).after f.lit (fifo (some q)))) ∧
     (bank ≠ .fifo ∨ (∃ h, x.bound = some h ∧ h ≠ s.cur) ∨ s.blk.boundTo f.d ≠ none →
       exec (.qbind f) s = Outcome.next ((s.opened f.lit).takeTrap { cause := .tilestate } f.lit.isSome)) ∧
     (∀ k, s.pushesDue f.d = 0 → s.blk.boundTo f.d = some k →
       exec (.qbindUnbind f) s = Outcome.next ((s.setDataq k { s.dataq k with bound := none }).after f.lit (fifo none))))) ∧
  ((∀ (i : Nat) (p : Push) (b : Block) (s : State), s.pushes[i]? = some p → aget s.blocks p.hart = some b → b.rep = none → b.pops = [] →
     clusterOf (coreOf p.hart) = p.cluster →
     let x := { s.hwq p.cluster p.q with lastCk := s.ck, lastHart := p.hart }
     (s.hwq p.cluster p.q).lastCk ≠ s.ck ∨ (s.hwq p.cluster p.q).lastHart ≤ p.hart →
     let used := x.recs.length + (x.batch.map (·.length)).getD 0
     let o := { s with pushes := dropAt s.pushes i }
     let full := x.closed = true ∨ (x.ringCount = 0 ∧ 32 ≤ used ∧ x.qring.toNat % 64 = 0)
     (x.waitPush = [] → x.closed = false → x.ringCount = 0 → used < 32 → ∃ u : State, exec (.queuePushAccept i) s = Outcome.next u ∧
       u.hwq p.cluster p.q = { x with recs := x.recs ++ [p.rcd] } ∧ u.pushes = o.pushes ∧
       u.blkAt p.hart = { b.resumedBy id with wake := true } ∧ u.ms = s.ms) ∧
     (full → s.onlyConsumer p.cluster p.q p.hart = false →
       exec (.queuePushAccept i) s = Outcome.next (o.setHwq p.cluster p.q { x with waitPush := x.waitPush ++ [(p.hart, p.rcd)] })) ∧
     (full → s.onlyConsumer p.cluster p.q p.hart = true →
       exec (.queuePushAccept i) s = Outcome.next ((o.setHwq p.cluster p.q x).onHart p.hart fun s =>
         s.takeTrap { cause := .qdeadlock, detail := p.q } s.blk.pcLit))) ∧
   (∀ (c q h : Nat) (v : Rec) (t : List (Nat × Rec)) (b : Block) (s : State), (s.hwq c q).waitPush = (h, v) :: t → aget s.blocks h = some b →
     b.rep = none → b.pops = [] → clusterOf (coreOf h) = c → q < 64 →
     let x := s.hwq c q
     x.closed = false → x.ringCount = 0 → x.recs.length + (x.batch.map (·.length)).getD 0 < 32 →
     ∃ u : State, exec (.queueWaitPushServed c q) s = Outcome.next u ∧ u.hwq c q = { x with waitPush := t, recs := x.recs ++ [v] } ∧
       u.blkAt h = { b.resumedBy id with wake := true }) ∧
   (∀ (c q h k : Nat) (t : List Nat) (r : BitVec 6) (p : Option (BitVec 6)) (b : Block) (s : State), (s.hwq c q).waitPop = h :: t →
     aget s.blocks h = some b → b.wait = some (.pop k r p) → b.rep = none → b.pops = [] → (∀ r' ∈ recRegs r, b.boundTo r' = none) →
     let x := s.hwq c q
     let note := fun (v : Bool) (b : Block) => match p with
       | some p => b.setP p.toNat v
       | none => b
     (∀ v rest, x.recs = v :: rest → (s.focus h).refillFault x = none → v.length = 8 →
       ∃ u : State, exec (.queueWaitPopServed c q) s = Outcome.next u ∧ u.hwq c q = { x with recs := rest, waitPop := t } ∧
         u.blkAt h = b.resumedBy fun b => note true { (v.zipIdx).foldl (fun (b : Block) w => b.setX (r + BitVec.ofNat 6 w.2) w.1) b with
           stripPrev := 0 }) ∧
     (x.recs = [] → x.closed = true → x.ringCount = 0 → p ≠ none → ∃ u : State, exec (.queueWaitPopServed c q) s = Outcome.next u ∧
       u.hwq c q = { x with waitPop := t } ∧ u.blkAt h = b.resumedBy (note false))) ∧
   (∀ (c q : Nat) (s : State),
     let x := s.hwq c q
     let n := min 8 (min (32 - x.recs.length) x.ringCount)
     (∀ rs u, x.batch = none → n ≠ 0 → s.batchRead c q x x.ringHead n = some (rs, u) →
       exec (.refillBatchStart c q) s = Outcome.next (u.setHwq c q
       { x with
         batch := some (rs.map fun r => r.1)
         batchAt := u.ck
         batchTags := List.filterMap (fun (r : _ × Nat) => r.1.2.map fun t => (t, r.2)) rs.zipIdx })) ∧
     (∀ rs, x.batch = some rs → x.batchTags = [] → exec (.refillBatchLand c q) s = Outcome.next (s.setHwq c q { x with
       recs := x.recs ++ rs, batch := none, ringHead := x.ringHead + rs.length, ringCount := x.ringCount - rs.length })) ∧
     (s.stageEnds c q = true → exec (.stageQueueClose c q) s = Outcome.next (s.setHwq c q { x with closed := true }))))

/-- The hart holds the word at a virtual address that the instruction at its PC has read for itself. -/
def Sys2Proof.Machine.Block.holdsWord (b : Block) (va v : Nat) : Prop := (b.words.find? fun w => w.1 == va) = some (va, v)

/-- The entry of a frame AMO in the store queue, whose answer the hart awaits (R112, R449). -/
def Sys2Proof.Machine.FrameSent (s t : State) (pre : List SqOp) (pa kind cont : Nat) (inplace : Bool) : Prop :=
  ∃ q, t.blk.pend = s.blk.pend ++ [q] ∧ q.pa = pa ∧ q.amo = true ∧ t.blk.sq = s.blk.sq ++ pre ++ [.frame q.id pa kind cont inplace] ∧
    t.blk.wait = some .frameAmo ∧ t.blk.x = s.blk.x ∧ t.blk.pc = s.blk.pc

/-- The hart is left: its block is gone, and its launch has one block fewer in its stage and the stack area back (R99, R347). -/
def Sys2Proof.Machine.Left (s t : State) : Prop :=
  aget t.blocks s.cur = none ∧ ∀ l, s.launchOf s.blk.launch = some l → ∃ k, t.launchOf s.blk.launch = some k ∧
    k.live = l.live.set s.blk.stage ((l.live[s.blk.stage]?).getD 0 - 1) ∧
    ∀ a, a ∈ k.areasUsed ↔ a ∈ l.areasUsed ∧ l.stackBase + a * l.areaBytes ≠ s.blk.stackBase.toNat

/-- What a frame gives back: X16 to X31 and P0 to P6 (R110). -/
def Sys2Proof.Machine.FrameBack (b : Block) (ws : List Nat) : Prop :=
  b.getX 16 = b.stackBase ∧ b.getX 17 = BitVec.ofNat 64 (ws.headD 0 / 128 * 128) ∧
  (∀ i < 14, b.getX (BitVec.ofNat 6 (18 + i)) = BitVec.ofNat 64 ((ws[2 + i]?).getD 0)) ∧ b.p = BitVec.ofNat 8 (0x80 + ws.headD 0 % 128)

/-- R110 to R112, R347, R449 to R451: FORK increments JOIN by an AMO of its frame, then hands its child to placement; the child starts with
its registers; where nothing is free it becomes pending. SYNC reads word 0 of its frame, writes the frame and asks JOIN by an AMO: with no child outstanding it completes, else its block suspends, in place or
away. EXIT and TASKEND end a block whose tile work is done; the last child to end causes its parent's resume, with the frame's registers.
Where the rules leave a point to the model, it follows log entries 25, 46, 47 and 83. -/
def Obligations.Tasks : Prop :=
  (∀ (f : FmtY) (s : State), Runs s f.gm [f.a, f.c.setWidth 6] →
    let b := s.blk
    let entry := f.lit.getD (b.pc + f.imm.signExtend 64)
    (b.frameAns = none → entry.toNat % 8 ≠ 0 →
      exec (.fork f) s = Outcome.next ((s.opened f.lit).takeTrap { cause := .align, access := .fetch, va := entry } f.lit.isSome)) ∧
    (∀ pa, b.frameAns = none → entry.toNat % 8 = 0 → s.calm .device → Reaches s f.lit .amo .atomic (b.stackBase.toNat + 8) 8 pa →
      (∀ off, aperture pa ≠ .peer off) → b.sq.length < 16 → ∃ t, exec (.fork f) s = Outcome.next t ∧ FrameSent s t [] pa 0 0 false) ∧
    (∀ k w, b.frameAns = some (k, w) → w % 4096 = 4095 →
      exec (.fork f) s = Outcome.next (((s.opened f.lit).updBlk fun b => { b with frameAns := none }).takeTrap { cause := .stack } f.lit.isSome)) ∧
    (∀ k w, b.frameAns = some (k, w) → w % 4096 ≠ 4095 →
      let child : Child :=
        { launch := b.launch, home := s.cur, entry := entry, arg1 := b.getX f.a, arg2 := b.getX (f.c.setWidth 6), parentFrame := b.stackBase
          gx := b.gx, gy := b.gy, gz := b.gz, stage := b.stage, fctl := b.ctl.fctl &&& 0x3FFFF, seed := b.ctl.seed, srgn := b.ctl.srgn
          gen := b.gen }
      exec (.fork f) s = Outcome.next ((s.setCp fun cp => { cp with children := cp.children ++ [child] }).after f.lit fun b =>
        { b with frameAns := none }))) ∧
  (∀ (n : Nat) (k : Child) (s : State), s.cp.children[n]? = some k → s.placeChild k = none → exec (.forkChildPlace n) s =
    Outcome.next (if k.pending = true ∧ s.restoreDue = true then s
      else s.setCp fun cp => { cp with children := cp.children.set n { k with pending := true } })) ∧
  (∀ (n h a : Nat) (k : Child) (l : Launch) (s : State), s.cp.children[n]? = some k → (k.pending = true → s.restoreDue = false) →
    s.launchOf k.launch = some l → (if k.pending then s.pendingHart l else s.childHart k l) = some h →
    (State.freeAreas l).head? = some a → ∃ u : State, exec (.forkChildPlace n) s = Outcome.next u ∧
      u.cp.children = dropAt s.cp.children n ∧
      let b := u.blkAt h
      b.placed = true ∧ b.child = true ∧ b.pc = k.entry ∧ b.getX 1 = k.arg1 ∧ b.getX 2 = k.arg2 ∧ b.getX 9 = BitVec.ofNat 64 a ∧
      b.getX 16 = BitVec.ofNat 64 a ∧ b.getX 17 = k.parentFrame ∧ (∀ r : BitVec 6, r ∉ [1, 2, 9, 16, 17] → b.getX r = 0) ∧ b.p = 0x80 ∧
      b.gx = k.gx ∧ b.gy = k.gy ∧ b.gz = k.gz ∧ b.gangPos = 0 ∧ b.stage = k.stage ∧ b.level = .k ∧ b.groups = [] ∧ b.tnames = [] ∧
      b.tokens = [] ∧ b.ctl.fctl = k.fctl ∧ b.ctl.seed = k.seed ∧ b.ctl.srgn = k.srgn) ∧
  (∀ (f : FmtQ) (s : State), Runs s f.gm [] →
    let b := s.blk
    let o := s.opened f.lit
    let va := b.stackBase.toNat
    (b.frameAns = none → (∀ w ∈ b.words, w.1 ≠ va) → (∀ p ∈ b.pend, p.dest ≠ .word va) → b.peerBad = none → b.memReady = true →
      ∀ pa x u, o.probe .load .load va 8 0 = ProbeRes.ok pa x →
        (o.tlbTouch va).startLoad va pa 8 .device none (.word va) 0 = State.LoadRes.sent u →
        exec (.sync f) s = Outcome.next (u.waitFor .retry)) ∧
    (∀ w0 pa pb, b.frameAns = none → b.holdsWord va w0 → (∃ x, o.probe .store .store va 8 0 = ProbeRes.ok pa x) →
      (∃ x, o.probe .amo .atomic (va + 8) 8 0 = ProbeRes.ok pb x) → (∀ off, aperture pb ≠ .peer off) → b.sq.length < 15 →
      ∃ t, exec (.sync f) s = Outcome.next t ∧ FrameSent s t [.store ((pa, 8, w0 / 128 * 128 + b.p.toNat % 128) ::
        (List.range 14).map fun i => (pa + 16 + 8 * i, 8, (b.getX (BitVec.ofNat 6 (18 + i))).toNat)) .device true] pb 1
        ((b.pc + 8).toNat / 8 % 2 ^ 50) (State.suspendsInPlace b)) ∧
    (∀ k w, b.frameAns = some (k, w) → w % 4096 = 0 → ∃ t, exec (.sync f) s = Outcome.next t ∧ t.blk.frameAns = none ∧ t.blk.x = b.x ∧
      t.blk.pc = b.pc + (if f.lit.isSome then 16 else 8) ∧ t.blk.wait = none) ∧
    (∀ w, b.frameAns = some (3, w) → w % 4096 ≠ 0 → ∃ t, exec (.sync f) s = Outcome.next t ∧ t.blk.frameAns = none ∧
      t.blk.wait = some (.sync true) ∧ t.blk.x = b.x ∧ t.blk.pc = b.pc) ∧
    (∀ w, b.frameAns = some (1, w) → w % 4096 ≠ 0 → s.calm .device → ∃ t y, exec (.sync f) s = Outcome.next t ∧ aget t.blocks s.cur = none ∧
      t.cp.suspended = s.cp.suspended ++ [y] ∧ y.frame = b.stackBase ∧ y.blk.wait = some (.sync false) ∧ y.blk.ctl = b.ctl) ∧
    (∀ w1, b.frameAns = none → b.live = [] → b.child = false → b.holdsWord (va + 8) w1 → w1 % 4096 = 0 → s.calm .system →
      (∃ t, exec (.taskend f) s = Outcome.next t ∧ Left s t) ∧
      ∀ g : FmtA, g.gm = f.gm → g.lit = f.lit → ∃ t, exec (.exit g) s = Outcome.next t ∧ Left s t) ∧
    (∀ w1 w0 pb, b.frameAns = none → b.live = [] → b.child = true → b.holdsWord (va + 8) w1 → w1 % 4096 = 0 →
      b.holdsWord va w0 → s.calm .device → (∃ x, o.probe .amo .atomic (w0 / 128 * 128 + 8) 8 0 = ProbeRes.ok pb x) →
      (∀ off, aperture pb ≠ .peer off) → b.sq.length < 16 →
      ∃ t, exec (.taskend f) s = Outcome.next t ∧ FrameSent s t [] pb 2 0 false) ∧
    (∀ w w0, b.frameAns = some (2, w) → b.live = [] → b.child = true → b.holdsWord va w0 →
      ∃ t, exec (.taskend f) s = Outcome.next t ∧ Left s t ∧
        t.cp.resumes = s.cp.resumes ++ (if w % 4096 = 1 ∧ w.testBit 12 = true then
          [{ launch := b.launch, frame := BitVec.ofNat 64 (w0 / 128 * 128), inplace := w.testBit 13, hart := s.cur
             cont := (BitVec.ofNat 53 (8 * (w / 2 ^ 14 % 2 ^ 50))).signExtend 64 }] else []))) ∧
  (∀ (n : Nat) (r : Resume) (s : State), s.cp.resumes[n]? = some r →
    let o := s.setCp fun cp => { cp with resumes := dropAt cp.resumes n }
    (∀ x v ws, r.inplace = false → s.cp.suspended.find? (fun x => State.isParent r x.blk) = some x → (s.blkAt r.hart).placed = false →
      o.readFrame x.blk.ctx r.frame.toNat = (v, Except.ok ws) → ∃ u : State, exec (.parentResume n) s = Outcome.next u ∧
        u.cp.resumes = dropAt s.cp.resumes n ∧
        let b := u.blkAt r.hart
        b.placed = true ∧ b.pc = r.cont ∧ FrameBack b ws ∧ b.stackBase = x.blk.stackBase ∧ b.ctl = x.blk.ctl ∧ b.wait = none ∧
        ∀ q : BitVec 6, q.toNat < 16 ∨ 31 < q.toNat → b.getX q = 0) ∧
    (∀ h b v ws, r.inplace = true → s.blocks.find? (fun (e : Nat × Block) => e.2.placed && State.isParent r e.2 &&
        e.2.wait == some (.sync true) && e.2.stop == 0) = some (h, b) →
      o.readFrame b.ctx r.frame.toNat = (v, Except.ok ws) → ∃ u : State, exec (.parentResume n) s = Outcome.next u ∧
        u.cp.resumes = dropAt s.cp.resumes n ∧
        let c := u.blkAt h
        c.pc = r.cont ∧ FrameBack c ws ∧ c.ctl = b.ctl ∧ c.wait = none ∧ c.tnames = b.tnames ∧ c.groups = b.groups ∧
        ∀ q : BitVec 6, q.toNat < 16 ∨ 31 < q.toNat → c.getX q = b.getX q))

/-! ## Events, control registers, system operations -/

/-- R453 to R456, R45, R349: EVSIG adds 1 to an event's count and wakes every hart; EVWAIT completes as an acquire with the count once it has
reached X[b], and waits until then; SIGNAL puts a SYSTEM-scope release whose write stores, or adds, X[b]; TIME reads the timestamp.
Where the rules leave a point to the model, it follows log entries 43 and 74. -/
def Obligations.Signals : Prop :=
  (∀ (f : FmtQ) (s : State), Runs s f.gm [f.a, f.b, f.d] →
    let b := s.blk
    let e := (b.getX f.a + f.lit.getD (f.imm.setWidth 64)).toNat
    let n := s.eventCount b.ctx e
    (e = 0 ∨ 255 < e → exec (.evsig f) s = Outcome.next ((s.opened f.lit).takeTrap { cause := .perm } f.lit.isSome)) ∧
    (1 ≤ e → e ≤ 255 → s.calm .device → (s.context b.ctx).isSome = true → ∃ u : State, exec (.evsig f) s = Outcome.next u ∧
      u.eventCount b.ctx e = n + 1 ∧ (∀ k, k ≠ e → u.eventCount b.ctx k = s.eventCount b.ctx k) ∧
      (∀ h c, aget s.blocks h = some c → (u.blkAt h).wake = true) ∧ u.blk.x = b.x ∧ u.blk.pc = b.pc + (if f.lit.isSome then 16 else 8) ∧
      u.ms = s.ms) ∧
    (255 < e → exec (.evwait f) s = Outcome.next ((s.opened f.lit).takeTrap { cause := .perm } f.lit.isSome)) ∧
    (e ≤ 255 → (b.getX f.b).toNat ≤ n.toNat → exec (.evwait f) s = Outcome.next ((s.acquired .device).after f.lit fun b => b.setX f.d n)) ∧
    (e ≤ 255 → n.toNat < (b.getX f.b).toNat →
      exec (.evwait f) s = Outcome.next (s.setBlk { b.opened f.lit with wait := some (.evwait e (b.getX f.b) f.d) })) ∧
    exec (.time f) s = Outcome.next (s.after f.lit fun b => b.setX f.d (BitVec.ofNat 64 s.ts))) ∧
  (∀ (h e : Nat) (v : Word) (d : BitVec 6) (s : State), (s.blkAt h).wait = some (.evwait e v d) → (s.blkAt h).rep = none →
    (s.blkAt h).pops = [] → (s.blkAt h).boundTo d = none → v.toNat ≤ (s.eventCount (s.blkAt h).ctx e).toNat →
    exec (.evwaitSatisfied h) s = Outcome.next ((((s.focus h).acquired .device).after (s.blkAt h).heldLit fun b =>
      b.setX d (s.eventCount (s.blkAt h).ctx e)).focus s.cur)) ∧
  (∀ (f : FmtQ) (s : State) (pa : Nat), Runs s f.gm [f.a, f.b] → s.blk.sq.length < 16 → s.blk.releasing = false → s.blk.rel = .none →
    s.peerWrites = false →
    let va := (s.blk.getX f.a + f.lit.getD (f.imm.signExtend 64)).toNat
    let put := fun (add : Bool) => (s.tlbTouch va).queued f.lit (.release .system (some (pa, 8, (s.blk.getX f.b).toNat)) add .drain false)
    Reaches s f.lit .store .store va 8 pa →
    exec (.signal f) s = Outcome.next (put false) ∧
    ((∀ a, aperture pa ≠ .host a) → exec (.signalAdd f) s = Outcome.next (put true)) ∧
    (∀ a, aperture pa = .host a → ∃ u : State, exec (.signalAdd f) s =
      Outcome.next (u.takeTrap { cause := .perm, access := .store, va := BitVec.ofNat 64 va } f.lit.isSome) ∧ u.blk = s.blk.opened f.lit))

/-- The control registers whose value GETC reads as it stands (R289, R290). -/
def Sys2Proof.Machine.ctlTable : List (Nat × (State → Word)) :=
  let nat := fun (x : Nat) => BitVec.ofNat 64 x
  ([(0x000, fun s => nat (s.cur % 8)), (0x001, fun s => nat (s.myCore % 8)), (0x002, fun s => nat (s.myCore / 8 % 10)),
   (0x003, fun s => nat (s.myCore / 80)), (0x004, fun s => nat s.blk.gx), (0x005, fun s => nat s.blk.gy), (0x006, fun s => nat s.blk.gz),
   (0x007, fun s => nat s.blk.gangPos), (0x008, fun s => nat s.blk.stage), (0x009, fun s => nat s.blk.lanes),
   (0x00A, fun s => s.blk.estart), (0x00B, fun s => s.blk.ctl.vstat), (0x00C, fun s => nat s.blk.gen), (0x010, fun s => s.blk.ctl.fctl),
   (0x011, fun s => s.blk.ctl.seed), (0x012, fun s => s.blk.ctl.stripb), (0x018, fun s => if (s.core s.myCore).schedPol then 1 else 0),
   (0x01B, fun s => nat s.plat.pwrFloor), (0x020, fun s => s.blk.ctl.tvec), (0x021, fun s => s.blk.ctl.tdeleg),
   (0x022, fun s => s.blk.ctl.tcause), (0x023, fun s => s.blk.ctl.tinfo), (0x024, fun s => s.blk.ctl.tepc),
   (0x025, fun s => s.blk.ctl.testart), (0x026, fun s => s.blk.ctl.tva), (0x027, fun s => s.blk.ctl.savea)] :
    List (Nat × (State → Word))) ++
  (List.range 4).flatMap fun i =>
    ([(0x014 + i, fun s => (s.blk.ctl.srgn[i]?).getD 0), (0x030 + i, fun s => (s.blk.ctl.bpc[i]?).getD 0),
     (0x034 + i, fun s => (s.blk.ctl.wpa[i]?).getD 0), (0x038 + i, fun s => (s.blk.ctl.wpl[i]?).getD 0)] :
      List (Nat × (State → Word)))

/-- The per-block control registers that SETC writes, with the bits that they hold (R237, R262, R282, R289, R291). -/
def Sys2Proof.Machine.ctlWritten : List (Nat × Word) :=
  [(0x00B, 0xF003), (0x011, -1), (0x012, -1), (0x014, -1), (0x015, -1), (0x016, -1), (0x017, -1), (0x020, ~~~6), (0x021, 0xFFFFFE),
   (0x022, 0xFFF0000000FF), (0x023, -1), (0x024, -1), (0x025, -1), (0x026, -1), (0x027, -1), (0x030, ~~~4), (0x031, ~~~4), (0x032, ~~~4),
   (0x033, ~~~4), (0x034, -1), (0x035, -1), (0x036, -1), (0x037, -1), (0x038, 0xFFFFFFFF0F), (0x039, 0xFFFFFFFF0F),
   (0x03A, 0xFFFFFFFF0F), (0x03B, 0xFFFFFFFF0F)]

/-- K-level code may name a control register, and no unretired tile instruction holds GETC and SETC of it back (R239, R288, R289). -/
def Sys2Proof.Machine.CtlReady (b : Block) (n : Nat) : Prop :=
  (b.level = .k → ¬(0x020 ≤ n ∧ n < 0x028) ∧ ¬(0x030 ≤ n ∧ n < 0x03C)) ∧ (n = 0x010 ∨ n = 0x00B → b.live = [])

/-- The privileged instructions of group 8 (R260, R457). -/
noncomputable def Sys2Proof.Machine.privilegedY : List (FmtY → Instr) :=
  [.eret, .halt, .suspend, .resumeb, .probev, .bankcfg, .l2cfg, .tlbinvRange, .tlbinvAll, .ctxsave, .ctxload, .scrub, .measure]

/-- R237, R239, R260 to R262, R288 to R291, R457 to R459, R463, R464: GETC reads a control register, SETC changes that one alone, by the bits
that it holds, and leaves a read-only one; a privileged register or instruction raises PRIV at K level. HALT, SUSPEND and RESUMEB halt a
hart and let it go on; TRACE writes a record of kind 1; PROBEV and NBRD read the device's words.
Where the rules leave a point to the model, it follows log entries 6, 22 and 41. -/
def Obligations.SystemRegisters : Prop :=
  (∀ (f : FmtY) (s : State), Runs s f.gm [f.d] → CtlReady s.blk f.c.toNat →
    (∀ p ∈ ctlTable, p.1 = f.c.toNat → exec (.getc f) s = Outcome.next (s.after f.lit fun b => b.setX f.d (p.2 s))) ∧
    (∀ q < 64, f.c.toNat = 0x100 + q →
      exec (.getc f) s = Outcome.next (s.after f.lit fun b => b.setX f.d (s.hwq (clusterOf s.myCore) q).qring)) ∧
    (f.c.toNat = 0x01A → exec (.getc f) s = Outcome.next (s.after f.lit fun b => b.setX f.d
      (BitVec.ofNat 64 (s.plat.pwrRise + s.plat.pwrFall * 65536)))) ∧
    (f.c.toNat = 0x028 → exec (.getc f) s = Outcome.next (s.after f.lit fun b => b.setX f.d (State.haltstatOf (s.opened f.lit).blk))) ∧
    (f.c.toNat = 0x019 → ∃ v : Word, exec (.getc f) s = Outcome.next (s.after f.lit fun b => b.setX f.d v) ∧
      ∀ i < 32, v.extractLsb' (2 * i) 2 = match (s.core s.myCore).banks[i]? with
        | some .tile => 1
        | some .fifo => 2
        | some (.switching _ _) => 3
        | _ => 0)) ∧
  (∀ (f : FmtY) (s : State), Runs s f.gm [f.a] → CtlReady s.blk f.c.toNat →
    let b := s.blk
    let n := f.c.toNat
    let v := b.getX f.a + f.lit.getD (f.imm.signExtend 64)
    let moved := fun (u : State) => u.blk.pc = b.pc + (if f.lit.isSome then 16 else 8) ∧ u.blk.x = b.x ∧ u.blk.v = b.v ∧ u.blk.m = b.m ∧
      u.blk.p = b.p ∧ u.blk.d = b.d
    (∀ p ∈ ctlWritten, p.1 = n → ∃ u : State, exec (.setc f) s = Outcome.next u ∧ ctlGet u.blk n = v &&& p.2 ∧
      (∀ m, m ≠ n → ctlGet u.blk m = ctlGet b m) ∧ moved u) ∧
    (n = 0x010 → ∃ u : State, exec (.setc f) s = Outcome.next u ∧
      u.blk.ctl = { b.ctl with fctl := if 6 ≤ v.toNat % 8 then v &&& 0xFFE018 else v &&& 0xFFE01F } ∧ moved u) ∧
    (n = 0x018 → ∃ u : State, exec (.setc f) s = Outcome.next u ∧ u.core s.myCore = { s.core s.myCore with schedPol := v.getLsbD 0 } ∧
      u.blk.ctl = b.ctl ∧ moved u) ∧
    (n < 0x00B ∨ n = 0x00C ∨ n = 0x019 → ∃ u : State, exec (.setc f) s = Outcome.next u ∧ u.blk.ctl = b.ctl ∧ u.cores = s.cores ∧
      u.plat = s.plat ∧ moved u) ∧
    (n = 0x01B → ∃ u : State, exec (.setc f) s = Outcome.next u ∧ u.blk.ctl = b.ctl ∧ moved u ∧
      u.plat.pwrFloor = if b.level = .s then min 90 (v.toNat % 256) else s.plat.pwrFloor) ∧
    (n = 0x01A → ∃ u : State, exec (.setc f) s = Outcome.next u ∧ u.blk.ctl = b.ctl ∧ moved u ∧
      (b.level = .k → u.plat = s.plat) ∧
      (b.level = .s → u.plat.pwrRise = max 50 (min 400 (v.toNat % 65536)) ∧ u.plat.pwrFall = max 50 (min 400 (v.toNat / 65536 % 65536)))) ∧
    (n = 0x028 → ∃ u : State, exec (.setc f) s = Outcome.next u ∧ moved u ∧ (b.level = .k → u.blk.ctl = b.ctl)) ∧
    (∀ q < 64, n = 0x100 + q →
      let x := s.hwq (clusterOf s.myCore) q
      (x.ringCount ≠ 0 ∨ x.batch.isSome = true ∨ s.stageQueue (clusterOf s.myCore) q = true → ∃ u : State,
        exec (.setc f) s = Outcome.next u ∧ u.cores = s.cores ∧ u.queues = s.queues ∧ u.blk.ctl = b.ctl ∧ moved u) ∧
      (x.ringCount = 0 → x.batch = none → s.stageQueue (clusterOf s.myCore) q = false → ∃ u : State, exec (.setc f) s = Outcome.next u ∧
        u.hwq (clusterOf s.myCore) q = { x with qring := State.qringStored v, ringHead := 0, ringCount := 0 } ∧ u.blk.ctl = b.ctl ∧ moved u))) ∧
  (∀ (f : FmtY) (s : State), Runs s f.gm [f.a, f.d] → s.blk.level = .k →
    (0x020 ≤ f.c.toNat ∧ f.c.toNat < 0x028) ∨ (0x030 ≤ f.c.toNat ∧ f.c.toNat < 0x03C) →
    let t := (s.opened f.lit).takeTrap { cause := .priv } f.lit.isSome
    exec (.getc f) s = Outcome.next t ∧ exec (.setc f) s = Outcome.next t) ∧
  (∀ p ∈ privilegedY, ∀ (f : FmtY) (s : State), s.blk.guard f.gm = true → s.blk.level = .k →
    exec (p f) s = Outcome.next (s.takeTrap { cause := .priv } f.lit.isSome)) ∧
  (∀ (f : FmtY) (s : State), Runs s f.gm [f.a, f.d] →
    let b := s.blk
    let h := (b.getX f.a).toNat
    let there := h ≤ 1279 ∧ (s.blkAt h).placed = true
    let v := b.getX f.a + f.lit.getD (f.imm.signExtend 64)
    exec (.trace f) s = Outcome.next ((s.trace s.myCore 1 s.cur b.pc v).after f.lit id) ∧
    exec (.nbrd f) s = Outcome.next (s.after f.lit fun b => b.setX f.d (nbWord v)) ∧
    (b.level = .s →
      (∃ u : State, exec (.halt f) s = Outcome.next u ∧ u.blk.ctl.haltstat = haltedStat b.ctl.haltstat 5 ∧ u.blk.x = b.x ∧
        u.blk.pc = b.pc + (if f.lit.isSome then 16 else 8)) ∧
      (∀ i < 16, f.c = BitVec.ofNat 12 i → exec (.probev f) s = Outcome.next (s.after f.lit fun b => b.setX f.d (probeWord s.plat i))) ∧
      (¬there → exec (.suspend f) s = Outcome.next (s.after f.lit id) ∧ exec (.resumeb f) s = Outcome.next (s.after f.lit id)) ∧
      (there → (s.blkAt h).ctx ≠ b.ctx → ∀ p ∈ ([.suspend, .resumeb] : List (FmtY → Instr)),
        exec (p f) s = Outcome.next ((s.opened f.lit).takeTrap { cause := .perm } f.lit.isSome)) ∧
      (there → (s.blkAt h).ctx = b.ctx →
        let halted := (s.blkAt h).ctl.haltstat.getLsbD 0
        let went := fun (u : State) => (h ≠ s.cur → (u.blkAt h).pc = (s.blkAt h).pc ∧ u.blk = b.moved f.lit) ∧
          u.blk.x = b.x ∧ u.blk.pc = b.pc + (if f.lit.isSome then 16 else 8)
        (halted = false → exec (.resumeb f) s = Outcome.next (s.after f.lit id) ∧ ∃ u : State, exec (.suspend f) s = Outcome.next u ∧
          (u.blkAt h).ctl.haltstat = haltedStat (s.blkAt h).ctl.haltstat 1 ∧ went u) ∧
        (halted = true → (∃ u : State, exec (.suspend f) s = Outcome.next u ∧ (u.blkAt h).ctl = (s.blkAt h).ctl ∧ went u) ∧
          ∃ u : State, exec (.resumeb f) s = Outcome.next u ∧ (u.blkAt h).ctl.haltstat = (s.blkAt h).ctl.haltstat &&& 0x20 ∧
            (u.blkAt h).wake = true ∧ went u)))) ∧
  (∀ p : Platform, probeWord p 1 = p.serial ∧ probeWord p 4 = p.memrate.setWidth 64 ∧ probeWord p 5 = p.fuseN ∧ probeWord p 6 = p.fuseS ∧
    probeWord p 9 = BitVec.ofNat 64 p.rank ∧ probeWord p 14 = p.savePoolB ∧ probeWord p 15 = p.savePoolS) ∧
  nbWord (0x15 ||| 0x16 <<< 6) = 0x8556818141080000 ∧ nbWord (0x1000 ||| 0x15 ||| 0x16 <<< 6) = 0x1200415000000000

/-- The physical pieces of a range of memory whose pages all translate for the hart in focus, in device memory, scratch or the alias. -/
def Sys2Proof.Machine.State.pieces (s : State) (k : AKind) : Nat → Nat → Nat → Option (List (Nat × Nat))
  | 0, _, _ => some []
  | fuel + 1, va, len =>
    if len = 0 then some []
    else
      let n := min len (8192 - va % 8192)
      match s.translate k va with
      | .ok _ pa =>
        match aperture pa with
        | .peer _ | .host _ => none
        | _ => (s.pieces k fuel ((va + n) % 2 ^ 64) (len - n)).map fun l => (pa, n) :: l
      | _ => none

/-- The hart has no access under way. -/
def Sys2Proof.Machine.Quiet (b : Block) : Prop := b.live = [] ∧ b.sq = [] ∧ b.pend = [] ∧ b.unacked = []

/-- R66, R153, R154, R163, R183, R462, R465, R472: at S level, BANKCFG and L2CFG wait for their turn, begin their conversions and wait for them; TLBINV drops the
translations of its range from every TLB and waits; CTXSAVE writes its image and its length; CTXLOAD takes an image's state or raises
PREEMPT; SCRUB goes on once no lock stands in its range; MEASURE gives its bytes to the security unit. The completions let the hart go on.
Where the rules leave a point to the model, it follows log entries 51 and 52. -/
def Obligations.SystemOperations : Prop :=
  (∀ (f : FmtY) (s : State), Runs s f.gm [f.a, f.d] → s.blk.level = .s →
    let b := s.blk
    let o := s.opened f.lit
    let c := s.myCore
    let n := f.c.toNat
    let m := (f.lit.getD (f.imm.setWidth 64)).toNat
    let y := b.getX f.a + f.lit.getD (f.imm.setWidth 64)
    let lo := (b.getX f.a).toNat
    let len := (b.getX f.d).toNat
    let waits := fun (w : Wait) => { b.opened f.lit with wait := some w }
    let quiet := b.sq = [] ∧ b.pend = [] ∧ b.unacked = []
    let holds := Outcome.next ((o.joinBank n).waitFor .retry)
    (∀ t u, (s.core c).banks[n]? = some (.switching t u) → exec (.bankcfg f) s = holds) ∧
    (∀ old, (s.core c).banks[n]? = some old → (∀ t u, old ≠ .switching t u) →
      (o.bankTurn n = false ∨ (old = .cache ∧ old ≠ bankModeOf m ∧ ¬quiet) → exec (.bankcfg f) s = holds) ∧
      (o.bankTurn n = true →
        (old = bankModeOf m → exec (.bankcfg f) s = Outcome.next ((s.leaveBank n).after f.lit id)) ∧
        (old ≠ bankModeOf m → o.bankFree c n = false → exec (.bankcfg f) s =
          Outcome.next ((o.leaveBank n).takeTrap { cause := .tilestate } f.lit.isSome)) ∧
        (old ≠ bankModeOf m → o.bankFree c n = true → old ≠ .cache → exec (.bankcfg f) s =
          Outcome.next (((s.leaveBank n).setBank c n (.switching m 0)).setBlk (waits (.bank n m)))) ∧
        (old ≠ bankModeOf m → old = .cache → quiet → ∃ u : State, exec (.bankcfg f) s = Outcome.next u ∧
          (u.core c).banks[n]? = some (.switching m 0) ∧ (∀ l ∈ (u.core c).l1, l.way ≠ n) ∧ u.blk.wait = some (.bank n m) ∧
          u.blk.x = b.x ∧ u.blk.pc = b.pc))) ∧
    (aget s.plat.scrTarget n = none → exec (.l2cfg f) s = Outcome.next ((s.setPlat fun p =>
      { p with scrTarget := aset p.scrTarget n (min y.toNat 12) }).setBlk (waits (.l2cfg n)))) ∧
    (∀ k, aget s.plat.scrTarget n = some k → exec (.l2cfg f) s = Outcome.next ((s.setPlat fun p =>
      { p with scrWait := p.scrWait ++ [(n, s.cur, min y.toNat 12)] }).setBlk (waits (.l2cfg n)))) ∧
    (len = 0 → exec (.tlbinvRange f) s = Outcome.next (s.after f.lit id)) ∧
    (∀ p ∈ ([(.tlbinvRange, false), (.tlbinvAll, true)] : List ((FmtY → Instr) × Bool)), p.2 = true ∨ len ≠ 0 →
      ∃ u : State, exec (p.1 f) s = Outcome.next u ∧ u.blk.wait = some (.inval s.cp.nextInval) ∧ u.blk.x = b.x ∧ u.blk.pc = b.pc ∧
        (∀ k x, x ∈ (u.core k).tlb ↔ x ∈ (s.core k).tlb ∧ affects b.ctx p.2 lo len x = false) ∧
        ∃ i ∈ u.cp.invals, i.id = s.cp.nextInval ∧ i.hart = some s.cur) ∧
    (b.live = [] → lo % 64 ≠ 0 → exec (.ctxsave f) s = Outcome.next (o.takeTrap
      { cause := .align, access := .store, va := BitVec.ofNat 64 lo } f.lit.isSome)) ∧
    (let img := imageOf (o.savedOf s.cur) (o.gangIndex b) (b.pc + 8) 0
     ∀ l, b.live = [] → lo % 64 = 0 → s.calm .device → o.pieces .store (State.pagesOf img.length) lo img.length = some l → o.piecesBusy l = false →
      ∃ u : State, exec (.ctxsave f) s = Outcome.next u ∧ u.ms = (o.putPieces l img).ms ∧ (f.d ≠ 0 → u.blk.getX f.d = BitVec.ofNat 64 img.length) ∧
        (∀ r, r ≠ f.d → u.blk.getX r = b.getX r) ∧ u.blk.pc = b.pc + (if f.lit.isSome then 16 else 8)) ∧
    (∀ hd l, Quiet b → o.pieces .load 2 lo 16 = some hd →
      let n := ofLe ((o.getPieces hd).drop 8 |>.take 4)
      let v : ImageView := { bytes := o.getPieces l }
      o.pieces .load (State.pagesOf n) lo (max n 16) = some l → o.piecesBusy l = false →
      (o.badPieces l = true ∨ v.good = false ∨ field (v.get 32 8) 8 2 ≠ b.gen →
        exec (.ctxload f) s = Outcome.next (o.takeTrap { cause := .preempt } f.lit.isSome)) ∧
      (o.badPieces l = false → v.good = true → field (v.get 32 8) 8 2 = b.gen →
        let r := o.imageBase s.cur (l.headD (0, 0)).1 v
        (∀ u, r.1.loadImage s.cur v r.2 = some u → exec (.ctxload f) s = Outcome.next u) ∧
        (r.1.loadImage s.cur v r.2 = none → exec (.ctxload f) s = Outcome.next (r.1.takeTrap { cause := .tilestate } f.lit.isSome)))) ∧
    (len = 0 → exec (.scrub f) s = Outcome.next (s.after f.lit id)) ∧
    (lo + len ≤ 0x00C000000000 → (∀ k ∈ s.ms.locks, k.line < lineOf lo ∨ lo + len ≤ k.line) → exec (.scrub f) s = Outcome.next (s.after f.lit id)) ∧
    (0 < len → lo + len ≤ 0x00C000000000 → (∃ k ∈ s.ms.locks, lineOf lo ≤ k.line ∧ k.line < lo + len) →
      exec (.scrub f) s = Outcome.next (o.waitFor .retry)) ∧
    (0 < len → 0x00C000000000 < lo + len → exec (.scrub f) s = Outcome.next (o.takeTrap
      { cause := .perm, va := BitVec.ofNat 64 (max lo 0x00C000000000) } f.lit.isSome)) ∧
    (n < 4 → exec (.measure f) s = Outcome.next (o.takeTrap { cause := .priv } f.lit.isSome)) ∧
    (∀ l, 4 ≤ n → b.sq = [] → b.pend = [] → b.unacked = [] →
      let k := min len (2 ^ 20)
      o.pieces .load (State.pagesOf k) lo k = some l → o.piecesBusy l = false → o.badPieces l = false → ∃ u : State, exec (.measure f) s = Outcome.next u ∧
        u.cp.extensions = s.cp.extensions ++ [{ id := s.cp.nextExtend, reg := n, data := o.getPieces l }] ∧
        u.blk.wait = some (.measure s.cp.nextExtend) ∧ (f.d ≠ 0 → u.blk.getX f.d = BitVec.ofNat 64 k) ∧ u.blk.pc = b.pc)) ∧
  (∀ (c n m t h : Nat) (b : Block) (s : State), (s.core c).banks[n]? = some (.switching m t) → t ≠ 0 → t + 1024 ≤ s.ck →
    (s.blocksOf c).find? (fun e => match e.2.wait with
      | some (.bank k _) => k == n
      | _ => false) = some (h, b) → aget s.blocks h = some b → b.unacked = [] → b.rep = none → b.pops = [] →
    ∃ u : State, exec (.bankSwitchFinish c n) s = Outcome.next u ∧ (u.core c).banks[n]? = some (bankModeOf m) ∧ u.blkAt h = b.moved b.heldLit) ∧
  (∀ (t n h : Nat) (b : Block) (s : State), aget s.plat.scrTarget t = some n → t < 12 →
    let old := (s.plat.scrWays[t]?).getD 0
    s.conversionLocked t (min old n) (max old n) = false →
    (s.blocks.find? fun (e : Nat × Block) => e.2.wait == some (.l2cfg t) && !s.plat.scrWait.any fun x => x.1 == t && x.2.1 == e.1) =
      some (h, b) → aget s.blocks h = some b → b.rep = none → b.pops = [] →
    ∃ u : State, exec (.l2cfgComplete t) s = Outcome.next u ∧ u.plat.scrWays[t]? = some n ∧
      aget u.plat.scrTarget t = (s.plat.scrWait.find? fun x => x.1 == t).map (·.2.2) ∧ u.blkAt h = b.moved b.heldLit) ∧
  (∀ (i h : Nat) (x : Inval) (s : State), s.cp.invals.find? (fun x => x.id == i) = some x → x.hart = some h → x.queue = none →
    let b := s.blkAt h
    b.wait = some (.inval i) → b.rep = none → b.pops = [] → (s.pruneInval x).tokens = [] → (s.pruneInval x).copies = [] →
    (s.pruneInval x).busy = [] → (s.pruneInval x).walks = [] → ∃ u : State, exec (.invalidationComplete i) s = Outcome.next u ∧ u.blkAt h = b.moved b.heldLit ∧
      ∀ y ∈ u.cp.invals, y.id ≠ i) ∧
  (∀ (i h : Nat) (x : Extend) (b : Block) (s : State), s.cp.extensions.find? (fun x => x.id == i) = some x → x.load = none → x.reg < 8 →
    (s.blocks.find? fun (e : Nat × Block) => e.2.wait == some (.measure i)) = some (h, b) → aget s.blocks h = some b → b.rep = none →
    b.pops = [] → ∃ u : State, exec (.measurementExtend i) s = Outcome.next u ∧
      u.plat.mr[x.reg]? = some (shake256 ((s.plat.mr[x.reg]?).getD [] ++ x.data)) ∧ u.blkAt h = b.moved b.heldLit ∧
      ∀ y ∈ u.cp.extensions, y.id ≠ i)

/-- R88 to R91: a management core serves a hart that waits for a function's translation, unless another waiting hart has the function's lock:
an entry that is valid already ends it; a cached translation that may serve, or a new one, has its code and the valid entry written, and the
function's call sites patched; an entry that cannot be read, a revoked object, or a function that cannot be translated aborts the launch. Then the lock goes, and every hart that waits for the function runs its CALLT again.
Where the rules leave a point to the model, it follows log entry 12. -/
def Obligations.Translation : Prop :=
  (∀ (h fn off sz : Nat) (l : Launch) (c : Context) (s : State), (s.blkAt h).wait = some (.translate fn) →
    s.launchOf (s.blkAt h).launch = some l → l.obj.sections[3]? = some (off, sz) → s.context l.ctx = some c →
    let mine := fun (k : Nat × Nat × Nat × Nat) => k.1 = l.ctx ∧ k.2.1 = l.obj.base ∧ k.2.2.1 = fn
    let o := s.setCp fun cp =>
      { cp with xlocks := (cp.xlocks.filter fun k => !(k.1 == l.ctx && k.2.1 == l.obj.base && k.2.2.1 == fn)) ++ [(l.ctx, l.obj.base, fn, h)] }
    let entry := l.obj.base + off + 8 * fn
    let r := o.mgmtRead l.ctx entry 8
    let left := exec (.translateService h) s = Outcome.next s
    let ends := fun (v : State) (st : Nat) => exec (.translateService h) s = Outcome.next (v.mgmtAbort h fn st)
    ((∃ k ∈ s.cp.xlocks, mine k ∧ s.waitsXlate l.ctx l.obj.base fn k.2.2.2 = true) → left) ∧
    ((∀ k ∈ s.cp.xlocks, mine k → s.waitsXlate l.ctx l.obj.base fn k.2.2.2 = false) →
      (r = Except.error State.MgmtStop.fails → ends o 8) ∧
      (r = Except.error State.MgmtStop.waits → left) ∧
      (∀ v bs, r = Except.ok (v, bs) →
        ((ofLe bs).testBit 0 = true → exec (.translateService h) s = Outcome.next v) ∧
        ((ofLe bs).testBit 0 = false → l.obj.secVer < v.plat.fuseCounter.toNat → ends v 4) ∧
        ((ofLe bs).testBit 0 = false → v.plat.fuseCounter.toNat ≤ l.obj.secVer →
          (l.obj.funcs[fn]? = none → ends v 8) ∧
          (∀ g, l.obj.funcs[fn]? = some g →
            (v.findXlat l c g = none → ends v 8) ∧
            (∀ x c', v.findXlat l c g = some (x, c') →
              (∀ w u z, v.mgmtWrite l.ctx x.va (wordBytes x.code) = Except.ok w → w.mgmtWrite l.ctx entry (leBytes 8 (x.va + 1)) = Except.ok u →
                State.patchSites l x.va ((l.obj.sites.filter fun t => t.2 == fn).map (·.1)) (u.setContext l.ctx c') = Except.ok z →
                exec (.translateService h) s = Outcome.next z) ∧
              (v.putXlat l fn entry x c' = Except.error State.MgmtStop.fails → ends v 8) ∧
              (v.putXlat l fn entry x c' = Except.error State.MgmtStop.waits → left))))))) ∧
  (∀ (l : Launch) (c : Context) (g : FuncInfo) (s : State),
    let found := c.cached.find? fun y => y.serves (funcDigest g) l s.plat.fuseCounter
    (∀ x, found = some x → s.findXlat l c g = some (x, c)) ∧
    (found = none → (Config.byc g.words g.recs l.lmin l.lmax = none ∨ Config.byc g.words g.recs l.lmin l.lmax = some []) →
      s.findXlat l c g = none) ∧
    (∀ w t, found = none → Config.byc g.words g.recs l.lmin l.lmax = some (w :: t) →
      (c.areaPlace (8 * (t.length + 1)) = none → s.findXlat l c g = none) ∧
      (∀ va, c.areaPlace (8 * (t.length + 1)) = some va → ∃ x : CachedXlat, s.findXlat l c g = some (x, c.cache x) ∧
        x.va = va ∧ x.code = w :: t ∧ x.digest = funcDigest g ∧ x.secVer = l.obj.secVer ∧ x.lmin = l.lmin ∧ x.lmax = l.lmax))) ∧
  (∀ (h ctx base fn k : Nat) (s : State), s.cp.xlocks.find? (fun k => k.2.2.2 == h) = some (ctx, base, fn, k) →
    ∃ u : State, exec (.translationLockResume h) s = Outcome.next u ∧ (∀ x ∈ u.cp.xlocks, x.2.2.2 ≠ h) ∧ u.ms = s.ms ∧
      ∀ g, u.blkAt g = if s.waitsXlate ctx base fn g then { s.blkAt g with wait := none } else s.blkAt g)

/-! ## Commands, launches, the host's registers, the link, the platform -/

/-- The state in which the command of queue n has its status and RESULT. -/
def Sys2Proof.Machine.State.ended (s : State) (n st : Nat) (r : Word) : State := s.updQueue n fun q => { q with status := some (st, r) }

/-- A command's access within one 128-byte block of device memory: the page serves it, and no write of the command to the block is under way
(R74, R150). -/
structure Sys2Proof.Machine.State.Piece (s : State) (n va : Nat) (write : Bool) (pa : Nat) (t : State) : Prop where
  page : s.cpXlat (s.queue n).ctx va write = (t, Except.ok pa)
  peer : ∀ a, aperture pa ≠ .peer a
  host : ∀ a, aperture pa ≠ .host a
  free : t.blockOut n pa = false

/-- A request of the command processor for queue n is the newest packet, bound for the home of its address (R39, R168). -/
def Sys2Proof.Machine.CpSent (s t : State) (n pa id : Nat) (op : HomeOp) : Prop :=
  t.ms.mem = s.ms.mem ∧ t.ms.slice = s.ms.slice ∧ ∃ k r, t.ms.packets = s.ms.packets ++ [k] ∧ k.msg = .req r ∧ k.cls = .lat ∧
    k.dst = .stack (stackOf pa) ∧ r.id = id ∧ r.pa = pa ∧ r.op = op ∧ r.src = .cp 0 ∧ r.hart = State.queueWaiter n

/-- A command writes bytes at a virtual address: the request is on its way, its acknowledgement is awaited, and the bytes count as moved. -/
def Sys2Proof.Machine.CpWrites (s t : State) (n va : Nat) (bs : List Byte) : Prop :=
  ∀ pa v, s.Piece n va true pa v → CpSent v t n pa v.ms.nextId (.write (ofLe bs) (2 ^ bs.length - 1) bs.length) ∧
    (t.queue n).moved = (s.queue n).moved + bs.length ∧ (t.queue n).acks = (s.queue n).acks ++ [(v.ms.nextId, homeAddr pa)]

/-- R39, R67, R70 to R75, R82: COMMAND_CONSUME asks for the command at HEAD of the queue that is next; when the command has come its queue
consumes it and HEAD advances; a header that is not as R73 asks gives BADCMD. COMMAND_COMPLETE counts CDONE, and a failure other than TIMEOUT
halts the queue. A command reads in parts within 128-byte blocks; COPY and FILL write such parts in turn, SIGNAL stores or adds its word, and
each completes when its writes have been performed; WAIT and QUEUE-FENCE wait for their condition; INVALIDATE drops translations or fetched
lines; CONTEXT makes, changes and destroys contexts.
Where the rules leave a point to the model, it follows log entries 30, 84 and 85. -/
def Obligations.Commands : Prop :=
  (∀ s : State, s.plat.bootState = 4 → s.plat.outOfService = false →
    (∀ n, s.commandCome = none → s.nextQueue = some n →
      let q := s.queue n
      let a := q.qbase.toNat / 64 * 64 + 64 * q.head
      (∀ b, aperture a = .device b → ∃ u : State, exec .commandConsume s = Outcome.next u ∧ CpSent s u n a s.ms.nextId (.read 64) ∧
        u.queue n = { q with out := some (s.ms.nextId, 64) } ∧ u.blocks = s.blocks) ∧
      (∀ b, aperture a = .host b → s.hostOk q.ctx b = true →
        exec .commandConsume s = Outcome.next (s.enterCommand n (Except.ok (s.cpBytes q.ctx [(a, 64)])))) ∧
      ((∀ b, aperture a ≠ .device b) → (∀ b, aperture a = .host b → s.hostOk q.ctx b = false) →
        exec .commandConsume s = Outcome.next (s.enterCommand n (Except.error 3)))) ∧
    (s.commandCome = none → s.nextQueue = none → exec .commandConsume s = Outcome.next s) ∧
    (∀ n v bad t, s.commandCome = some (n, (v, bad), t) → (t.queue n).ready = true →
      exec .commandConsume s = Outcome.next (t.enterCommand n (if bad = 0 then Except.ok (leBytes 64 v) else Except.error 9)))) ∧
  (∀ (n : Nat) (r : Except Nat (List Byte)) (s : State),
    let q := s.queue n
    let u := s.enterCommand n r
    (u.queue n).head = (q.head + 1) % 2 ^ q.log2size ∧ (u.queue n).startAt = s.ts ∧ (u.queue n).moved = 0 ∧ (u.queue n).out = none ∧
      u.ms = s.ms ∧ u.blocks = s.blocks ∧ u.cp.lastQueue = n ∧ (∃ ws, (u.queue n).cmd = some (ws, q.head)) ∧
      (∀ bs ws, r = Except.ok bs → (u.queue n).cmd = some (ws, q.head) → ws.length = 8 ∧
        (∀ i < 8, ws[i]? = some (BitVec.ofNat 64 (ofLe bs / 2 ^ (64 * i)))) ∧ (u.queue n).status = (headerStatus ws).map fun e => (e, 0)) ∧
      ∀ e, r = Except.error e → (u.queue n).status = some (e, 0)) ∧
  (∀ (n i st : Nat) (ws : List Word) (r : Word) (s : State), (s.queue n).cmd = some (ws, i) → (s.queue n).status = some (st, r) →
    (s.queue n).flush = false → (∀ x ∈ (s.queue n).records, s.recDue x = true) →
    ∃ u : State, exec (.commandComplete n) s = Outcome.next u ∧ (u.queue n).cmd = none ∧ (u.queue n).cdone = (s.queue n).cdone + 1 ∧
      (u.queue n).halted = ((s.queue n).halted || (st != 0 && st != 7)) ∧ u.blocks = s.blocks) ∧
  (∀ (n va len : Nat) (s : State),
    let q := s.queue n
    let a := (va + q.got.length) % 2 ^ 64
    let k := min (len - q.got.length) (128 - a % 128)
    (len ≤ q.got.length → s.readBytes n va len = State.Got.ok (s.updQueue n fun q => { q with got := [] }) (q.got.take len)) ∧
    (q.got.length < len → q.out = none →
      (∀ v st, s.cpXlat q.ctx a false = (v, Except.error st) → s.readBytes n va len = State.Got.fails v st) ∧
      (∀ pa v, s.Piece n a false pa v → ∃ u : State, s.readBytes n va len = State.Got.waits u ∧ CpSent v u n pa v.ms.nextId (.read k) ∧
        (u.queue n).out = some (v.ms.nextId, k))) ∧
    (∀ id j v bad t, q.got.length < len → q.out = some (id, j) → s.readAnswer n id = some (some (v, bad), t) →
      ((∀ i < j, bad.testBit i = false) →
        (len ≤ q.got.length + j → ∃ u : State, s.readBytes n va len = State.Got.ok u (q.got ++ leBytes j v) ∧ (u.queue n).out = none) ∧
        (q.got.length + j < len → ∃ u : State, s.readBytes n va len = State.Got.waits u ∧ (u.queue n).out = none ∧
          (u.queue n).got = q.got ++ leBytes j v)) ∧
      (∀ i < j, bad.testBit i = true → (∀ e < i, bad.testBit e = false) → ∃ u : State, s.readBytes n va len = State.Got.fails u 9 ∧
        (u.queue n).out = none ∧ (u.queue n).got = q.got ++ leBytes i v))) ∧
  (∀ (n : Nat) (ws : List Nat) (s : State), s.command n 2 = some ws →
    let o := s.takeAcks n
    let q := s.queue n
    let src := State.wordOf ws 1
    let dst := State.wordOf ws 2
    let len := State.wordOf ws 3
    (len = 0 ∨ 2 ^ 40 < len ∨ (src < dst + len ∧ dst < src + len) → exec (.copy n) s = Outcome.next (o.ended n 1 0)) ∧
    (0 < len → len ≤ 2 ^ 40 → dst + len ≤ src ∨ src + len ≤ dst →
      (len ≤ q.moved ∨ q.wfail = true → exec (.copy n) s = Outcome.next (if o.writesOut n then o else o.ended n (if q.wfail then 3 else 0) 0)) ∧
      (q.moved < len → q.wfail = false →
        let b := (dst + q.moved) % 2 ^ 64
        let r := o.readBytes n ((src + q.moved) % 2 ^ 64) (o.aheadOf q.ctx ((src + q.moved) % 2 ^ 64) b (min (len - q.moved) (128 - b % 128)))
        (∀ t, r = State.Got.waits t → exec (.copy n) s = Outcome.next t) ∧
        (∀ t bs, r = State.Got.ok t bs → ∃ u : State, exec (.copy n) s = Outcome.next u ∧ CpWrites t u n b bs) ∧
        (∀ t st, r = State.Got.fails t st →
          ((t.queue n).got = [] → t.writesOut n = false → (t.queue n).wfail = false → exec (.copy n) s = Outcome.next (t.ended n st 0)) ∧
          ((t.queue n).got ≠ [] → ∃ u : State, exec (.copy n) s = Outcome.next u ∧ CpWrites t u n b (t.queue n).got))))) ∧
  (∀ (n : Nat) (ws : List Nat) (s : State), s.command n 3 = some ws →
    let o := s.takeAcks n
    let q := s.queue n
    let dst := State.wordOf ws 1
    let len := State.wordOf ws 2
    let size := State.wordOf ws 4
    (size ∉ [1, 2, 4, 8] → exec (.fill n) s = Outcome.next (o.ended n 1 0)) ∧
    (size ∈ [1, 2, 4, 8] → dst % size ≠ 0 ∨ len % size ≠ 0 → exec (.fill n) s = Outcome.next (o.ended n 1 0)) ∧
    (size ∈ [1, 2, 4, 8] → dst % size = 0 → len % size = 0 →
      (len ≤ q.moved ∨ q.wfail = true → exec (.fill n) s = Outcome.next (if o.writesOut n then o else o.ended n (if q.wfail then 3 else 0) 0)) ∧
      (q.moved < len → q.wfail = false →
        let b := (dst + q.moved) % 2 ^ 64
        ∃ u : State, exec (.fill n) s = Outcome.next u ∧ CpWrites o u n b
          ((List.range (min (len - q.moved) (128 - b % 128) / size)).flatMap fun _ => leBytes size (State.wordOf ws 3))))) ∧
  (∀ (n : Nat) (ws : List Nat) (s : State), s.command n 4 = some ws →
    let o := s.takeAcks n
    let q := s.queue n
    let va := State.wordOf ws 1
    (va % 8 ≠ 0 ∨ 1 < State.wordOf ws 3 → exec (.signalCommand n) s = Outcome.next (o.ended n 1 0)) ∧
    (va % 8 = 0 → State.wordOf ws 3 ≤ 1 → q.moved ≠ 0 → q.out = none →
      exec (.signalCommand n) s = Outcome.next (if o.writesOut n then o else o.ended n (if q.wfail then 3 else 0) 0)) ∧
    (va % 8 = 0 → State.wordOf ws 3 = 0 → q.moved = 0 → ∃ u : State, exec (.signalCommand n) s = Outcome.next u ∧
      CpWrites o u n va (leBytes 8 (State.wordOf ws 2))) ∧
    (∀ pa t, va % 8 = 0 → State.wordOf ws 3 = 1 → q.moved = 0 → o.Piece n va true pa t → ∃ u : State,
      exec (.signalCommand n) s = Outcome.next u ∧ CpSent t u n pa t.ms.nextId (.amo .add 8 (State.wordOf ws 2) 0) ∧ (u.queue n).moved = 8 ∧
        (u.queue n).out = some (t.ms.nextId, 8)) ∧
    (∀ id k v t, va % 8 = 0 → State.wordOf ws 3 ≤ 1 → q.moved ≠ 0 → q.out = some (id, k) → o.readAnswer n id = some (some (v, 0), t) →
      t.writesOut n = false → (t.queue n).wfail = false → ∃ u : State, exec (.signalCommand n) s = Outcome.next u ∧
        (u.queue n).status = some (0, 0) ∧ u.ms = t.ms)) ∧
  (∀ (n : Nat) (ws : List Nat) (s : State), s.command n 5 = some ws →
    let o := s.takeAcks n
    let q := s.queue n
    let kind := State.wordOf ws 3
    let good := kind ≤ 2 ∧ (kind = 2 → State.wordOf ws 1 ≤ 255) ∧ (kind < 2 → State.wordOf ws 1 % 8 = 0)
    let late := State.wordOf ws 4 ≠ 0 ∧ q.startAt + State.wordOf ws 4 * 1000 ≤ s.ts
    let met := fun (v : Nat) => if kind = 1 then v = State.wordOf ws 2 else State.wordOf ws 2 ≤ v
    (q.ctx = 0 → kind = 2 → exec (.waitCommand n) s = Outcome.next (o.ended n 2 0)) ∧
    (q.ctx ≠ 0 ∨ kind ≠ 2 → ¬good → exec (.waitCommand n) s = Outcome.next (o.ended n 1 0)) ∧
    (q.ctx ≠ 0 ∨ kind ≠ 2 → good → q.waiting = false →
      exec (.waitCommand n) s = Outcome.next (o.updQueue n fun q => { q with waiting := true })) ∧
    (q.waiting = true → ∀ e ∈ ([.waitSatisfied n, .waitTimeout n] : List Instr), (e = .waitTimeout n → late) →
      (∀ v t, (kind = 2 ∧ v = (s.eventCount q.ctx (State.wordOf ws 1)).toNat ∧ t = o) ∨
          (kind < 2 ∧ ∃ bs, o.readBytes n (State.wordOf ws 1) 8 = State.Got.ok t bs ∧ v = ofLe bs) →
        (met v → exec e s = Outcome.next (t.ended n 0 (BitVec.ofNat 64 v))) ∧
        (¬met v → late → exec e s = Outcome.next (t.ended n 7 (BitVec.ofNat 64 v))) ∧
        (¬met v → ¬late → exec e s = Outcome.next t)) ∧
      (∀ t, kind < 2 → o.readBytes n (State.wordOf ws 1) 8 = State.Got.waits t → exec e s = Outcome.next t) ∧
      (∀ t st, kind < 2 → o.readBytes n (State.wordOf ws 1) 8 = State.Got.fails t st → exec e s = Outcome.next (t.ended n st 0))) ∧
    (q.waiting = true → ¬late → exec (.waitTimeout n) s = Outcome.next o)) ∧
  (∀ (n : Nat) (ws : List Nat) (s : State), s.command n 6 = some ws →
    let o := s.takeAcks n
    let other := s.queue (State.wordOf ws 1)
    ((s.queue n).waiting = false → 1023 < State.wordOf ws 1 ∨ other.enable = false → exec (.queueFence n) s = Outcome.next (o.ended n 1 0)) ∧
    ((s.queue n).waiting = false → State.wordOf ws 1 ≤ 1023 → other.enable = true →
      exec (.queueFence n) s = Outcome.next (o.updQueue n fun q => { q with waiting := true })) ∧
    ((s.queue n).waiting = true → State.wordOf ws 2 ≤ other.cdone.toNat → exec (.queueFenceSatisfied n) s = Outcome.next (o.ended n 0 0)) ∧
    ((s.queue n).waiting = true → other.cdone.toNat < State.wordOf ws 2 → exec (.queueFenceSatisfied n) s = Outcome.next o)) ∧
  (∀ (n : Nat) (ws : List Nat) (s : State), s.command n 8 = some ws →
    let o := s.takeAcks n
    let q := s.queue n
    let lo := State.wordOf ws 2
    let len := State.wordOf ws 3
    (∀ p ∈ ([.invalidateRange, .invalidateIfetch, .invalidateAll] : List (Nat → Instr)),
      (q.ctx = 0 → exec (p n) s = Outcome.next (o.ended n 2 0)) ∧ (q.ctx ≠ 0 → 2 < State.wordOf ws 1 → exec (p n) s = Outcome.next (o.ended n 1 0))) ∧
    (q.ctx ≠ 0 → State.wordOf ws 1 = 1 → ∃ u : State, exec (.invalidateIfetch n) s = Outcome.next u ∧ (u.queue n).status = some (0, 0) ∧
      ∀ k l, l ∈ (u.core k).icache ↔ l ∈ (s.core k).icache ∧ fetchedIn q.ctx lo len l = false) ∧
    (q.ctx ≠ 0 → State.wordOf ws 1 = 0 → q.invalId = none → len = 0 → exec (.invalidateRange n) s = Outcome.next (o.ended n 0 0)) ∧
    (∀ p ∈ ([(.invalidateRange, false), (.invalidateAll, true)] : List ((Nat → Instr) × Bool)), q.ctx ≠ 0 →
      State.wordOf ws 1 = (if p.2 then 2 else 0) → q.invalId = none → p.2 = true ∨ len ≠ 0 → ∃ u : State, exec (p.1 n) s = Outcome.next u ∧
        (u.queue n).invalId = some s.cp.nextInval ∧ (u.queue n).status = none ∧
        ∀ k x, x ∈ (u.core k).tlb ↔ x ∈ (s.core k).tlb ∧ affects q.ctx p.2 lo len x = false)) ∧
  (∀ (n : Nat) (ws : List Nat) (s : State), s.command n 9 = some ws →
    let o := s.takeAcks n
    let op := State.wordOf ws 1
    let c := State.wordOf ws 2
    let w := State.wordOf ws
    let ext := o.readBytes n (w 7) 512
    let made := fun (x : Context) => x.root = w 3 ∧ x.pasid = w 4 % 2 ^ 20 ∧ x.xaBase = w 5 ∧ x.xaBytes = w 6
    (∀ p ∈ ([.contextCreate, .contextModify, .contextDestroy] : List (Nat → Instr)),
      (op = 0 ∨ 3 < op ∨ c = 0 ∨ 255 < c → exec (p n) s = Outcome.next (o.ended n 1 0)) ∧
      (1 ≤ op → op ≤ 3 → 1 ≤ c → c ≤ 255 → (s.queue n).vf ≠ 0 → exec (p n) s = Outcome.next (o.ended n 2 0))) ∧
    (1 ≤ c → c ≤ 255 → (s.queue n).vf = 0 →
      (op = 1 → (s.context c).isSome = true → exec (.contextCreate n) s = Outcome.next (o.ended n 2 0)) ∧
      (op = 2 → s.context c = none ∨ s.contextRuns c = true → exec (.contextModify n) s = Outcome.next (o.ended n 2 0)) ∧
      (∀ p ∈ ([(1, .contextCreate), (2, .contextModify)] : List (Nat × (Nat → Instr))), op = p.1 →
        (p.1 = 1 → s.context c = none) → (p.1 = 2 → (s.context c).isSome = true ∧ s.contextRuns c = false) →
        (∀ t, ext = State.Got.waits t → exec (p.2 n) s = Outcome.next t) ∧
        (∀ t st, ext = State.Got.fails t st → exec (p.2 n) s = Outcome.next (t.ended n st 0)) ∧
        (∀ t bs, ext = State.Got.ok t bs → State.badExtension bs = true → exec (p.2 n) s = Outcome.next (t.ended n 1 0))) ∧
      (∀ t bs, op = 1 → s.context c = none → ext = State.Got.ok t bs → State.badExtension bs = false →
        ∃ (u : State) (x : Context), exec (.contextCreate n) s = Outcome.next u ∧ u.context c = some x ∧ made x ∧ x.objs = [] ∧ x.events = [] ∧
          x.cached = [] ∧ x.xaUsed = 0 ∧ (u.queue n).status = some (0, 0)) ∧
      (∀ t bs old, op = 2 → s.context c = some old → s.contextRuns c = false → ext = State.Got.ok t bs → State.badExtension bs = false →
        ∃ (u : State) (x : Context), exec (.contextModify n) s = Outcome.next u ∧ u.context c = some x ∧ made x ∧ x.objs = old.objs ∧
          x.events = old.events ∧ (∀ y, y ∈ x.cached ↔ y ∈ old.cached ∧ w 5 ≤ y.va ∧ y.va + 8 * y.code.length ≤ w 5 + w 6) ∧
          (∀ y ∈ x.cached, y.va + 8 * y.code.length ≤ w 5 + x.xaUsed) ∧ (u.queue n).status = some (0, 0) ∧
          ∀ k y, y ∈ (u.core k).tlb → y.ctx ≠ c) ∧
      (op = 3 → s.context c = none ∨ s.contextRuns c = true ∨ s.cp.queues.any (fun e => e.2.ctx == c) = true →
        exec (.contextDestroy n) s = Outcome.next (o.ended n 2 0)) ∧
      (op = 3 → (s.context c).isSome = true → s.contextRuns c = false → s.cp.queues.any (fun e => e.2.ctx == c) = false →
        ∃ u : State, exec (.contextDestroy n) s = Outcome.next u ∧ u.context c = none ∧ (u.queue n).status = some (0, 0) ∧
          ∀ k y, y ∈ (u.core k).tlb → y.ctx ≠ c)))

/-- R76 to R79, R84, R85, R95 to R102, R120, R271, R276, R277: LOAD-CODE reads an image, and writes and registers it if it
passes its checks; LAUNCH captures a record that does; a gang is placed with its blocks' registers; a free hart is offered to what waits; the stage behind a full stage queue is lent its
core's free lane groups and unused banks; an idle cluster loses its context; a launch starved for 50 µs chooses victims, which stop, are saved and come
back; the blocks of an aborted launch halt, complete what they issued, and leave; a launch of which nothing is left completes.
Where the rules leave a point to the model, it follows log entries 20, 31, 49 and 84. -/
def Obligations.Launches : Prop :=
  (∀ (n : Nat) (ws : List Nat) (s : State), s.command n 7 = some ws → (s.queue n).waiting = false →
    let o := s.takeAcks n
    let q := s.queue n
    let w := State.wordOf ws
    let image := o.readBytes n (w 1) (w 2)
    (q.ctx = 0 → exec (.loadCode n) s = Outcome.next (o.ended n 2 0)) ∧
    (q.ctx ≠ 0 → w 3 % 256 ≠ 0 ∨ w 2 < 256 → exec (.loadCode n) s = Outcome.next (o.ended n 1 0)) ∧
    (∀ t, q.ctx ≠ 0 → w 3 % 256 = 0 → 256 ≤ w 2 →
      (image = State.Got.waits t → exec (.loadCode n) s = Outcome.next t) ∧
      (∀ st, image = State.Got.fails t st → exec (.loadCode n) s = Outcome.next (t.ended n st 0)) ∧
      (∀ b c, image = State.Got.ok t b → s.context q.ctx = some c →
        let failed := if q.moved = 0 then loadStatus c t.plat.fuseCounter b (w 4) (w 5) else none
        let v := t.updQueue n fun q => { q with got := b }
        let x : LoadRest := { queue := n, ctx := q.ctx, base := w 3, codeId := w 4, image := b }
        (∀ st, failed = some st → exec (.loadCode n) s = Outcome.next (t.ended n st 0)) ∧
        (∀ pa y, failed = none → q.moved < b.length → q.wfail = false → v.Piece n (w 3 + q.moved) true pa y → ∃ u : State,
          exec (.loadCode n) s = Outcome.next u ∧ CpWrites v u n (w 3 + q.moved) ((b.drop q.moved).take 128) ∧ (u.queue n).status = none) ∧
        (failed = none → b.length ≤ q.moved ∨ q.wfail = true → v.writesOut n = true → exec (.loadCode n) s = Outcome.next v) ∧
        (failed = none → q.wfail = true → v.writesOut n = false → exec (.loadCode n) s = Outcome.next ((v.ended n 3 0).register q.ctx (w 4) none)) ∧
        (failed = none → b.length ≤ q.moved → q.wfail = false → v.writesOut n = false →
          (w 5 = 0 → (v.finishLoad x = none → exec (.loadCode n) s = Outcome.next v) ∧
            ∀ u, v.finishLoad x = some u → exec (.loadCode n) s = Outcome.next u) ∧
          (w 5 ≠ 0 → ∃ (u : State) (e : Extend), exec (.loadCode n) s = Outcome.next u ∧ u.cp.extensions = v.cp.extensions ++ [e] ∧
            e.reg = w 5 ∧ e.data = shake256 b ∧ e.load = some x ∧ (u.queue n).waiting = true ∧ (u.queue n).status = none))))) ∧
  (∀ (x : LoadRest) (c : Context) (s : State), s.context x.ctx = some c → imgAt x.image 4 1 ≠ 16 → ∃ (u : State) (d : Context),
    s.finishLoad x = some u ∧ u.context x.ctx = some d ∧ objectOf x.image x.codeId x.base ∈ d.objs ∧
      (∀ o ∈ d.objs, o.codeId = x.codeId → o = objectOf x.image x.codeId x.base) ∧
      (u.queue x.queue).status = some (0, BitVec.ofNat 64 x.codeId)) ∧
  (∀ (n : Nat) (ws : List Nat) (s : State), s.command n 1 = some ws → (∀ l ∈ s.cp.launches, l.queue ≠ n) →
    let o := s.takeAcks n
    let ctx := (s.queue n).ctx
    let va := State.wordOf ws 1
    (ctx = 0 → exec (.launch n) s = Outcome.next (o.ended n 2 0)) ∧
    (ctx ≠ 0 → va % 128 ≠ 0 → exec (.launch n) s = Outcome.next (o.ended n 1 0)) ∧
    (∀ t, ctx ≠ 0 → va % 128 = 0 →
      (o.readBytes n va 128 = State.Got.waits t → exec (.launch n) s = Outcome.next t) ∧
      (∀ st, o.readBytes n va 128 = State.Got.fails t st → exec (.launch n) s = Outcome.next (t.ended n st 0)) ∧
      (∀ bs, o.readBytes n va 128 = State.Got.ok t bs →
        let r := (List.range 16).map fun i => field (ofLe bs) (64 * i) 64
        (∀ st, t.launchStatus n r = Except.error st → exec (.launch n) s = Outcome.next (t.ended n st 0)) ∧
        (∀ l, t.launchStatus n r = Except.ok l → exec (.launch n) s = Outcome.next (t.setCp fun cp =>
          { cp with launches := cp.launches ++ [l], nextLaunch := l.id + 1 }))))) ∧
  (∀ (n id : Nat) (q : Queue) (r : List Nat) (o : CodeObj), r[2]? = some 0x5000420000000000 →
    let l := launchFrom n q id r o
    l.gang = 5 ∧ l.packed = false ∧ l.lmax = min 8 o.lmax ∧ l.lmin = o.lmin ∧ l.dies = 1 ∧ l.ctx = q.ctx ∧ l.prio = q.prio) ∧
  (∀ (id cl : Nat) (l : Launch) (hs : List Nat) (s : State), s.launchOf id = some l → l.aborted = false → s.restoreDue = false →
    s.childDue = false → (∀ k ∈ s.cp.launches, State.launchBefore k l = true → s.placeNext k = none) → s.stageDue l = none →
    s.nextGang l = some (cl, hs) → hs.Nodup → hs.length ≤ (State.freeAreas l).length → l.args.length = 8 →
    ∃ (u : State) (k : Launch), exec (.gangPlacement id) s = Outcome.next u ∧ u.launchOf id = some k ∧ k.nextGang = l.nextGang + 1 ∧
      ∀ p h, hs[p]? = some h →
        let b := u.blkAt h
        b.placed = true ∧ b.launch = id ∧ b.gangPos = p ∧ b.gangSize = hs.length ∧ (b.gx, b.gy, b.gz) = State.gangAt l l.nextGang ∧
        b.stage = 0 ∧ b.level = .k ∧ b.pc = BitVec.ofNat 64 l.entry ∧ (∀ i < 8, b.getX (BitVec.ofNat 6 (1 + i)) = (l.args[i]?).getD 0) ∧
        b.getX 9 = b.stackBase ∧ b.groups = [] ∧ b.tnames = []) ∧
  (∀ (h : Nat) (s : State), (s.hartFree h = false → exec (.hartFree h) s = Outcome.next s) ∧
    (∀ l u, s.hartFree h = true → s.cp.saved = [] → s.cp.children = [] → s.cp.launches = [l] → s.placeNext l = some u →
      exec (.hartFree h) s = Outcome.next u)) ∧
  (∀ (cl : Nat) (s : State),
    let ls := s.pipelines cl 1
    let quiet := ∃ u : State, exec (.backpressureEvaluation cl) s = Outcome.next u ∧
      ∀ c ∈ State.clusterCores cl, (u.core c).lent = [] ∧ (u.core c).lentBanks = [] ∧ (u.core c).lentStage = 0
    let pressed := s.pressedStage (ls.foldl (fun m l => max m l.stages) 0) cl
    (ls = [] → quiet) ∧
    (ls ≠ [] → aget s.cp.evalAt cl = some (s.ck / 4096) → exec (.backpressureEvaluation cl) s = Outcome.next s) ∧
    (ls ≠ [] → aget s.cp.evalAt cl ≠ some (s.ck / 4096) → pressed = none → quiet) ∧
    (∀ n, ls ≠ [] → aget s.cp.evalAt cl ≠ some (s.ck / 4096) → pressed = some n → s.clusterFree cl = 0 → ∃ u : State,
      exec (.backpressureEvaluation cl) s = Outcome.next u ∧ ∀ c ∈ State.clusterCores cl,
        let here := s.blocks.any fun (e : Nat × Block) =>
          coreOf e.1 == c && e.2.placed && e.2.stage == n && ls.any (fun l => l.id == e.2.launch)
        (u.core c).lent = (if here then s.freeGroups c else []) ∧ (u.core c).lentBanks = (if here then s.unusedBanks c else []) ∧
          (u.core c).lentStage = if here then n else 0)) ∧
  (∀ (cl : Nat) (s : State), (aget s.cp.clusterCtx cl).isSome = true → s.clusterIdle cl = true → s.queuesEmpty cl = true →
    ∃ u : State, exec (.clusterRelease cl) s = Outcome.next u ∧ aget u.cp.clusterCtx cl = none ∧ u.blocks = s.blocks) ∧
  (∀ (id : Nat) (l : Launch) (s : State), s.launchOf id = some l → l.aborted = false → l.nextGang < State.gangCount l →
    s.nextGang l = none →
    (l.starvedAt = none → ∃ (u : State) (k : Launch), exec (.preemptionStarvation id) s = Outcome.next u ∧ u.launchOf id = some k ∧
      k.starvedAt = some s.ts) ∧
    (∀ t, l.starvedAt = some t → s.ts < t + 50000 ∨ s.cp.victims ≠ [] ∨ s.victimsFor l = none → exec (.preemptionStarvation id) s = Outcome.next s) ∧
    (∀ t gs, l.starvedAt = some t → t + 50000 ≤ s.ts → s.cp.victims = [] → s.victimsFor l = some gs →
      (s.asVictims id gs = none → exec (.preemptionStarvation id) s = Outcome.next s) ∧
      (∀ vs, s.asVictims id gs = some vs → exec (.preemptionStarvation id) s = Outcome.next (s.setCp fun cp => { cp with victims := vs }) ∧
        vs.map (fun v => (v.hart, v.gang)) = gs.flatMap (fun g => (State.gangOn g).map fun h => (h, g.id)) ∧ ∀ v ∈ vs, v.launch = id))) ∧
  (∀ (h : Nat) (v : Victim) (g : Gang) (s : State), (s.cp.victims.find? fun v => v.hart == h) = some v → s.gangOf v.gang = some g →
    let b := s.blkAt h
    (b.stop = 0 → s.trapDue h = none → exec (.preemptionStop h) s = Outcome.next (s.setBlkAt h
      (State.stopEngines { b with stop := 1, estart := BitVec.ofNat 64 (max b.estart.toNat b.sentTo) }))) ∧
    (b.stop = 0 → (s.trapDue h).isSome = true → exec (.preemptionStop h) s = Outcome.next (s.tileTrapTaken h)) ∧
    (b.stop ≠ 0 → State.stopEngines b = b → State.unstopped b = true ∨ b.pend ≠ [] ∨ State.stopsInWait b.wait = false →
      exec (.preemptionStop h) s = Outcome.next s) ∧
    (b.stop = 1 → State.stopEngines b = b → State.unstopped b = false → b.pend = [] → State.stopsInWait b.wait = true →
      (s.focus h).quiescent .device = true →
      cdiv (imageOf (s.savedOf h) (s.gangIndex b) b.pc b.estart).length 4096 ≤ v.units → (∀ e ∈ s.cp.saved, e.gang.id ≠ g.id) → b.gangPos < g.members.length → ∃ u : State, exec (.preemptionStop h) s = Outcome.next u ∧
        aget u.blocks h = none ∧ ∃ e ∈ u.cp.saved, e.gang.id = g.id ∧ e.images[b.gangPos]? = some (some v.pa) ∧
          ∃ x, e.blks[b.gangPos]? = some (some x) ∧ x.blk = b)) ∧
  (∀ (n : Nat) (g : SavedGang) (s : State), s.cp.saved[n]? = some g → s.offered g = true →
    (∀ u, s.badImages g = false → s.restoreGang g = some u → exec (.gangRestore n) s = Outcome.next u) ∧
    (∀ l x, s.badImages g = true → s.launchOf g.gang.launch = some l → g.blks.findSome? id = some x →
      exec (.gangRestore n) s = Outcome.next (s.abortFor l (0xB0 + g.gang.cluster / 10) x.blk 0 { cause := .preempt } 8))) ∧
  (∀ (id : Nat) (l : Launch) (s : State), s.launchOf id = some l →
    (s.launchOver l = true → ∃ u : State, exec (.launchComplete id) s = Outcome.next u ∧ u.launchOf id = none ∧
      (u.queue l.queue).status = some (if l.aborted then 8 else 0, 0) ∧ u.blocks = s.blocks) ∧
    (s.launchOver l = false → l.aborted = true → exec (.launchComplete id) s = Outcome.next (s.haltLaunch id)) ∧
    (s.launchOver l = false → l.aborted = false → exec (.launchComplete id) s = Outcome.next s)) ∧
  (∀ (h : Nat) (s : State),
    let b := s.blkAt h
    (b.stop < 3 → ((s.haltStep h).blkAt h).dying = true ∧ ((s.haltStep h).blkAt h).stop = 3 ∧ ((s.haltStep h).blkAt h).sq = b.sq) ∧
    (b.stop = 3 → State.stopEngines b = b → State.unstopped b = false → b.reads = [] → b.wait = none → s.peerWriteOut h = false →
      ((s.focus h).quiescent .device = true → s.haltStep h = s.removeBlock h false) ∧
      ((s.focus h).quiescent .device = false → b.sq.length < 16 → s.haltStep h =
        s.setBlkAt h { b with stop := 4, sq := b.sq ++ [.release .device none false .drain false] })) ∧
    (b.stop = 4 → State.stopEngines b = b → State.unstopped b = false → b.reads = [] → b.wait = none → s.peerWriteOut h = false →
      s.haltStep h = if b.sq.isEmpty && b.unacked.isEmpty then s.removeBlock h false else s))

/-- A micro-operation that a freeze does not stop: one that must finish, or that holds or takes locks, or whose
accesses are under way, or that has no point to stop at (R270). -/
def Sys2Proof.Machine.Unfrozen (t : TileRec) : Prop :=
  State.mustFinish t.ins = true ∨ t.locks ≠ [] ∨ t.locksLeft ≠ [] ∨ t.out ≠ [] ∨ TileRec.holds t = false

/-- The eight bytes of a host write of one register: the enabled ones carry the data's. -/
def Sys2Proof.Machine.enabledBytes (be : BitVec 8) (data : Word) : List (Option Byte) :=
  (List.range 8).map fun i => if be.getLsbD i then some (State.byteOf data i) else none

/-- A CTL message of this device for the peer of a port, among the messages that wait to leave (R39, R44, R46). -/
def Sys2Proof.Machine.State.ctlMsg (s : State) (p : Nat) (body : SxlBody) : Nat × SxlMsg :=
  (p, { src := s.plat.rank, dst := (s.port p).peer, tag := 0, hops := 0, body := body })

/-- R31, R34, R36, R44, R48, R49, R67 to R69, R171, R278 to R284, R473: what a host write of each register does, by the bytes that it enables;
one that covers several registers writes them in turn; a VF reaches its own queues alone; an access of device memory is sent to its home line
by line.
Where the rules leave a point to the model, it follows log entries 19, 22, 37, 73 and 86. -/
def Obligations.HostRegisters : Prop :=
  (∀ (n : Nat) (be : BitVec 8) (data : Word) (s : State),
    let q := s.queue n
    let new := q.withCfg (mergeBe q.cfg be data)
    (q.enable = true → enablesAll be 0 3 = true → ∃ u : State, exec (.dbtail n be data) s = Outcome.next u ∧
      (u.queue n).tail = data.toNat % 2 ^ 32 ∧ (u.queue n).head = q.head ∧ u.blocks = s.blocks ∧ u.ms = s.ms) ∧
    (q.enable = false ∨ enablesAll be 0 3 = false → exec (.dbtail n be data) s = Outcome.next s) ∧
    (q.enable = false → new.enable = true → s.cfgOk new = true → ∃ u : State, exec (.queueEnable n be data) s = Outcome.next u ∧
      let k := u.queue n
      k.enable = true ∧ k.head = 0 ∧ k.tail = 0 ∧ k.evHead = 0 ∧ k.evTail = 0 ∧ k.cdone = 0 ∧ k.ctx = new.ctx ∧ k.log2size = new.log2size ∧
      k.prio = new.prio ∧ k.vf = new.vf ∧ k.qbase = q.qbase) ∧
    (q.enable = false → new.enable = true → s.cfgOk new = false → ∃ u : State, exec (.queueEnable n be data) s = Outcome.next u ∧
      (u.queue n).enable = false ∧ (u.queue n).cfgerr = true) ∧
    (q.enable = false → new.enable = false → ∃ u : State, exec (.queueEnable n be data) s = Outcome.next u ∧ (u.queue n).enable = false ∧
      (u.queue n).ctx = new.ctx ∧ (u.queue n).log2size = new.log2size ∧ (u.queue n).evlog2 = new.evlog2 ∧ (u.queue n).prio = new.prio ∧
      (u.queue n).vf = new.vf ∧ (u.queue n).msixv = new.msixv ∧ (u.queue n).msien = new.msien ∧ (u.queue n).head = q.head) ∧
    (q.enable = true → ∃ u : State, exec (.queueEnable n be data) s = Outcome.next u ∧ (u.queue n).enable = new.enable ∧ (u.queue n).prio = new.prio ∧
      (u.queue n).ctx = q.ctx ∧ (u.queue n).log2size = q.log2size ∧ (u.queue n).head = q.head) ∧
    (∃ u : State, exec (.queueDisable n) s = Outcome.next u ∧ (u.queue n).enable = false ∧ (u.queue n).head = q.head ∧ (u.queue n).cdone = q.cdone) ∧
    (q.records = [] → ∃ u : State, exec (.evhead n be data) s = Outcome.next u ∧ u.ms = s.ms ∧
      (u.queue n).evHead = (mergeBe (BitVec.ofNat 64 q.evHead) be data).toNat % 2 ^ 32) ∧
    (∃ u : State, exec (.haltedClear n) s = Outcome.next u ∧ (u.queue n).halted = false ∧ (u.queue n).evlost = q.evlost ∧
      (u.queue n).cfgerr = q.cfgerr)) ∧
  (∀ (be : BitVec 8) (data : Word) (s : State),
    let p := s.plat
    let put := fun (v : Nat) => mergeBe (BitVec.ofNat 64 v) be data
    let w := (mergeBe (State.meshwt p) be data).toNat
    let ramp := mergeBe (State.pwrramp p) be data
    (p.rankSet = false → enablesAny be 0 1 = true →
      exec (.fabrank be data) s = Outcome.next (s.setPlat fun p => { p with rank := (put p.rank).toNat % 65536, rankSet := true })) ∧
    (p.rankSet = true → exec (.fabrank be data) s = Outcome.next s) ∧
    (be ≠ 0 → exec (.pwrramp be data) s = Outcome.next (s.setPlat fun p =>
      { p with pwrFall := max 50 (min 400 (ramp.toNat / 2 ^ 16 % 2 ^ 16)), pwrRise := max 50 (min 400 (ramp.toNat % 2 ^ 16)) })) ∧
    (be ≠ 0 → exec (.pwrfloor be data) s = Outcome.next (s.setPlat fun p => { p with pwrFloor := min 90 ((put p.pwrFloor).toNat % 256) })) ∧
    exec (.meshwt be data) s = Outcome.next (s.setPlat fun p =>
      { p with meshLat := max 1 (w / 2 ^ 12 % 16), meshBulk := max 1 (w / 2 ^ 8 % 16), meshRsp := max 1 (w / 2 ^ 4 % 16)
               meshCtl := max 1 (w % 16) }) ∧
    (∀ c, be ≠ 0 →
      let v := (mergeBe (State.trcctlWord (s.core c)) be data).toNat
      let n := v / 2 ^ 11 % 32
      exec (.trcctl c be data) s = Outcome.next (s.updCore c fun k =>
        { k with trcKinds := v / 2 ^ 16 % 512, trcLog2 := if n = 0 then 0 else max 8 (min 24 n), trcWrap := v.testBit 10, trcHead := 0
                 trcLost := 0 })) ∧
    (be = 0 ∨ p.rank = 0xFFFF → exec (.stggo be) s = Outcome.next s) ∧
    (be ≠ 0 → p.rank ≠ 0xFFFF →
      let seq := (p.stgSeq + 1) % 65536
      let m : StaggerMsg := { t0 := p.stgT0.toNat, width := p.stgWidth, slots := p.stgSlots, origin := p.rank, seq := seq }
      (p.rank, seq) ∉ p.stgSeen → ∃ u : State, exec (.stggo be) s = Outcome.next u ∧ u.plat.stgSeq = seq ∧
        u.fab.queued = s.fab.queued ++ (s.livePorts.map fun p => s.ctlMsg p (.stagger (State.staggerBytes m))) ∧
        (let t := p.stgT0.toNat + p.rank % (max p.stgSlots 1) * p.stgWidth
         u.plat.stgRelease = if s.ts < t then some t else none)) ∧
    exec (.registerWrite ⟨0, false⟩ 0x220 (enabledBytes be data)) s = Outcome.next (if be = 0 then s
      else s.setPlat fun p => { p with savePoolB := mergeBe p.savePoolB be data &&& ~~~4095 })) ∧
  (∀ (vf off : Nat) (bar4 : Bool) (a b : List (Option Byte)) (s : State), (off + a.length) % 8 = 0 → ∃ t : State,
    exec (.registerWrite ⟨vf, bar4⟩ off a) s = Outcome.next t ∧
      exec (.registerWrite ⟨vf, bar4⟩ off (a ++ b)) s = exec (.registerWrite ⟨vf, bar4⟩ (off + a.length) b) t) ∧
  (∀ (vf off : Nat) (b : List (Option Byte)) (s : State),
    (off + b.length ≤ 0x40 → exec (.registerWrite ⟨vf, false⟩ off b) s = Outcome.next s) ∧
    (vf ≠ 0 → off + b.length ≤ 0x100000 → exec (.registerWrite ⟨vf, false⟩ off b) s = Outcome.next s)) ∧
  (∀ (vf n : Nat) (be : BitVec 8) (data : Word) (s : State), n < 1024 →
    exec (.registerWrite ⟨vf, false⟩ (0x400000 + 4096 * n) (enabledBytes be data)) s =
      if vf = 0 ∨ (s.queue n).vf = vf then exec (.dbtail n be data) s else Outcome.next s) ∧
  (∀ (vf v : Nat) (data : Word) (s : State), v < State.msixCount vf →
    let i := State.msixIndex vf v
    ∃ u : State, exec (.registerWrite ⟨vf, true⟩ (16 * v + 8) (enabledBytes 0xFF data)) s = Outcome.next u ∧
      (u.msixEntry i).extractLsb' 64 64 = data ∧ (u.msixEntry i).extractLsb' 0 64 = (s.msixEntry i).extractLsb' 0 64 ∧
      (data.getLsbD 32 = true ∨ s.cp.msixPend.contains (vf, v) = false → u.cp.msix = s.cp.msix ∧ u.cp.msixPend = s.cp.msixPend) ∧
      (data.getLsbD 32 = false → s.cp.msixPend.contains (vf, v) = true → u.cp.msix = s.cp.msix ++ [(vf, v)] ∧ (vf, v) ∉ u.cp.msixPend)) ∧
  (∀ (h : Nat) (s : State),
    let b := s.blkAt h
    (b.placed = false → exec (.haltreq h) s = Outcome.next s ∧ exec (.haltResume h) s = Outcome.next s ∧ exec (.freezereq h) s = Outcome.next s) ∧
    (b.placed = true → b.ctl.haltstat.getLsbD 0 = false → b.ctl.haltstat.getLsbD 4 = false → ∃ u : State, exec (.haltreq h) s = Outcome.next u ∧
      (u.blkAt h).ctl.haltstat.getLsbD 0 = true ∧ (u.blkAt h).ctl.haltstat.extractLsb' 8 8 = 1 ∧ (u.blkAt h).pc = b.pc ∧
      (u.blkAt h).x = b.x) ∧
    (b.placed = true → b.ctl.haltstat.getLsbD 0 = true → ∃ u : State, exec (.haltResume h) s = Outcome.next u ∧
      (u.blkAt h).ctl.haltstat.getLsbD 0 = false ∧ (u.blkAt h).wake = true ∧ (u.blkAt h).pc = b.pc ∧ (u.blkAt h).x = b.x) ∧
    (b.placed = true → b.ctl.haltstat.getLsbD 4 = false → ∃ u : State, exec (.freezereq h) s = Outcome.next u ∧
      (u.blkAt h).ctl.haltstat.getLsbD 0 = true ∧ (u.blkAt h).ctl.haltstat.getLsbD 4 = true ∧ (u.blkAt h).pc = b.pc ∧
      ∀ t ∈ (u.blkAt h).trecs, t.phase = .running → Unfrozen t) ∧
    (∀ pa, s.imageReady h (pa / 64 * 64) = true → State.drained b = true →
      let x := s.savedOf h
      (∃ u : State, exec (.dbgimgSave h pa) s = Outcome.next u ∧ aget u.cp.images (pa / 64 * 64) = some x ∧ u.blocks = s.blocks ∧
        u.ms = s.ms.sysWrite none (pa / 64 * 64) (imageOf x (s.gangIndex b) b.pc b.estart)) ∧
      (∀ v u, s.imageAt (pa / 64 * 64) = some v → v.good = true → field (v.get 32 8) 8 2 = b.gen →
        (s.imageBase h (pa / 64 * 64) v).1.loadImage h v (s.imageBase h (pa / 64 * 64) v).2 = some u →
        exec (.dbgimgLoad h pa) s = Outcome.next u)) ∧
    (∀ pa, s.imageReady h (pa / 64 * 64) = true → State.drained b = false →
      exec (.dbgimgSave h pa) s = Outcome.next (s.updBlkAt h fun b => { b with dbgReq := some (BitVec.ofNat 64 (pa / 64 * 64)) }) ∧
      exec (.dbgimgLoad h pa) s = Outcome.next (s.updBlkAt h fun b => { b with dbgReq := some (BitVec.ofNat 64 (pa / 64 * 64 + 1)) })) ∧
    (∀ pa, s.imageReady h (pa / 64 * 64) = false → exec (.dbgimgSave h pa) s = Outcome.next s ∧ exec (.dbgimgLoad h pa) s = Outcome.next s)) ∧
  (∀ (off n : Nat) (bytes : List Byte) (s : State), 0 < n → bytes.length = n →
    let k := min n (256 - off % 256)
    let sent := fun (u : State) (op : HomeOp) => u.blocks = s.blocks ∧ u.ms.mem = s.ms.mem ∧ u.ms.slice = s.ms.slice ∧
      u.plat.hostOut = some s.ms.nextId ∧ ∃ p r, u.ms.packets = s.ms.packets ++ [p] ∧ p.msg = .req r ∧ p.dst = .stack (stackOf off) ∧
        r.id = s.ms.nextId ∧ r.src = .host ∧ r.pa = off ∧ r.op = op
    (off + n ≤ 0x00C000000000 →
      (s.plat.hostOut.isSome = true →
        exec (.bar2Read off n) s = Outcome.next (s.setPlat fun p => { p with hostQ := p.hostQ ++ State.hostParts off n none }) ∧
        exec (.bar2Write off bytes) s =
          Outcome.next (s.setPlat fun p => { p with hostQ := p.hostQ ++ State.hostParts off n (some (ofLe bytes)) })) ∧
      (s.plat.hostOut = none → s.plat.hostQ = [] →
        (∃ u : State, exec (.bar2Read off n) s = Outcome.next u ∧ u.plat.hostQ = State.hostParts off n none ∧ sent u (.read k)) ∧
        ∃ u : State, exec (.bar2Write off bytes) s = Outcome.next u ∧ u.plat.hostQ = State.hostParts off n (some (ofLe bytes)) ∧
          sent u (.write (ofLe (bytes.take k)) (2 ^ k - 1) k))) ∧
    (0x00C000000000 < off + n → exec (.bar2Write off bytes) s = Outcome.next s ∧
      (s.plat.hostOut = none → s.plat.hostQ = [] → ∃ u : State, exec (.bar2Read off n) s = Outcome.next u ∧ u.plat.hostAns = none ∧
        u.plat.hostQ = [] ∧ u.ms = s.ms ∧ u.blocks = s.blocks)) ∧
    (∀ d, ∀ p ∈ State.hostParts off n d, 0 < p.n ∧ off ≤ p.pa ∧ p.pa + p.n ≤ off + n ∧ p.pa % 256 + p.n ≤ 256))

/-- R36, R38 to R46, R52, R53: flits in sequence bring their messages, a bad one is dropped and asked for again, a port that failed 64 times
goes down; a request of a device on an allow list is sent to the home of its bytes, one of a source at a time, and its answer returned;
another is refused; an answer reaches who waits for it; a message for another device is routed on. STAGGER is handled once and passed on;
TIMESYNC asks for the time, answers, and corrects the timestamp.
Where the rules leave a point to the model, it follows log entries 17, 32, 38 and 87. -/
def Obligations.PeerMessages : Prop :=
  (∀ (p q : Nat) (f : Flit) (s : State),
    let x := s.port p
    (p < 8 → ∃ u : State, exec (.sxlLinkTraining p q) s = Outcome.next u ∧ u.port p = { trained := true, up := true, peer := q }) ∧
    (x.trained = true → x.up = true →
      (f.crcOk = false → s.plat.rank = 0xFFFF → exec (.sxlFlitReceive p f) s = Outcome.next s) ∧
      (f.crcOk = false → s.plat.rank ≠ 0xFFFF → ∃ u : State, exec (.sxlFlitReceive p f) s = Outcome.next u ∧ u.fab.inbox = s.fab.inbox ∧
        u.fab.retryOut = s.fab.retryOut ++ [(p, x.rxSeq)] ∧ u.port p = { x with fails := x.fails + 1, retries := x.retries + 1 }) ∧
      (f.crcOk = true → f.seq ≠ x.rxSeq → exec (.sxlFlitReceive p f) s = Outcome.next s) ∧
      (f.crcOk = true → f.seq = x.rxSeq → ∃ u : State, exec (.sxlFlitReceive p f) s = Outcome.next u ∧
        u.fab.inbox = s.fab.inbox ++ (f.msgs.map fun m => { port := p, at_ := s.ts, msg := m }) ∧
        (u.port p).rxSeq = (x.rxSeq + 1) % 4096 ∧ (u.port p).fails = 0 ∧ (u.port p).buf = acked x.buf f.ack x.txSeq) ∧
      ∃ u : State, exec (.sxlRetry p q) s = Outcome.next u ∧ u.port p = { x with retries := x.retries + 1 } ∧
        u.fab.outbox = s.fab.outbox ++ ((x.buf.dropWhile fun f => f.seq != q).map fun f => (p, f)) ∧ u.fab.inbox = s.fab.inbox) ∧
    (x.up = true → 64 ≤ x.fails → ∃ u : State, exec (.linkDown p) s = Outcome.next u ∧ (u.port p).up = false ∧ u.blocks = s.blocks) ∧
    (x.up = true → x.fails < 64 → exec (.linkDown p) s = Outcome.next s)) ∧
  (∀ (m : SxlMsg) (x : SxlIn) (s t : State), s.takeMessage m = some (x, t) → m.dst = s.plat.rank →
    let busy := t.fab.serving.any fun y => y.msg.src == m.src
    let served := fun (i : Instr) (a n : Nat) (op : HomeOp) (no : SxlBody) =>
      (busy = true → exec i s = Outcome.next s) ∧
      (busy = false → t.peerGranted m.src a n = false → exec i s = Outcome.next (t.answer m no)) ∧
      (busy = false → t.peerGranted m.src a n = true → ∃ u : State, exec i s = Outcome.next u ∧
        u.fab.serving = t.fab.serving ++ [{ id := t.ms.nextId, port := x.port, msg := m }] ∧ u.ms.mem = t.ms.mem ∧ u.ms.slice = t.ms.slice ∧
        ∃ k r, u.ms.packets = t.ms.packets ++ [k] ∧ k.msg = .req r ∧ k.dst = .stack (stackOf a) ∧ r.id = t.ms.nextId ∧ r.src = .sxl x.port ∧
          r.pa = a ∧ r.op = op)
    (∀ a bs mask, m.body = .write a bs mask →
      served (.sxlWrite m) a bs.length (.write (ofLe bs) (State.maskBits mask) bs.length) (.ack 2)) ∧
    (∀ a n, m.body = .read a n → served (.sxlRead m) a n (.read n) (.resp 2 0 0)) ∧
    (∀ a n op v cmp, m.body = .atomic a n op v cmp → served (.sxlAtomic m) a n (.amo op n v cmp) (.resp 2 0 0)) ∧
    (∀ a v, m.body = .signal a v false → served (.sxlSignal m) a 8 (.write v.toNat 0xFF 8) (.ack 2)) ∧
    (∀ a v, m.body = .signal a v true → served (.sxlSignal m) a 8 (.amo .add 8 v.toNat 0) (.ack 2)) ∧
    (m.body = .clove → busy = false → exec (.sxlClove m) s = Outcome.next (t.answer m (.ack 0))) ∧
    (∀ st n v w, m.body = .resp st n v → (t.fab.waits.find? fun w => w.tag == m.tag) = some w → w.posted = false → 9000 ≤ w.hart →
      w.hart < 20000 → ∃ u : State, exec (.sxlResp m) s = Outcome.next u ∧ (u.queue (w.hart - 9000)).peerVal =
        some (if st = 0 then some (v, false) else if st = 3 then some (0, true) else none)) ∧
    (∀ n v w b p r sg, m.body = .resp 0 n v → (t.fab.waits.find? fun w => w.tag == m.tag) = some w → w.posted = false → w.hart < 9000 →
      aget t.blocks w.hart = some b → b.pend = [p] → p.id = 2 ^ 60 + w.tag → p.dest = .x r sg (8 * p.n) → p.acquire = none → b.boundTo r = none →
      r ≠ 0 → b.wait = some .peer → b.peerBad = none → b.rep = none → b.pops = [] → p.n ≤ 8 → ∃ u : State, exec (.sxlResp m) s = Outcome.next u ∧
        u.blkAt w.hart = ({ b with pend := [] }.setX r (loaded sg p.n v)).moved b.heldLit) ∧
    (∀ st w b, m.body = .ack st → (t.fab.waits.find? fun w => w.tag == m.tag) = some w → w.posted = true → w.clove = false →
      w.hart < 9000 → aget t.blocks w.hart = some b → b.failedWrite = none → t.engOf (coreOf w.hart) (2 ^ 60 + w.tag) = none →
      ∃ u : State, exec (.sxlAck m) s = Outcome.next u ∧ (∀ y ∈ u.fab.waits, y.tag ≠ w.tag) ∧
        (u.blkAt w.hart).failedWrite = if st = 0 then none else some (w.tag, w.addr))) ∧
  (∀ (p id v bad : Nat) (y : Serving) (s : State), s.ms.inbox = [(.sxl p, .resp id v bad)] →
    (s.fab.serving.find? fun y => y.id == id) = some y →
    s.sxlTake = ({ s with
      ms := { s.ms with inbox := [] }
      fab := { s.fab with serving := s.fab.serving.filter fun z => z.id != y.id } } : State).answer y.msg (State.doneBody y.msg.body v bad)) ∧
  (∀ (m : SxlMsg) (x : SxlIn) (s t : State), s.takeMessage m = some (x, t) → m.dst ≠ s.plat.rank →
    let on := { t with fab := t.fab.route s.plat.rank m }
    (∀ a bs mask, m.body = .write a bs mask → exec (.sxlWrite m) s = Outcome.next on) ∧ (∀ a n, m.body = .read a n → exec (.sxlRead m) s = Outcome.next on) ∧
    (∀ st n v, m.body = .resp st n v → exec (.sxlResp m) s = Outcome.next on) ∧ (∀ st, m.body = .ack st → exec (.sxlAck m) s = Outcome.next on)) ∧
  (∀ (p : Nat) (l r : List SxlIn) (x : SxlIn) (s : State), s.fab.inbox = l ++ x :: r → x.port = p → Fabric.channelOf x.msg = .ctl →
    (∀ y ∈ l, y.port = p → Fabric.channelOf y.msg ≠ .ctl) →
    let t := { s with fab := { s.fab with inbox := l ++ r } }
    (∀ m : StaggerMsg, x.msg.body = .stagger (State.staggerBytes m) → State.staggerOf (State.staggerBytes m) = m →
      (s.plat.stgSeen.contains (m.origin, m.seq) = true → exec (.stagger p m) s = Outcome.next t) ∧
      (s.plat.stgSeen.contains (m.origin, m.seq) = false → s.plat.rank ≠ 0xFFFF → ∃ u : State, exec (.stagger p m) s = Outcome.next u ∧
        (m.origin, m.seq) ∈ u.plat.stgSeen ∧
        u.fab.queued = s.fab.queued ++ ((s.livePorts.filter fun q => q != p).map fun q => s.ctlMsg q (.stagger (State.staggerBytes m))) ∧
        u.plat.stgRelease = if s.ts < m.t0 + s.plat.rank % (max m.slots 1) * m.width
          then some (m.t0 + s.plat.rank % (max m.slots 1) * m.width) else none)) ∧
    (∀ t1 t2 t3 : Nat, x.msg.body = .timeTell t1 t2 t3 → s.plat.tsctlRoot = false → s.plat.rank ≠ 0xFFFF →
      s.fab.routeTo s.plat.tsctlRootDev = p → p ∈ s.livePorts →
      let off : Int := (((t2 : Int) - t1) + ((t3 : Int) - x.at_)).tdiv 2
      (s.plat.syncAsked ≠ some t1 → exec (.timesyncExchange t1 t2 t3) s = Outcome.next t) ∧
      (s.plat.syncAsked = some t1 → ∃ u : State, exec (.timesyncExchange t1 t2 t3) s = Outcome.next u ∧ u.plat.lastOff = off ∧
        u.plat.syncAsked = none ∧ (-1000 ≤ off → off ≤ 1000 → u.slew = off ∧ u.halfRate = false ∧ u.ts = s.ts) ∧
        (1000 < off → u.slew = 0 ∧ u.ts = (s.ts + off.toNat) % 2 ^ 64) ∧ (off < -1000 → u.slew = off ∧ u.halfRate = true ∧ u.ts = s.ts))) ∧
    (∀ (src t1 : Nat) (as bs : List (Nat × SxlPort)) (o : SxlPort), x.msg.src = src → x.msg.body = .timeAsk t1 → s.plat.rank ≠ 0xFFFF →
      s.fab.ports = as ++ (p, o) :: bs → (∀ e ∈ as, e.1 ≠ p ∧ ∀ y ∈ s.fab.inbox, y.port = e.1 → Fabric.channelOf y.msg ≠ .ctl) →
      ∃ u : State, exec (.timesync src t1) s = Outcome.next u ∧ u.fab.inbox = l ++ r ∧
        u.fab.queued = s.fab.queued ++ [s.ctlMsg p (.timeTell t1 x.at_ s.ts)])) ∧
  (∀ (p : Nat) (s : State), (∀ y ∈ s.fab.inbox, y.port = p → Fabric.channelOf y.msg ≠ .ctl) →
    (∀ m, exec (.stagger p m) s = Outcome.next s) ∧
    (∀ t1 t2 t3, s.plat.tsctlRoot = false → s.plat.rank ≠ 0xFFFF → s.fab.routeTo s.plat.tsctlRootDev = p → p ∈ s.livePorts →
      (s.ts < s.plat.syncAt + 1000000 → exec (.timesyncExchange t1 t2 t3) s = Outcome.next s) ∧
      (s.plat.syncAt + 1000000 ≤ s.ts → ∃ u : State, exec (.timesyncExchange t1 t2 t3) s = Outcome.next u ∧ u.plat.syncAt = s.ts ∧
        u.plat.syncAsked = some s.ts ∧ u.fab.queued = s.fab.queued ++ [s.ctlMsg p (.timeAsk s.ts)]))) ∧
  (∀ (t : Nat) (s : State), s.plat.stgRelease = some t →
    (s.ts < t → exec .staggerRelease s = Outcome.next s) ∧
    (t ≤ s.ts → (s.cp.contexts.map (·.1)).Nodup → ∃ u : State, exec .staggerRelease s = Outcome.next u ∧ u.plat.stgRelease = none ∧
      ∀ c, (s.context c).isSome = true → u.eventCount c 0 = s.eventCount c 0 + 1))

/-- R16, R20, R27, R28, R30, R33, R37, R47, R50, R51, R54 to R56, R58, R60 to R65, R94: what the platform does: reset, the governor,
ageing, scrubbing and rows, the fuse counter, reports, failures, the host's link.
Where the rules leave a point to the model, it follows log entries 11, 13, 33 to 36, 86 and 89 to 91. -/
def Obligations.PlatformEvents : Prop :=
  (∀ (d : Nat) (s : State),
    let p := s.plat
    let up := p.pwrLast + p.pwrRise
    let avg := if p.pwrSamples = [] then 0 else p.pwrSamples.foldl (· + ·) 0 / p.pwrSamples.length
    let low := max (p.pwrLast - p.pwrFall) (avg * p.pwrFloor / 100)
    let cap := min 290000 (2000 * 260000 - (p.pwrSamples.take 1999).foldl (· + ·) 0)
    ∃ u : State, exec (.governorSample d) s = Outcome.next u ∧ u.plat.pwrLast ≤ cap ∧ u.plat.filler = u.plat.pwrLast - d ∧
      u.plat.throttled = decide (u.plat.pwrLast < d) ∧ u.plat.pwrSamples = (u.plat.pwrLast :: p.pwrSamples).take 2000 ∧
      (low ≤ d → d ≤ up → d ≤ cap → u.plat.pwrLast = d) ∧ (up < d → u.plat.pwrLast = min cap up) ∧
      (d < low → d ≤ up → u.plat.pwrLast = min cap low)) ∧
  (∀ (l : List (Nat × Nat)) (s : State), s.plat.bootState ≠ 4 → exec (.monitorRead l) s = Outcome.next s) ∧
  (∀ (l : List (Nat × Nat)) (n m : Nat) (s : State), s.plat.bootState = 4 → (n, m) ∈ l → (n < 0x14 ∨ (0x20 ≤ n ∧ n < 0x2C)) →
    (∀ r ∈ l, (r.1 < 0x14 ∨ (0x20 ≤ r.1 ∧ r.1 < 0x2C)) → m ≤ r.2) → ∃ u : State, exec (.monitorRead l) s = Outcome.next u ∧
      u.plat.hours = s.plat.hours + 1 ∧ u.plat.margin = min m 0xFE) ∧
  (∀ (v bin : Nat) (s : State),
    let p := s.plat
    let due := p.hours % 1000 = 0 ∨ p.margin < 50 ∨ p.margin = 0xFF
    (¬due ∨ p.bootState ≠ 4 → exec (.marginReplan v bin) s = Outcome.next s) ∧
    (due → p.bootState = 4 → ∃ u : State, exec (.marginReplan v bin) s = Outcome.next u ∧ u.plat.voff = min 255 (max p.voff v) ∧ u.plat.clkbin = p.clkbin ∧
      (bin ≠ 0 → bin < p.clkbin.toNat → u.plat.pendBin = bin ∧ u.plat.pendSince = some s.ts) ∧
      (bin = 0 ∨ p.clkbin.toNat ≤ bin → u.plat.pendBin = p.pendBin))) ∧
  (∀ s : State,
    (s.binDue = true → (∀ e ∈ s.blocks, e.2.placed = false) →
      exec .clkbinChange s = Outcome.next (s.setPlat fun p => { p with clkbin := BitVec.ofNat 8 p.pendBin, pendBin := 0, pendSince := none })) ∧
    (s.binDue = false → exec .clkbinChange s = Outcome.next s) ∧
    (s.plat.hours < s.plat.halvedAt + 168 → exec .scoreHalving s = Outcome.next s) ∧
    (s.plat.halvedAt + 168 ≤ s.plat.hours → exec .scoreHalving s = Outcome.next (s.setPlat fun p =>
      { p with halvedAt := p.hours, rows := p.rows.map fun r => { r with score := r.score / 2 } }))) ∧
  (∀ (k line : Nat) (s : State), aperture (lineOf line) = .device (lineOf line) → stackOf (lineOf line) = k → s.ms.lockOf (lineOf line) = none →
    let row := Config.rowOf k (stackOffset (lineOf line))
    let r := s.plat.rows.find? (State.isRow k row)
    (∀ p ∈ ([(.oneSymbol, 16), (.multiBit, 64)] : List (LineError × Nat)), ∃ u : State, exec (.patrolScrub k line p.1) s = Outcome.next u ∧ u.ms = s.ms ∧
      u.plat.corrected = s.plat.corrected + 1 ∧
      ∃ x, u.plat.rows.find? (State.isRow k row) = some x ∧ x.score = ((r.map (·.score)).getD 0) + p.2 ∧ x.hotSince.isSome = true) ∧
    exec (.patrolScrub k line .none) s = Outcome.next s ∧
    (∃ u : State, exec (.patrolScrub k line .uncorrectable) s = Outcome.next u ∧ (∀ x, u.ms.homeByte x = s.ms.homeByte x) ∧
      ∀ x, x ∈ u.ms.bad ↔ x ∈ s.ms.bad ∨ (lineOf line ≤ x ∧ x < lineOf line + 256 ∧
        ∀ l, s.ms.sliceLine x = some l → aget l.bytes x = none)) ∧
    (∀ e, (∃ x ∈ s.plat.rows, x.stack = k ∧ x.hotSince.isSome = true ∧ x.row = row) →
      exec (.hotRowScrub k line e) s = exec (.patrolScrub k line e) s) ∧
    (∀ e, (∀ x ∈ s.plat.rows, x.stack = k → x.hotSince.isSome = true → x.row ≠ row) → exec (.hotRowScrub k line e) s = Outcome.next s)) ∧
  (∀ (k row : Nat) (r : RowInfo) (s : State), s.plat.rows.find? (State.isRow k row) = some r →
    (256 ≤ r.score → r.copying = false → s.plat.bootState = 4 →
      (Config.spareLeft k ((aget s.plat.spares k).getD 0) = true → ∃ u : State, exec (.rowRetirement k row) s = Outcome.next u ∧
        u.plat.rows.find? (State.isRow k row) = some { r with copying := true } ∧ u.ms = s.ms) ∧
      (Config.spareLeft k ((aget s.plat.spares k).getD 0) = false → exec (.rowRetirement k row) s =
        Outcome.next (s.postNotice fun q => s.noticeRec (160 + k) 5 (Config.rowAddress k row) q))) ∧
    (r.score < 256 ∨ r.copying = true ∨ s.plat.bootState ≠ 4 → exec (.rowRetirement k row) s = Outcome.next s) ∧
    (r.copying = true → ∃ u : State, exec (.rowCopyComplete k row) s = Outcome.next u ∧ u.plat.rows.find? (State.isRow k row) = none ∧
      aget u.plat.spares k = some ((aget s.plat.spares k).getD 0 + 1) ∧ u.blocks = s.blocks)) ∧
  (∀ (v : Word) (sig : List Byte) (s : State),
    let ok := s.plat.bootState = 4 ∧ s.plat.fuseCounter.toNat ≤ v.toNat ∧ Config.slhDsaVerify Config.vendorKey (leBytes 8 v.toNat) sig = true
    (¬ok → exec (.fuseCounterAdvance v sig) s = Outcome.next s) ∧
    (ok → ∃ u : State, exec (.fuseCounterAdvance v sig) s = Outcome.next u ∧ u.plat.fuseCounter = v ∧
      ∀ e ∈ u.cp.contexts, ∀ x ∈ e.2.cached, v.toNat ≤ x.secVer)) ∧
  (∀ (nonce : List Byte) (s : State), (s.plat.bootState ≠ 4 → exec (.attestationReport nonce) s = Outcome.next s) ∧
    (s.plat.bootState = 4 → exec (.attestationReport nonce) s = Outcome.next (s.setPlat fun p =>
      { p with atts := p.atts ++ [s.report nonce ++ Config.slhDsaSign p.resets (s.report nonce) ++ p.attCert] }))) ∧
  (∀ (b : BootInput) (s : State), ∃ u : State, exec (.coldReset b) s = Outcome.next u ∧ u.blocks = [] ∧ u.cores = [] ∧ u.ms.mem = [] ∧
    u.ms.hostMem = s.ms.hostMem ∧ u.plat.fuseCounter = s.plat.fuseCounter ∧
    (b.selfTestOk = false → u.plat.bootState = 0xF ∧ u.plat.bootCause = 4) ∧
    (b.selfTestOk = true → b.fusesOk = false → u.plat.bootState = 0xF ∧ u.plat.bootCause = 5) ∧
    (b.selfTestOk = true → b.fusesOk = true →
      (∀ i < 12, 3 ≤ (b.rates[i]?).getD 3 → (∀ j < i, (b.rates[j]?).getD 3 < 3) →
        u.plat.bootState = 0xF ∧ u.plat.bootCause = 1 ∧ u.plat.failStk = i) ∧
      ((∀ i < 12, (b.rates[i]?).getD 3 < 3) →
        (firmwareSigned b = false → u.plat.bootState = 0xF ∧ u.plat.bootCause = 2) ∧
        (firmwareSigned b = true → b.imageVersion.toNat < s.plat.fuseCounter.toNat → u.plat.bootState = 0xF ∧ u.plat.bootCause = 3) ∧
        (firmwareSigned b = true → s.plat.fuseCounter.toNat ≤ b.imageVersion.toNat → u.plat.bootState = 4 ∧ u.plat.bootCause = 0))) ∧
    (s.plat.resets = 0 → u.plat.fuseN = siteWord b.fuseN ∧ u.plat.fuseS = siteWord b.fuseS ∧ u.plat.serial = b.serial) ∧
    (s.plat.resets ≠ 0 → u.plat.fuseN = s.plat.fuseN ∧ u.plat.fuseS = s.plat.fuseS ∧ u.plat.serial = s.plat.serial)) ∧
  (∀ (c n w p page : Nat) (s : State),
    (c < 160 → ∃ u : State, exec (.coreFailureInService c) s = Outcome.next u ∧ (u.core c).failed = true ∧ u.plat.outOfService = true) ∧
    (∃ u : State, exec (.atsInvalidation p page) s = Outcome.next u ∧ u.ms.atsAge p page = s.ms.atsAge p page + 1 ∧ u.ms.mem = s.ms.mem) ∧
    (linkLegal n w = true → exec (.pcieLinkTraining n w) s = Outcome.next (s.setPlat fun p => { p with pcieRate := n, pcieWidth := w })) ∧
    (linkLegal n w = false → exec (.pcieLinkTraining n w) s = Outcome.next s) ∧
    (16 < n → exec (.vfEnable n) s = Outcome.next s) ∧
    (n ≤ 16 → exec (.vfEnable n) s = Outcome.next (s.setPlat fun p => { p with vfs := n })))


/-! ## Traps, reset, steps, encodings, invariants -/

/-- R263 to R265, R268: a trap of a delegated cause at K level enters the handler: TEPC, TESTART, TCAUSE, TINFO and TVA record it, ESTART
is 0, the level S, the PC TVEC.HANDLER × 8, and no register, lane, tile or token of any block changes. Any other aborts its launch. ERET
returns to K level at TEPC with ESTART := TESTART, where a watch register that stopped the instruction there stops it no more; at K level
it raises PRIV, and at a TEPC that is no instruction's address ALIGN; a parked instruction not at TEPC is discarded.
Where the rules leave a point to the model, it follows log entries 29 and 70. -/
def Obligations.TrapEntry : Prop :=
  (∀ (r : FaultRec) (lit : Bool) (s : State),
    let b := s.blk
    let u := s.takeTrap r lit
    let c := u.blk.ctl
    (b.level = .k → b.ctl.tvec.getLsbD 0 = true → b.ctl.tdeleg.getLsbD r.cause.code = true → r.cause ≠ .uncorr → r.cause ≠ .preempt →
      c.tepc = b.pc ∧ c.testart = BitVec.ofNat 64 r.estart ∧ c.tva = r.va ∧
      c.tcause.toNat % 256 = r.cause.code ∧ c.tcause.getLsbD 36 = (lit && b.rep.isNone) ∧ c.tcause.toNat / 2 ^ 37 % 16 = r.access.code ∧
      c.tcause.getLsbD 41 = r.tile.isSome ∧ c.tcause.toNat / 2 ^ 42 = (r.tile.getD 0) % 64 ∧
      c.tinfo.toNat % 2 ^ 40 = r.detail % 2 ^ 40 ∧ c.tinfo.toNat / 2 ^ 40 % 4096 = r.col % 4096 ∧ c.tinfo.toNat / 2 ^ 52 = r.row % 4096 ∧
      u.blk.estart = 0 ∧ u.blk.level = .s ∧ u.blk.pc = b.ctl.tvec &&& ~~~7 ∧
      u.blk.x = b.x ∧ u.blk.p = b.p ∧ u.blk.v = b.v ∧ u.blk.m = b.m ∧ u.blk.d = b.d ∧ u.blk.groups = b.groups ∧
      u.blk.tnames = b.tnames ∧ u.blk.anames = b.anames ∧ u.blk.trecs = b.trecs ∧ u.blk.tokens = b.tokens ∧
      (∀ h, h ≠ s.cur → u.blkAt h = s.blkAt h) ∧ ((s.core s.myCore).trcLog2 = 0 → u.ms = s.ms ∧ u.cores = s.cores)) ∧
    (b.level = .s ∨ b.ctl.tvec.getLsbD 0 = false ∨ b.ctl.tdeleg.getLsbD r.cause.code = false ∨ r.cause = .uncorr ∨ r.cause = .preempt →
      ∀ l, s.launchOf b.launch = some l → b.stop < 3 → (s.blocks.map (·.1)).Nodup →
        (∃ k, u.launchOf b.launch = some k ∧ k.aborted = true) ∧
        ∀ e ∈ u.blocks, e.2.launch = b.launch → e.2.placed = true → e.2.dying = true)) ∧
  (∀ (f : FmtY) (s : State),
    let back := fun (b : Block) => b.level = .k ∧ b.pc = s.blk.ctl.tepc ∧ b.estart = s.blk.ctl.testart ∧ b.x = s.blk.x ∧ b.p = s.blk.p ∧
      b.v = s.blk.v ∧ b.m = s.blk.m
    (s.blk.guard f.gm = true → s.blk.level = .k → exec (.eret f) s = Outcome.next (s.takeTrap { cause := .priv } f.lit.isSome)) ∧
    (Runs s f.gm [] → s.blk.level = .s → s.blk.ctl.tepc &&& 7 ≠ 0 → exec (.eret f) s = Outcome.next ((s.opened f.lit).takeTrap
      { cause := .align, access := .fetch, va := s.blk.ctl.tepc } f.lit.isSome)) ∧
    (Runs s f.gm [] → s.blk.level = .s → s.blk.ctl.tepc &&& 7 = 0 → s.blk.parked = none →
      (∃ u : State, exec (.eret f) s = Outcome.next u ∧ back u.blk) ∧
      (s.calmLanes s.myCore → (s.core s.myCore).trcLog2 = 0 → exec (.eret f) s = Outcome.next (s.setBlk { s.blk.opened f.lit with
        level := .k, pc := s.blk.ctl.tepc, estart := s.blk.ctl.testart, wait := none, xbuf := [], rel := .none, skipBp := true, watched := none
        skipWatch := match s.blk.watched with
          | some (pc, l) => if pc = s.blk.ctl.tepc then l else []
          | none => [] }))) ∧
    (∀ p, Runs s f.gm [] → s.blk.level = .s → s.blk.ctl.tepc &&& 7 = 0 → s.blk.parked = some p → s.blk.ctl.tepc ≠ p.pc →
      ∃ u : State, exec (.eret f) s = Outcome.next u ∧ back u.blk ∧ ∀ t ∈ u.blk.trecs, t.seq ≠ p.seq))

/-- R33, R34, R36, R41, R42, R44 to R46, R48, R49, R51, R56, R67, R121, R153, R164, R171, R261: after reset no context, launch or block is
there, no queue is enabled, and the registers of the host's window and BANKMODE read the values that the spec gives for reset. That
memory lists nothing but is canonical is the model's choice (log entry 1).
Where the rules leave a point to the model, it follows log entries 1 and 5. -/
def Obligations.ResetState : Prop :=
  let s := State.reset
  s.blocks = [] ∧ s.cp.contexts = [] ∧ s.cp.launches = [] ∧ (∀ q, (s.queue q).enable = false) ∧
  (∀ p ∈ ([(0x100, 0x0F00), (0x108, 0xFFFF), (0x110, 0), (0x118, 0), (0x180, 0), (0x188, 0), (0x190, 0xFFFF0000), (0x200, 0x00C800C8)] :
    List (Nat × Word)), s.windowRead p.1 = p.2) ∧
  (∀ p ∈ ([(0x208, 55), (0x220, 0), (0x228, 0), (0x230, 0x4241), (0x240, 0), (0x250, 0)] : List (Nat × Word)), s.windowRead p.1 = p.2) ∧
  (s.windowRead 0x210).toNat % 2 ^ 48 = 0xFFFF00000000 ∧
  (∀ k, k < 0x100 → s.windowRead (0x1000 + 8 * k) = 0) ∧ (∀ k, k < 0x1000 → s.windowRead (0x10000 + 8 * k) = BitVec.allOnes 64) ∧
  (∀ c, 1 ≤ c → c < 256 → s.windowRead (0x200000 + 16 * c) = 0 ∧ s.windowRead (0x200008 + 16 * c) = 0) ∧
  (∀ q, q < 1024 → s.windowRead (0x400008 + 4096 * q) = 0) ∧
  (∀ c, State.bankmode (s.core c) = 0x5555555555550000) ∧ Memory.wf s.ms.mem = true ∧ Memory.wf s.ms.hostMem = true

/-- R116, R117, R124, R281, R306, R307: a scheduled event is performed after its time has passed. A scheduled issue at a core with one hart
that may issue fetches the word at its PC through the instruction cache, and the literal of a word with L = 1; when they decode to an
instruction, the step is exec of it, after the core has noted the issue. A word that does not decode raises ILLOP. A line that the cache lacks
is asked for at its home, and the hart is not ready until it arrives.
Where the rules leave a point to the model, it follows log entries 3, 44, 58 and 76. -/
def Obligations.StepRuns : Prop :=
  (∀ (m : Move) (t : List Move) (i : Instr) (s : State), s.schedule = m :: t → m.act = .event i →
    step s = exec i ({ s with schedule := t }.elapse m.dt)) ∧
  (∀ (m : Move) (t : List Move) (f : Flaw) (s : State), s.schedule = m :: t → m.act = .flaw f →
    step s = Outcome.next (({ s with schedule := t }.elapse m.dt).strike f)) ∧
  (∀ (m : Move) (t : List Move) (c k : Nat) (s : State), s.schedule = m :: t → m.act = .issue c → k < 8 →
    let h := 8 * c + k
    let p := { s with schedule := t }.elapse m.dt
    let q := (((p.clearBubbles c).noteIssue c h [h]).focus h).updBlk fun b => { b with wait := none }
    let b := q.blk
    (p.core c).failed = false → (∀ j, j < 8 → j ≠ k → State.mayIssue (p.blkAt (8 * c + j)) = false) → State.mayIssue (p.blkAt h) = true →
    (∃ o, p.tryIssue h = .issued o) → b.rep = none → State.bpHit b b.pc = none →
    ∀ (w next : Word) (s₁ s₂ : State), q.fetchWord b.pc.toNat false = FetchRes.ok w s₁ → s₁.blk = b →
      (wordL w = true → s₁.fetchWord (b.pc.toNat + 8) true = FetchRes.ok next s₂ ∧ s₂.blk = b) → (wordL w = false → next = 0 ∧ s₂ = s₁) →
      (State.tileWord b.gen w = true ∨ b.pastFaults = true) →
      (∀ i, decodeInstr b.gen w next = Except.ok i → i.wf = true ∧
        step s = match exec i s₂ with
          | .next u => .next (u.afterStep h (b.ctl.haltstat.getLsbD 5))
          | o => o) ∧
      (∀ e, decodeInstr b.gen w next = Except.error e → (opcodeIn b.gen (wordOp w).toNat).isSome = true →
        step s = Outcome.next ((s₂.takeTrap { cause := .illop } (wordL w)).afterStep h (b.ctl.haltstat.getLsbD 5)))) ∧
  (∀ (va pa : Nat) (lit : Bool) (x : Xlat) (s : State), s.translate .fetch va = XRes.ok x pa → va % 8 = 0 → pa % 64 = va % 64 →
    (∀ l, (s.core s.myCore).icFind s.blk.ctx va = some l →
      ∃ u : State, s.fetchWord va lit = FetchRes.ok (l.data.extractLsb' (8 * (va % 64)) 64) u ∧ u.blk = s.blk) ∧
    ((s.core s.myCore).icFind s.blk.ctx va = none → aperture pa = .device pa →
      (∀ p ∈ s.blk.pend, ∀ v l, p.dest = .icache v l → v ≠ vlineOf va) → ∃ (u : State) (q : PendLoad), s.fetchWord va lit = FetchRes.stop u ∧
        u.blk = { s.blk with pend := s.blk.pend ++ [q], wait := some .retry } ∧ q.dest = .icache (vlineOf va) (homeAddr (pa / 64 * 64) / 64) ∧
        q.id = s.ms.nextId ∧ ∃ k r, u.ms.packets = s.ms.packets ++ [k] ∧ k.msg = .req r ∧ k.dst = .stack (stackOf (pa / 64 * 64)) ∧
          r.id = q.id ∧ r.pa = pa / 64 * 64 ∧ r.op = .read 64 ∧ r.src = .core s.myCore))

/-- R303, R333, R341, R346, R347, R359: words that the spec writes out decode to the instructions they stand for. -/
def Obligations.DecodeWords : Prop :=
  decodeInstr 3 0x0098414600000010 0 = Except.ok (.add false { gm := 3, lit := none, d := 4, a := 5, b := 6, imm := 16 }) ∧
  decodeInstr 3 0x33385000FFFFFFE8 0 = Except.ok (.loop { gm := 7, a := 5, k := 0, off := 0xFFFFFFE8 }) ∧
  decodeInstr 3 0x20B8414610000000 0 = Except.ok (.fadd true { gm := 7, lit := none, d := 4, a := 5, b := 6, fn := 1, imm := 0 }) ∧
  decodeInstr 3 0x4338518758000010 0 =
    .ok (.ld64 { gm := 7, lit := none, d := 5, base := 6, index := 7, scope := 1, shift := 3, off := 16 }) ∧
  decodeInstr 3 0x6D9022190944C000 0 = Except.ok (.vfma
    { gm := 2, lit := none, vd := 1, va := 2, vb := 3, vc := 4, vl := 9, fmt := 0x11, rnd := 1, sat := 1, s := 0, xs := 0, fn := 0 }) ∧
  decodeInstr 3 0x96BB010500000000 0 =
    .ok (.tmma { gm := 7, lit := none, td := 48, ta := 4, tb := 5, tc := 0, xs := 0, aux := 0, mode := 0, imm := 0 }) ∧
  decodeInstr 3 0x92B8414402300040 0 =
    .ok (.tld { gm := 7, lit := none, t := 4, base := 5, layout := 2, token := 4, scope := 1, xo := 6, off := 0x40 }) ∧
  decodeInstr 3 0xB4B9000000A00000 0 = Except.ok (.qpop { gm := 7, lit := none, d := 16, a := 0, b := 0, n := 5, imm := 0 }) ∧
  decodeInstr 3 0xC038500040000000 0 = Except.ok (.getc { gm := 7, lit := none, d := 5, a := 0, c := 0x010, imm := 0 }) ∧
  decodeInstr 3 0x3538000000000000 0 = Except.ok (.nop { gm := 7, lit := none, d := 0, a := 0, b := 0, imm := 0 })

/-- R306, R308, R317: decoding the words of a well-formed program instruction gives it back, every operand at every value that its entry
admits; and the words of an instruction that was decoded are those it was decoded from.
Where the rules leave a point to the model, it follows log entry 55. -/
def Obligations.RoundTrip : Prop :=
  (∀ (i : Instr) (w : Word) (l : List Word), encode i = w :: l → i.wf = true → genOk 3 i = true →
    (∀ g, vectorGm i = some g → ¬(12 ≤ g ∧ g ≤ 14)) → (noLiteral i w = true → l = []) → decodeInstr 3 w (l.headD 0) = Except.ok i) ∧
  (∀ (i : Instr) (w next : Word), decodeInstr 3 w next = Except.ok i → encode i = w :: (if wordL w then [next] else []))

/-- R161, R21: a step that goes on keeps device memory and host memory in canonical form: addresses rise, and no listed byte is what an
unlisted address reads as; so equal memories are equal data.
Where the rules leave a point to the model, it follows log entry 1. -/
def Obligations.MemoryStaysCanonical : Prop :=
  ∀ s u : State, Memory.wf s.ms.mem = true → Memory.wf s.ms.hostMem = true → step s = Outcome.next u →
    Memory.wf u.ms.mem = true ∧ Memory.wf u.ms.hostMem = true
end

