-- ==== Sys2Proof/Laws/State.lean ====
section
/-! SUPPORT. Field-by-field lemmas of the updates of State and Block: what each writes, and that it leaves every other field
alone. Later proofs cite these instead of unfolding a record update. -/

namespace Sys2Proof.Machine

/-! ## Finite maps -/

@[simp] theorem aget_aset_same {α : Type} (l : List (Nat × α)) (k : Nat) (v : α) : aget (aset l k v) k = some v := by
  induction l with
  | nil => simp [aset, aget]
  | cons x t ih => obtain ⟨k', v'⟩ := x; simp only [aset]; repeat' (first | split | simp_all [aget])

theorem aget_aset_ne {α : Type} (l : List (Nat × α)) {k j : Nat} (v : α) (h : k ≠ j) : aget (aset l k v) j = aget l j := by
  induction l with
  | nil => simp [aset, aget, Ne.symm h]
  | cons x t ih =>
    obtain ⟨k', v'⟩ := x
    simp only [aset]
    split
    · subst k'; simp [aget, Ne.symm h]
    · split
      · simp [aget, Ne.symm h]
      · simp only [aget]; split <;> simp_all

@[simp] theorem aset_aset {α : Type} (l : List (Nat × α)) (k : Nat) (v w : α) : aset (aset l k v) k w = aset l k w := by
  induction l with
  | nil => simp [aset]
  | cons x t ih => obtain ⟨k', v'⟩ := x; simp only [aset]; repeat' (first | split | simp_all [aset])

/-! ## The block in focus -/

@[simp] theorem blkAt_setBlkAt_same (s : State) (h : Nat) (b : Block) : (s.setBlkAt h b).blkAt h = b := by
  simp [State.blkAt, State.setBlkAt]
theorem blkAt_setBlkAt_ne (s : State) {h j : Nat} (b : Block) (e : h ≠ j) : (s.setBlkAt h b).blkAt j = s.blkAt j := by
  simp [State.blkAt, State.setBlkAt, aget_aset_ne _ _ e]
@[simp] theorem setBlkAt_setBlkAt (s : State) (h : Nat) (b c : Block) : (s.setBlkAt h b).setBlkAt h c = s.setBlkAt h c := by
  simp [State.setBlkAt]
@[simp] theorem blk_setBlk (s : State) (b : Block) : (s.setBlk b).blk = b := by
  simp [State.blk, State.setBlk, State.blkAt, State.setBlkAt]
@[simp] theorem setBlk_setBlk (s : State) (b c : Block) : (s.setBlk b).setBlk c = s.setBlk c := by
  simp [State.setBlk, State.setBlkAt]
@[simp] theorem blk_updBlk (s : State) (f : Block → Block) : (s.updBlk f).blk = f s.blk := by simp [State.updBlk]
@[simp] theorem updBlk_updBlk (s : State) (f g : Block → Block) : (s.updBlk f).updBlk g = s.updBlk fun b => g (f b) := by
  simp [State.updBlk]
@[simp] theorem updBlk_setBlk (s : State) (b : Block) (g : Block → Block) : (s.setBlk b).updBlk g = s.setBlk (g b) := by
  simp [State.updBlk]
@[simp] theorem setBlk_updBlk (s : State) (f : Block → Block) (b : Block) : (s.updBlk f).setBlk b = s.setBlk b := by
  simp [State.updBlk]
theorem updBlk_eq (s : State) (f : Block → Block) : s.updBlk f = s.setBlk (f s.blk) := rfl

/-! ## Cores -/

@[simp] theorem core_setCore_same (s : State) (c : Nat) (x : Core) : (s.setCore c x).core c = x := by
  simp [State.core, State.setCore]
theorem core_setCore_ne (s : State) {c d : Nat} (x : Core) (h : c ≠ d) : (s.setCore c x).core d = s.core d := by
  simp [State.core, State.setCore, aget_aset_ne _ _ h]
@[simp] theorem setCore_setCore (s : State) (c : Nat) (x y : Core) : (s.setCore c x).setCore c y = s.setCore c y := by
  simp [State.setCore]
@[simp] theorem core_updCore_same (s : State) (c : Nat) (f : Core → Core) : (s.updCore c f).core c = f (s.core c) := by
  simp [State.updCore]
@[simp] theorem core_setBlkAt (s : State) (h c : Nat) (b : Block) : (s.setBlkAt h b).core c = s.core c := rfl
@[simp] theorem core_setBlk (s : State) (c : Nat) (b : Block) : (s.setBlk b).core c = s.core c := rfl
@[simp] theorem core_updBlk (s : State) (c : Nat) (f : Block → Block) : (s.updBlk f).core c = s.core c := rfl
@[simp] theorem blk_setCore (s : State) (c : Nat) (x : Core) : (s.setCore c x).blk = s.blk := rfl
@[simp] theorem blk_updCore (s : State) (c : Nat) (f : Core → Core) : (s.updCore c f).blk = s.blk := rfl
@[simp] theorem blk_setMs (s : State) (f : MemSys → MemSys) : (s.setMs f).blk = s.blk := rfl
@[simp] theorem myCore_setBlk (s : State) (b : Block) : (s.setBlk b).myCore = s.myCore := rfl
@[simp] theorem myCore_updBlk (s : State) (f : Block → Block) : (s.updBlk f).myCore = s.myCore := rfl
@[simp] theorem dataq_updBlk (s : State) (f : Block → Block) (q : Nat) : (s.updBlk f).dataq q = s.dataq q := rfl
@[simp] theorem dataq_setBlk (s : State) (b : Block) (q : Nat) : (s.setBlk b).dataq q = s.dataq q := rfl

/-! ## Queues, contexts, launches -/

@[simp] theorem queue_setQueue_same (s : State) (q : Nat) (x : Queue) : (s.setQueue q x).queue q = x := by
  simp [State.queue, State.setQueue, State.setCp]
theorem queue_setQueue_ne (s : State) {q r : Nat} (x : Queue) (h : q ≠ r) : (s.setQueue q x).queue r = s.queue r := by
  simp [State.queue, State.setQueue, State.setCp, aget_aset_ne _ _ h]
@[simp] theorem hwq_setHwq_same (s : State) (c q : Nat) (x : HwQueue) : (s.setHwq c q x).hwq c q = x := by
  simp [State.hwq, State.setHwq]
@[simp] theorem context_setContext_same (s : State) (n : Nat) (x : Context) : (s.setContext n x).context n = some x := by
  simp [State.context, State.setContext, State.setCp]


/-! ## Updates of State, field by field -/

@[simp] theorem State.setBlkAt_cur (s : State) (h : Nat) (b : Block) : (s.setBlkAt h b).cur = s.cur := rfl
@[simp] theorem State.setBlkAt_schedule (s : State) (h : Nat) (b : Block) : (s.setBlkAt h b).schedule = s.schedule := rfl
@[simp] theorem State.setBlkAt_ck (s : State) (h : Nat) (b : Block) : (s.setBlkAt h b).ck = s.ck := rfl
@[simp] theorem State.setBlkAt_ts (s : State) (h : Nat) (b : Block) : (s.setBlkAt h b).ts = s.ts := rfl
@[simp] theorem State.setBlkAt_tsFrac (s : State) (h : Nat) (b : Block) : (s.setBlkAt h b).tsFrac = s.tsFrac := rfl
@[simp] theorem State.setBlkAt_slew (s : State) (h : Nat) (b : Block) : (s.setBlkAt h b).slew = s.slew := rfl
@[simp] theorem State.setBlkAt_halfRate (s : State) (h : Nat) (b : Block) : (s.setBlkAt h b).halfRate = s.halfRate := rfl
@[simp] theorem State.setBlkAt_slewOdd (s : State) (h : Nat) (b : Block) : (s.setBlkAt h b).slewOdd = s.slewOdd := rfl
@[simp] theorem State.setBlkAt_free (s : State) (h : Nat) (b : Block) : (s.setBlkAt h b).free = s.free := rfl
@[simp] theorem State.setBlkAt_cores (s : State) (h : Nat) (b : Block) : (s.setBlkAt h b).cores = s.cores := rfl
@[simp] theorem State.setBlkAt_queues (s : State) (h : Nat) (b : Block) : (s.setBlkAt h b).queues = s.queues := rfl
@[simp] theorem State.setBlkAt_pushes (s : State) (h : Nat) (b : Block) : (s.setBlkAt h b).pushes = s.pushes := rfl
@[simp] theorem State.setBlkAt_barMsgs (s : State) (h : Nat) (b : Block) : (s.setBlkAt h b).barMsgs = s.barMsgs := rfl
@[simp] theorem State.setBlkAt_carries (s : State) (h : Nat) (b : Block) : (s.setBlkAt h b).carries = s.carries := rfl
@[simp] theorem State.setBlkAt_completions (s : State) (h : Nat) (b : Block) : (s.setBlkAt h b).completions = s.completions := rfl
@[simp] theorem State.setBlkAt_streams (s : State) (h : Nat) (b : Block) : (s.setBlkAt h b).streams = s.streams := rfl
@[simp] theorem State.setBlkAt_nextStream (s : State) (h : Nat) (b : Block) : (s.setBlkAt h b).nextStream = s.nextStream := rfl
@[simp] theorem State.setBlkAt_cp (s : State) (h : Nat) (b : Block) : (s.setBlkAt h b).cp = s.cp := rfl
@[simp] theorem State.setBlkAt_ms (s : State) (h : Nat) (b : Block) : (s.setBlkAt h b).ms = s.ms := rfl
@[simp] theorem State.setBlkAt_fab (s : State) (h : Nat) (b : Block) : (s.setBlkAt h b).fab = s.fab := rfl
@[simp] theorem State.setBlkAt_plat (s : State) (h : Nat) (b : Block) : (s.setBlkAt h b).plat = s.plat := rfl
@[simp] theorem State.setBlk_cur (s : State) (b : Block) : (s.setBlk b).cur = s.cur := rfl
@[simp] theorem State.setBlk_schedule (s : State) (b : Block) : (s.setBlk b).schedule = s.schedule := rfl
@[simp] theorem State.setBlk_ck (s : State) (b : Block) : (s.setBlk b).ck = s.ck := rfl
@[simp] theorem State.setBlk_ts (s : State) (b : Block) : (s.setBlk b).ts = s.ts := rfl
@[simp] theorem State.setBlk_tsFrac (s : State) (b : Block) : (s.setBlk b).tsFrac = s.tsFrac := rfl
@[simp] theorem State.setBlk_slew (s : State) (b : Block) : (s.setBlk b).slew = s.slew := rfl
@[simp] theorem State.setBlk_halfRate (s : State) (b : Block) : (s.setBlk b).halfRate = s.halfRate := rfl
@[simp] theorem State.setBlk_slewOdd (s : State) (b : Block) : (s.setBlk b).slewOdd = s.slewOdd := rfl
@[simp] theorem State.setBlk_free (s : State) (b : Block) : (s.setBlk b).free = s.free := rfl
@[simp] theorem State.setBlk_cores (s : State) (b : Block) : (s.setBlk b).cores = s.cores := rfl
@[simp] theorem State.setBlk_queues (s : State) (b : Block) : (s.setBlk b).queues = s.queues := rfl
@[simp] theorem State.setBlk_pushes (s : State) (b : Block) : (s.setBlk b).pushes = s.pushes := rfl
@[simp] theorem State.setBlk_barMsgs (s : State) (b : Block) : (s.setBlk b).barMsgs = s.barMsgs := rfl
@[simp] theorem State.setBlk_carries (s : State) (b : Block) : (s.setBlk b).carries = s.carries := rfl
@[simp] theorem State.setBlk_completions (s : State) (b : Block) : (s.setBlk b).completions = s.completions := rfl
@[simp] theorem State.setBlk_streams (s : State) (b : Block) : (s.setBlk b).streams = s.streams := rfl
@[simp] theorem State.setBlk_nextStream (s : State) (b : Block) : (s.setBlk b).nextStream = s.nextStream := rfl
@[simp] theorem State.setBlk_cp (s : State) (b : Block) : (s.setBlk b).cp = s.cp := rfl
@[simp] theorem State.setBlk_ms (s : State) (b : Block) : (s.setBlk b).ms = s.ms := rfl
@[simp] theorem State.setBlk_fab (s : State) (b : Block) : (s.setBlk b).fab = s.fab := rfl
@[simp] theorem State.setBlk_plat (s : State) (b : Block) : (s.setBlk b).plat = s.plat := rfl
@[simp] theorem State.updBlk_cur (s : State) (f : Block → Block) : (s.updBlk f).cur = s.cur := rfl
@[simp] theorem State.updBlk_schedule (s : State) (f : Block → Block) : (s.updBlk f).schedule = s.schedule := rfl
@[simp] theorem State.updBlk_ck (s : State) (f : Block → Block) : (s.updBlk f).ck = s.ck := rfl
@[simp] theorem State.updBlk_ts (s : State) (f : Block → Block) : (s.updBlk f).ts = s.ts := rfl
@[simp] theorem State.updBlk_tsFrac (s : State) (f : Block → Block) : (s.updBlk f).tsFrac = s.tsFrac := rfl
@[simp] theorem State.updBlk_slew (s : State) (f : Block → Block) : (s.updBlk f).slew = s.slew := rfl
@[simp] theorem State.updBlk_halfRate (s : State) (f : Block → Block) : (s.updBlk f).halfRate = s.halfRate := rfl
@[simp] theorem State.updBlk_slewOdd (s : State) (f : Block → Block) : (s.updBlk f).slewOdd = s.slewOdd := rfl
@[simp] theorem State.updBlk_free (s : State) (f : Block → Block) : (s.updBlk f).free = s.free := rfl
@[simp] theorem State.updBlk_cores (s : State) (f : Block → Block) : (s.updBlk f).cores = s.cores := rfl
@[simp] theorem State.updBlk_queues (s : State) (f : Block → Block) : (s.updBlk f).queues = s.queues := rfl
@[simp] theorem State.updBlk_pushes (s : State) (f : Block → Block) : (s.updBlk f).pushes = s.pushes := rfl
@[simp] theorem State.updBlk_barMsgs (s : State) (f : Block → Block) : (s.updBlk f).barMsgs = s.barMsgs := rfl
@[simp] theorem State.updBlk_carries (s : State) (f : Block → Block) : (s.updBlk f).carries = s.carries := rfl
@[simp] theorem State.updBlk_completions (s : State) (f : Block → Block) : (s.updBlk f).completions = s.completions := rfl
@[simp] theorem State.updBlk_streams (s : State) (f : Block → Block) : (s.updBlk f).streams = s.streams := rfl
@[simp] theorem State.updBlk_nextStream (s : State) (f : Block → Block) : (s.updBlk f).nextStream = s.nextStream := rfl
@[simp] theorem State.updBlk_cp (s : State) (f : Block → Block) : (s.updBlk f).cp = s.cp := rfl
@[simp] theorem State.updBlk_ms (s : State) (f : Block → Block) : (s.updBlk f).ms = s.ms := rfl
@[simp] theorem State.updBlk_fab (s : State) (f : Block → Block) : (s.updBlk f).fab = s.fab := rfl
@[simp] theorem State.updBlk_plat (s : State) (f : Block → Block) : (s.updBlk f).plat = s.plat := rfl
@[simp] theorem State.setCore_cur (s : State) (c : Nat) (x : Core) : (s.setCore c x).cur = s.cur := rfl
@[simp] theorem State.setCore_schedule (s : State) (c : Nat) (x : Core) : (s.setCore c x).schedule = s.schedule := rfl
@[simp] theorem State.setCore_ck (s : State) (c : Nat) (x : Core) : (s.setCore c x).ck = s.ck := rfl
@[simp] theorem State.setCore_ts (s : State) (c : Nat) (x : Core) : (s.setCore c x).ts = s.ts := rfl
@[simp] theorem State.setCore_tsFrac (s : State) (c : Nat) (x : Core) : (s.setCore c x).tsFrac = s.tsFrac := rfl
@[simp] theorem State.setCore_slew (s : State) (c : Nat) (x : Core) : (s.setCore c x).slew = s.slew := rfl
@[simp] theorem State.setCore_halfRate (s : State) (c : Nat) (x : Core) : (s.setCore c x).halfRate = s.halfRate := rfl
@[simp] theorem State.setCore_slewOdd (s : State) (c : Nat) (x : Core) : (s.setCore c x).slewOdd = s.slewOdd := rfl
@[simp] theorem State.setCore_free (s : State) (c : Nat) (x : Core) : (s.setCore c x).free = s.free := rfl
@[simp] theorem State.setCore_blocks (s : State) (c : Nat) (x : Core) : (s.setCore c x).blocks = s.blocks := rfl
@[simp] theorem State.setCore_queues (s : State) (c : Nat) (x : Core) : (s.setCore c x).queues = s.queues := rfl
@[simp] theorem State.setCore_pushes (s : State) (c : Nat) (x : Core) : (s.setCore c x).pushes = s.pushes := rfl
@[simp] theorem State.setCore_barMsgs (s : State) (c : Nat) (x : Core) : (s.setCore c x).barMsgs = s.barMsgs := rfl
@[simp] theorem State.setCore_carries (s : State) (c : Nat) (x : Core) : (s.setCore c x).carries = s.carries := rfl
@[simp] theorem State.setCore_completions (s : State) (c : Nat) (x : Core) : (s.setCore c x).completions = s.completions := rfl
@[simp] theorem State.setCore_streams (s : State) (c : Nat) (x : Core) : (s.setCore c x).streams = s.streams := rfl
@[simp] theorem State.setCore_nextStream (s : State) (c : Nat) (x : Core) : (s.setCore c x).nextStream = s.nextStream := rfl
@[simp] theorem State.setCore_cp (s : State) (c : Nat) (x : Core) : (s.setCore c x).cp = s.cp := rfl
@[simp] theorem State.setCore_ms (s : State) (c : Nat) (x : Core) : (s.setCore c x).ms = s.ms := rfl
@[simp] theorem State.setCore_fab (s : State) (c : Nat) (x : Core) : (s.setCore c x).fab = s.fab := rfl
@[simp] theorem State.setCore_plat (s : State) (c : Nat) (x : Core) : (s.setCore c x).plat = s.plat := rfl
@[simp] theorem State.updCore_cur (s : State) (c : Nat) (f : Core → Core) : (s.updCore c f).cur = s.cur := rfl
@[simp] theorem State.updCore_schedule (s : State) (c : Nat) (f : Core → Core) : (s.updCore c f).schedule = s.schedule := rfl
@[simp] theorem State.updCore_ck (s : State) (c : Nat) (f : Core → Core) : (s.updCore c f).ck = s.ck := rfl
@[simp] theorem State.updCore_ts (s : State) (c : Nat) (f : Core → Core) : (s.updCore c f).ts = s.ts := rfl
@[simp] theorem State.updCore_tsFrac (s : State) (c : Nat) (f : Core → Core) : (s.updCore c f).tsFrac = s.tsFrac := rfl
@[simp] theorem State.updCore_slew (s : State) (c : Nat) (f : Core → Core) : (s.updCore c f).slew = s.slew := rfl
@[simp] theorem State.updCore_halfRate (s : State) (c : Nat) (f : Core → Core) : (s.updCore c f).halfRate = s.halfRate := rfl
@[simp] theorem State.updCore_slewOdd (s : State) (c : Nat) (f : Core → Core) : (s.updCore c f).slewOdd = s.slewOdd := rfl
@[simp] theorem State.updCore_free (s : State) (c : Nat) (f : Core → Core) : (s.updCore c f).free = s.free := rfl
@[simp] theorem State.updCore_blocks (s : State) (c : Nat) (f : Core → Core) : (s.updCore c f).blocks = s.blocks := rfl
@[simp] theorem State.updCore_queues (s : State) (c : Nat) (f : Core → Core) : (s.updCore c f).queues = s.queues := rfl
@[simp] theorem State.updCore_pushes (s : State) (c : Nat) (f : Core → Core) : (s.updCore c f).pushes = s.pushes := rfl
@[simp] theorem State.updCore_barMsgs (s : State) (c : Nat) (f : Core → Core) : (s.updCore c f).barMsgs = s.barMsgs := rfl
@[simp] theorem State.updCore_carries (s : State) (c : Nat) (f : Core → Core) : (s.updCore c f).carries = s.carries := rfl
@[simp] theorem State.updCore_completions (s : State) (c : Nat) (f : Core → Core) : (s.updCore c f).completions = s.completions := rfl
@[simp] theorem State.updCore_streams (s : State) (c : Nat) (f : Core → Core) : (s.updCore c f).streams = s.streams := rfl
@[simp] theorem State.updCore_nextStream (s : State) (c : Nat) (f : Core → Core) : (s.updCore c f).nextStream = s.nextStream := rfl
@[simp] theorem State.updCore_cp (s : State) (c : Nat) (f : Core → Core) : (s.updCore c f).cp = s.cp := rfl
@[simp] theorem State.updCore_ms (s : State) (c : Nat) (f : Core → Core) : (s.updCore c f).ms = s.ms := rfl
@[simp] theorem State.updCore_fab (s : State) (c : Nat) (f : Core → Core) : (s.updCore c f).fab = s.fab := rfl
@[simp] theorem State.updCore_plat (s : State) (c : Nat) (f : Core → Core) : (s.updCore c f).plat = s.plat := rfl
@[simp] theorem State.setMs_cur (s : State) (f : MemSys → MemSys) : (s.setMs f).cur = s.cur := rfl
@[simp] theorem State.setMs_schedule (s : State) (f : MemSys → MemSys) : (s.setMs f).schedule = s.schedule := rfl
@[simp] theorem State.setMs_ck (s : State) (f : MemSys → MemSys) : (s.setMs f).ck = s.ck := rfl
@[simp] theorem State.setMs_ts (s : State) (f : MemSys → MemSys) : (s.setMs f).ts = s.ts := rfl
@[simp] theorem State.setMs_tsFrac (s : State) (f : MemSys → MemSys) : (s.setMs f).tsFrac = s.tsFrac := rfl
@[simp] theorem State.setMs_slew (s : State) (f : MemSys → MemSys) : (s.setMs f).slew = s.slew := rfl
@[simp] theorem State.setMs_halfRate (s : State) (f : MemSys → MemSys) : (s.setMs f).halfRate = s.halfRate := rfl
@[simp] theorem State.setMs_slewOdd (s : State) (f : MemSys → MemSys) : (s.setMs f).slewOdd = s.slewOdd := rfl
@[simp] theorem State.setMs_free (s : State) (f : MemSys → MemSys) : (s.setMs f).free = s.free := rfl
@[simp] theorem State.setMs_blocks (s : State) (f : MemSys → MemSys) : (s.setMs f).blocks = s.blocks := rfl
@[simp] theorem State.setMs_cores (s : State) (f : MemSys → MemSys) : (s.setMs f).cores = s.cores := rfl
@[simp] theorem State.setMs_queues (s : State) (f : MemSys → MemSys) : (s.setMs f).queues = s.queues := rfl
@[simp] theorem State.setMs_pushes (s : State) (f : MemSys → MemSys) : (s.setMs f).pushes = s.pushes := rfl
@[simp] theorem State.setMs_barMsgs (s : State) (f : MemSys → MemSys) : (s.setMs f).barMsgs = s.barMsgs := rfl
@[simp] theorem State.setMs_carries (s : State) (f : MemSys → MemSys) : (s.setMs f).carries = s.carries := rfl
@[simp] theorem State.setMs_completions (s : State) (f : MemSys → MemSys) : (s.setMs f).completions = s.completions := rfl
@[simp] theorem State.setMs_streams (s : State) (f : MemSys → MemSys) : (s.setMs f).streams = s.streams := rfl
@[simp] theorem State.setMs_nextStream (s : State) (f : MemSys → MemSys) : (s.setMs f).nextStream = s.nextStream := rfl
@[simp] theorem State.setMs_cp (s : State) (f : MemSys → MemSys) : (s.setMs f).cp = s.cp := rfl
@[simp] theorem State.setMs_fab (s : State) (f : MemSys → MemSys) : (s.setMs f).fab = s.fab := rfl
@[simp] theorem State.setMs_plat (s : State) (f : MemSys → MemSys) : (s.setMs f).plat = s.plat := rfl
@[simp] theorem State.setCp_cur (s : State) (f : Cp → Cp) : (s.setCp f).cur = s.cur := rfl
@[simp] theorem State.setCp_schedule (s : State) (f : Cp → Cp) : (s.setCp f).schedule = s.schedule := rfl
@[simp] theorem State.setCp_ck (s : State) (f : Cp → Cp) : (s.setCp f).ck = s.ck := rfl
@[simp] theorem State.setCp_ts (s : State) (f : Cp → Cp) : (s.setCp f).ts = s.ts := rfl
@[simp] theorem State.setCp_tsFrac (s : State) (f : Cp → Cp) : (s.setCp f).tsFrac = s.tsFrac := rfl
@[simp] theorem State.setCp_slew (s : State) (f : Cp → Cp) : (s.setCp f).slew = s.slew := rfl
@[simp] theorem State.setCp_halfRate (s : State) (f : Cp → Cp) : (s.setCp f).halfRate = s.halfRate := rfl
@[simp] theorem State.setCp_slewOdd (s : State) (f : Cp → Cp) : (s.setCp f).slewOdd = s.slewOdd := rfl
@[simp] theorem State.setCp_free (s : State) (f : Cp → Cp) : (s.setCp f).free = s.free := rfl
@[simp] theorem State.setCp_blocks (s : State) (f : Cp → Cp) : (s.setCp f).blocks = s.blocks := rfl
@[simp] theorem State.setCp_cores (s : State) (f : Cp → Cp) : (s.setCp f).cores = s.cores := rfl
@[simp] theorem State.setCp_queues (s : State) (f : Cp → Cp) : (s.setCp f).queues = s.queues := rfl
@[simp] theorem State.setCp_pushes (s : State) (f : Cp → Cp) : (s.setCp f).pushes = s.pushes := rfl
@[simp] theorem State.setCp_barMsgs (s : State) (f : Cp → Cp) : (s.setCp f).barMsgs = s.barMsgs := rfl
@[simp] theorem State.setCp_carries (s : State) (f : Cp → Cp) : (s.setCp f).carries = s.carries := rfl
@[simp] theorem State.setCp_completions (s : State) (f : Cp → Cp) : (s.setCp f).completions = s.completions := rfl
@[simp] theorem State.setCp_streams (s : State) (f : Cp → Cp) : (s.setCp f).streams = s.streams := rfl
@[simp] theorem State.setCp_nextStream (s : State) (f : Cp → Cp) : (s.setCp f).nextStream = s.nextStream := rfl
@[simp] theorem State.setCp_ms (s : State) (f : Cp → Cp) : (s.setCp f).ms = s.ms := rfl
@[simp] theorem State.setCp_fab (s : State) (f : Cp → Cp) : (s.setCp f).fab = s.fab := rfl
@[simp] theorem State.setCp_plat (s : State) (f : Cp → Cp) : (s.setCp f).plat = s.plat := rfl
@[simp] theorem State.setPlat_cur (s : State) (f : Platform → Platform) : (s.setPlat f).cur = s.cur := rfl
@[simp] theorem State.setPlat_schedule (s : State) (f : Platform → Platform) : (s.setPlat f).schedule = s.schedule := rfl
@[simp] theorem State.setPlat_ck (s : State) (f : Platform → Platform) : (s.setPlat f).ck = s.ck := rfl
@[simp] theorem State.setPlat_ts (s : State) (f : Platform → Platform) : (s.setPlat f).ts = s.ts := rfl
@[simp] theorem State.setPlat_tsFrac (s : State) (f : Platform → Platform) : (s.setPlat f).tsFrac = s.tsFrac := rfl
@[simp] theorem State.setPlat_slew (s : State) (f : Platform → Platform) : (s.setPlat f).slew = s.slew := rfl
@[simp] theorem State.setPlat_halfRate (s : State) (f : Platform → Platform) : (s.setPlat f).halfRate = s.halfRate := rfl
@[simp] theorem State.setPlat_slewOdd (s : State) (f : Platform → Platform) : (s.setPlat f).slewOdd = s.slewOdd := rfl
@[simp] theorem State.setPlat_free (s : State) (f : Platform → Platform) : (s.setPlat f).free = s.free := rfl
@[simp] theorem State.setPlat_blocks (s : State) (f : Platform → Platform) : (s.setPlat f).blocks = s.blocks := rfl
@[simp] theorem State.setPlat_cores (s : State) (f : Platform → Platform) : (s.setPlat f).cores = s.cores := rfl
@[simp] theorem State.setPlat_queues (s : State) (f : Platform → Platform) : (s.setPlat f).queues = s.queues := rfl
@[simp] theorem State.setPlat_pushes (s : State) (f : Platform → Platform) : (s.setPlat f).pushes = s.pushes := rfl
@[simp] theorem State.setPlat_barMsgs (s : State) (f : Platform → Platform) : (s.setPlat f).barMsgs = s.barMsgs := rfl
@[simp] theorem State.setPlat_carries (s : State) (f : Platform → Platform) : (s.setPlat f).carries = s.carries := rfl
@[simp] theorem State.setPlat_completions (s : State) (f : Platform → Platform) : (s.setPlat f).completions = s.completions := rfl
@[simp] theorem State.setPlat_streams (s : State) (f : Platform → Platform) : (s.setPlat f).streams = s.streams := rfl
@[simp] theorem State.setPlat_nextStream (s : State) (f : Platform → Platform) : (s.setPlat f).nextStream = s.nextStream := rfl
@[simp] theorem State.setPlat_cp (s : State) (f : Platform → Platform) : (s.setPlat f).cp = s.cp := rfl
@[simp] theorem State.setPlat_ms (s : State) (f : Platform → Platform) : (s.setPlat f).ms = s.ms := rfl
@[simp] theorem State.setPlat_fab (s : State) (f : Platform → Platform) : (s.setPlat f).fab = s.fab := rfl
@[simp] theorem State.setHwq_cur (s : State) (c q : Nat) (x : HwQueue) : (s.setHwq c q x).cur = s.cur := rfl
@[simp] theorem State.setHwq_schedule (s : State) (c q : Nat) (x : HwQueue) : (s.setHwq c q x).schedule = s.schedule := rfl
@[simp] theorem State.setHwq_ck (s : State) (c q : Nat) (x : HwQueue) : (s.setHwq c q x).ck = s.ck := rfl
@[simp] theorem State.setHwq_ts (s : State) (c q : Nat) (x : HwQueue) : (s.setHwq c q x).ts = s.ts := rfl
@[simp] theorem State.setHwq_tsFrac (s : State) (c q : Nat) (x : HwQueue) : (s.setHwq c q x).tsFrac = s.tsFrac := rfl
@[simp] theorem State.setHwq_slew (s : State) (c q : Nat) (x : HwQueue) : (s.setHwq c q x).slew = s.slew := rfl
@[simp] theorem State.setHwq_halfRate (s : State) (c q : Nat) (x : HwQueue) : (s.setHwq c q x).halfRate = s.halfRate := rfl
@[simp] theorem State.setHwq_slewOdd (s : State) (c q : Nat) (x : HwQueue) : (s.setHwq c q x).slewOdd = s.slewOdd := rfl
@[simp] theorem State.setHwq_free (s : State) (c q : Nat) (x : HwQueue) : (s.setHwq c q x).free = s.free := rfl
@[simp] theorem State.setHwq_blocks (s : State) (c q : Nat) (x : HwQueue) : (s.setHwq c q x).blocks = s.blocks := rfl
@[simp] theorem State.setHwq_cores (s : State) (c q : Nat) (x : HwQueue) : (s.setHwq c q x).cores = s.cores := rfl
@[simp] theorem State.setHwq_pushes (s : State) (c q : Nat) (x : HwQueue) : (s.setHwq c q x).pushes = s.pushes := rfl
@[simp] theorem State.setHwq_barMsgs (s : State) (c q : Nat) (x : HwQueue) : (s.setHwq c q x).barMsgs = s.barMsgs := rfl
@[simp] theorem State.setHwq_carries (s : State) (c q : Nat) (x : HwQueue) : (s.setHwq c q x).carries = s.carries := rfl
@[simp] theorem State.setHwq_completions (s : State) (c q : Nat) (x : HwQueue) : (s.setHwq c q x).completions = s.completions := rfl
@[simp] theorem State.setHwq_streams (s : State) (c q : Nat) (x : HwQueue) : (s.setHwq c q x).streams = s.streams := rfl
@[simp] theorem State.setHwq_nextStream (s : State) (c q : Nat) (x : HwQueue) : (s.setHwq c q x).nextStream = s.nextStream := rfl
@[simp] theorem State.setHwq_cp (s : State) (c q : Nat) (x : HwQueue) : (s.setHwq c q x).cp = s.cp := rfl
@[simp] theorem State.setHwq_ms (s : State) (c q : Nat) (x : HwQueue) : (s.setHwq c q x).ms = s.ms := rfl
@[simp] theorem State.setHwq_fab (s : State) (c q : Nat) (x : HwQueue) : (s.setHwq c q x).fab = s.fab := rfl
@[simp] theorem State.setHwq_plat (s : State) (c q : Nat) (x : HwQueue) : (s.setHwq c q x).plat = s.plat := rfl
@[simp] theorem State.setQueue_cur (s : State) (q : Nat) (x : Queue) : (s.setQueue q x).cur = s.cur := rfl
@[simp] theorem State.setQueue_schedule (s : State) (q : Nat) (x : Queue) : (s.setQueue q x).schedule = s.schedule := rfl
@[simp] theorem State.setQueue_ck (s : State) (q : Nat) (x : Queue) : (s.setQueue q x).ck = s.ck := rfl
@[simp] theorem State.setQueue_ts (s : State) (q : Nat) (x : Queue) : (s.setQueue q x).ts = s.ts := rfl
@[simp] theorem State.setQueue_tsFrac (s : State) (q : Nat) (x : Queue) : (s.setQueue q x).tsFrac = s.tsFrac := rfl
@[simp] theorem State.setQueue_slew (s : State) (q : Nat) (x : Queue) : (s.setQueue q x).slew = s.slew := rfl
@[simp] theorem State.setQueue_halfRate (s : State) (q : Nat) (x : Queue) : (s.setQueue q x).halfRate = s.halfRate := rfl
@[simp] theorem State.setQueue_slewOdd (s : State) (q : Nat) (x : Queue) : (s.setQueue q x).slewOdd = s.slewOdd := rfl
@[simp] theorem State.setQueue_free (s : State) (q : Nat) (x : Queue) : (s.setQueue q x).free = s.free := rfl
@[simp] theorem State.setQueue_blocks (s : State) (q : Nat) (x : Queue) : (s.setQueue q x).blocks = s.blocks := rfl
@[simp] theorem State.setQueue_cores (s : State) (q : Nat) (x : Queue) : (s.setQueue q x).cores = s.cores := rfl
@[simp] theorem State.setQueue_queues (s : State) (q : Nat) (x : Queue) : (s.setQueue q x).queues = s.queues := rfl
@[simp] theorem State.setQueue_pushes (s : State) (q : Nat) (x : Queue) : (s.setQueue q x).pushes = s.pushes := rfl
@[simp] theorem State.setQueue_barMsgs (s : State) (q : Nat) (x : Queue) : (s.setQueue q x).barMsgs = s.barMsgs := rfl
@[simp] theorem State.setQueue_carries (s : State) (q : Nat) (x : Queue) : (s.setQueue q x).carries = s.carries := rfl
@[simp] theorem State.setQueue_completions (s : State) (q : Nat) (x : Queue) : (s.setQueue q x).completions = s.completions := rfl
@[simp] theorem State.setQueue_streams (s : State) (q : Nat) (x : Queue) : (s.setQueue q x).streams = s.streams := rfl
@[simp] theorem State.setQueue_nextStream (s : State) (q : Nat) (x : Queue) : (s.setQueue q x).nextStream = s.nextStream := rfl
@[simp] theorem State.setQueue_ms (s : State) (q : Nat) (x : Queue) : (s.setQueue q x).ms = s.ms := rfl
@[simp] theorem State.setQueue_fab (s : State) (q : Nat) (x : Queue) : (s.setQueue q x).fab = s.fab := rfl
@[simp] theorem State.setQueue_plat (s : State) (q : Nat) (x : Queue) : (s.setQueue q x).plat = s.plat := rfl
@[simp] theorem State.setContext_cur (s : State) (n : Nat) (x : Context) : (s.setContext n x).cur = s.cur := rfl
@[simp] theorem State.setContext_schedule (s : State) (n : Nat) (x : Context) : (s.setContext n x).schedule = s.schedule := rfl
@[simp] theorem State.setContext_ck (s : State) (n : Nat) (x : Context) : (s.setContext n x).ck = s.ck := rfl
@[simp] theorem State.setContext_ts (s : State) (n : Nat) (x : Context) : (s.setContext n x).ts = s.ts := rfl
@[simp] theorem State.setContext_tsFrac (s : State) (n : Nat) (x : Context) : (s.setContext n x).tsFrac = s.tsFrac := rfl
@[simp] theorem State.setContext_slew (s : State) (n : Nat) (x : Context) : (s.setContext n x).slew = s.slew := rfl
@[simp] theorem State.setContext_halfRate (s : State) (n : Nat) (x : Context) : (s.setContext n x).halfRate = s.halfRate := rfl
@[simp] theorem State.setContext_slewOdd (s : State) (n : Nat) (x : Context) : (s.setContext n x).slewOdd = s.slewOdd := rfl
@[simp] theorem State.setContext_free (s : State) (n : Nat) (x : Context) : (s.setContext n x).free = s.free := rfl
@[simp] theorem State.setContext_blocks (s : State) (n : Nat) (x : Context) : (s.setContext n x).blocks = s.blocks := rfl
@[simp] theorem State.setContext_cores (s : State) (n : Nat) (x : Context) : (s.setContext n x).cores = s.cores := rfl
@[simp] theorem State.setContext_queues (s : State) (n : Nat) (x : Context) : (s.setContext n x).queues = s.queues := rfl
@[simp] theorem State.setContext_pushes (s : State) (n : Nat) (x : Context) : (s.setContext n x).pushes = s.pushes := rfl
@[simp] theorem State.setContext_barMsgs (s : State) (n : Nat) (x : Context) : (s.setContext n x).barMsgs = s.barMsgs := rfl
@[simp] theorem State.setContext_carries (s : State) (n : Nat) (x : Context) : (s.setContext n x).carries = s.carries := rfl
@[simp] theorem State.setContext_completions (s : State) (n : Nat) (x : Context) : (s.setContext n x).completions = s.completions := rfl
@[simp] theorem State.setContext_streams (s : State) (n : Nat) (x : Context) : (s.setContext n x).streams = s.streams := rfl
@[simp] theorem State.setContext_nextStream (s : State) (n : Nat) (x : Context) : (s.setContext n x).nextStream = s.nextStream := rfl
@[simp] theorem State.setContext_ms (s : State) (n : Nat) (x : Context) : (s.setContext n x).ms = s.ms := rfl
@[simp] theorem State.setContext_fab (s : State) (n : Nat) (x : Context) : (s.setContext n x).fab = s.fab := rfl
@[simp] theorem State.setContext_plat (s : State) (n : Nat) (x : Context) : (s.setContext n x).plat = s.plat := rfl
@[simp] theorem State.focus_schedule (s : State) (h : Nat) : (s.focus h).schedule = s.schedule := rfl
@[simp] theorem State.focus_ck (s : State) (h : Nat) : (s.focus h).ck = s.ck := rfl
@[simp] theorem State.focus_ts (s : State) (h : Nat) : (s.focus h).ts = s.ts := rfl
@[simp] theorem State.focus_tsFrac (s : State) (h : Nat) : (s.focus h).tsFrac = s.tsFrac := rfl
@[simp] theorem State.focus_slew (s : State) (h : Nat) : (s.focus h).slew = s.slew := rfl
@[simp] theorem State.focus_halfRate (s : State) (h : Nat) : (s.focus h).halfRate = s.halfRate := rfl
@[simp] theorem State.focus_slewOdd (s : State) (h : Nat) : (s.focus h).slewOdd = s.slewOdd := rfl
@[simp] theorem State.focus_free (s : State) (h : Nat) : (s.focus h).free = s.free := rfl
@[simp] theorem State.focus_blocks (s : State) (h : Nat) : (s.focus h).blocks = s.blocks := rfl
@[simp] theorem State.focus_cores (s : State) (h : Nat) : (s.focus h).cores = s.cores := rfl
@[simp] theorem State.focus_queues (s : State) (h : Nat) : (s.focus h).queues = s.queues := rfl
@[simp] theorem State.focus_pushes (s : State) (h : Nat) : (s.focus h).pushes = s.pushes := rfl
@[simp] theorem State.focus_barMsgs (s : State) (h : Nat) : (s.focus h).barMsgs = s.barMsgs := rfl
@[simp] theorem State.focus_carries (s : State) (h : Nat) : (s.focus h).carries = s.carries := rfl
@[simp] theorem State.focus_completions (s : State) (h : Nat) : (s.focus h).completions = s.completions := rfl
@[simp] theorem State.focus_streams (s : State) (h : Nat) : (s.focus h).streams = s.streams := rfl
@[simp] theorem State.focus_nextStream (s : State) (h : Nat) : (s.focus h).nextStream = s.nextStream := rfl
@[simp] theorem State.focus_cp (s : State) (h : Nat) : (s.focus h).cp = s.cp := rfl
@[simp] theorem State.focus_ms (s : State) (h : Nat) : (s.focus h).ms = s.ms := rfl
@[simp] theorem State.focus_fab (s : State) (h : Nat) : (s.focus h).fab = s.fab := rfl
@[simp] theorem State.focus_plat (s : State) (h : Nat) : (s.focus h).plat = s.plat := rfl
@[simp] theorem State.setMs_ms (s : State) (f : MemSys → MemSys) : (s.setMs f).ms = f s.ms := rfl
@[simp] theorem State.setCp_cp (s : State) (f : Cp → Cp) : (s.setCp f).cp = f s.cp := rfl
@[simp] theorem State.setPlat_plat (s : State) (f : Platform → Platform) : (s.setPlat f).plat = f s.plat := rfl
@[simp] theorem State.focus_cur (s : State) (h : Nat) : (s.focus h).cur = h := rfl

/-! ## Updates of Block, field by field -/

@[simp] theorem Block.setX_placed (b : Block) (r : BitVec 6) (v : Word) : (b.setX r v).placed = b.placed := by unfold Block.setX; split <;> rfl
@[simp] theorem Block.setX_ctx (b : Block) (r : BitVec 6) (v : Word) : (b.setX r v).ctx = b.ctx := by unfold Block.setX; split <;> rfl
@[simp] theorem Block.setX_launch (b : Block) (r : BitVec 6) (v : Word) : (b.setX r v).launch = b.launch := by unfold Block.setX; split <;> rfl
@[simp] theorem Block.setX_gang (b : Block) (r : BitVec 6) (v : Word) : (b.setX r v).gang = b.gang := by unfold Block.setX; split <;> rfl
@[simp] theorem Block.setX_gangSize (b : Block) (r : BitVec 6) (v : Word) : (b.setX r v).gangSize = b.gangSize := by unfold Block.setX; split <;> rfl
@[simp] theorem Block.setX_packed (b : Block) (r : BitVec 6) (v : Word) : (b.setX r v).packed = b.packed := by unfold Block.setX; split <;> rfl
@[simp] theorem Block.setX_child (b : Block) (r : BitVec 6) (v : Word) : (b.setX r v).child = b.child := by unfold Block.setX; split <;> rfl
@[simp] theorem Block.setX_gx (b : Block) (r : BitVec 6) (v : Word) : (b.setX r v).gx = b.gx := by unfold Block.setX; split <;> rfl
@[simp] theorem Block.setX_gy (b : Block) (r : BitVec 6) (v : Word) : (b.setX r v).gy = b.gy := by unfold Block.setX; split <;> rfl
@[simp] theorem Block.setX_gz (b : Block) (r : BitVec 6) (v : Word) : (b.setX r v).gz = b.gz := by unfold Block.setX; split <;> rfl
@[simp] theorem Block.setX_gangPos (b : Block) (r : BitVec 6) (v : Word) : (b.setX r v).gangPos = b.gangPos := by unfold Block.setX; split <;> rfl
@[simp] theorem Block.setX_stage (b : Block) (r : BitVec 6) (v : Word) : (b.setX r v).stage = b.stage := by unfold Block.setX; split <;> rfl
@[simp] theorem Block.setX_gen (b : Block) (r : BitVec 6) (v : Word) : (b.setX r v).gen = b.gen := by unfold Block.setX; split <;> rfl
@[simp] theorem Block.setX_slip (b : Block) (r : BitVec 6) (v : Word) : (b.setX r v).slip = b.slip := by unfold Block.setX; split <;> rfl
@[simp] theorem Block.setX_lmin (b : Block) (r : BitVec 6) (v : Word) : (b.setX r v).lmin = b.lmin := by unfold Block.setX; split <;> rfl
@[simp] theorem Block.setX_lmax (b : Block) (r : BitVec 6) (v : Word) : (b.setX r v).lmax = b.lmax := by unfold Block.setX; split <;> rfl
@[simp] theorem Block.setX_level (b : Block) (r : BitVec 6) (v : Word) : (b.setX r v).level = b.level := by unfold Block.setX; split <;> rfl
@[simp] theorem Block.setX_pc (b : Block) (r : BitVec 6) (v : Word) : (b.setX r v).pc = b.pc := by unfold Block.setX; split <;> rfl
@[simp] theorem Block.setX_estart (b : Block) (r : BitVec 6) (v : Word) : (b.setX r v).estart = b.estart := by unfold Block.setX; split <;> rfl
@[simp] theorem Block.setX_p (b : Block) (r : BitVec 6) (v : Word) : (b.setX r v).p = b.p := by unfold Block.setX; split <;> rfl
@[simp] theorem Block.setX_v (b : Block) (r : BitVec 6) (v : Word) : (b.setX r v).v = b.v := by unfold Block.setX; split <;> rfl
@[simp] theorem Block.setX_vprog (b : Block) (r : BitVec 6) (v : Word) : (b.setX r v).vprog = b.vprog := by unfold Block.setX; split <;> rfl
@[simp] theorem Block.setX_m (b : Block) (r : BitVec 6) (v : Word) : (b.setX r v).m = b.m := by unfold Block.setX; split <;> rfl
@[simp] theorem Block.setX_d (b : Block) (r : BitVec 6) (v : Word) : (b.setX r v).d = b.d := by unfold Block.setX; split <;> rfl
@[simp] theorem Block.setX_flawV (b : Block) (r : BitVec 6) (v : Word) : (b.setX r v).flawV = b.flawV := by unfold Block.setX; split <;> rfl
@[simp] theorem Block.setX_flawM (b : Block) (r : BitVec 6) (v : Word) : (b.setX r v).flawM = b.flawM := by unfold Block.setX; split <;> rfl
@[simp] theorem Block.setX_ctl (b : Block) (r : BitVec 6) (v : Word) : (b.setX r v).ctl = b.ctl := by unfold Block.setX; split <;> rfl
@[simp] theorem Block.setX_groups (b : Block) (r : BitVec 6) (v : Word) : (b.setX r v).groups = b.groups := by unfold Block.setX; split <;> rfl
@[simp] theorem Block.setX_freshLanes (b : Block) (r : BitVec 6) (v : Word) : (b.setX r v).freshLanes = b.freshLanes := by unfold Block.setX; split <;> rfl
@[simp] theorem Block.setX_stackBase (b : Block) (r : BitVec 6) (v : Word) : (b.setX r v).stackBase = b.stackBase := by unfold Block.setX; split <;> rfl
@[simp] theorem Block.setX_wait (b : Block) (r : BitVec 6) (v : Word) : (b.setX r v).wait = b.wait := by unfold Block.setX; split <;> rfl
@[simp] theorem Block.setX_rep (b : Block) (r : BitVec 6) (v : Word) : (b.setX r v).rep = b.rep := by unfold Block.setX; split <;> rfl
@[simp] theorem Block.setX_wake (b : Block) (r : BitVec 6) (v : Word) : (b.setX r v).wake = b.wake := by unfold Block.setX; split <;> rfl
@[simp] theorem Block.setX_rel (b : Block) (r : BitVec 6) (v : Word) : (b.setX r v).rel = b.rel := by unfold Block.setX; split <;> rfl
@[simp] theorem Block.setX_pend (b : Block) (r : BitVec 6) (v : Word) : (b.setX r v).pend = b.pend := by unfold Block.setX; split <;> rfl
@[simp] theorem Block.setX_sq (b : Block) (r : BitVec 6) (v : Word) : (b.setX r v).sq = b.sq := by unfold Block.setX; split <;> rfl
@[simp] theorem Block.setX_unacked (b : Block) (r : BitVec 6) (v : Word) : (b.setX r v).unacked = b.unacked := by unfold Block.setX; split <;> rfl
@[simp] theorem Block.setX_xbuf (b : Block) (r : BitVec 6) (v : Word) : (b.setX r v).xbuf = b.xbuf := by unfold Block.setX; split <;> rfl
@[simp] theorem Block.setX_ebuf (b : Block) (r : BitVec 6) (v : Word) : (b.setX r v).ebuf = b.ebuf := by unfold Block.setX; split <;> rfl
@[simp] theorem Block.setX_peerBad (b : Block) (r : BitVec 6) (v : Word) : (b.setX r v).peerBad = b.peerBad := by unfold Block.setX; split <;> rfl
@[simp] theorem Block.setX_frameAns (b : Block) (r : BitVec 6) (v : Word) : (b.setX r v).frameAns = b.frameAns := by unfold Block.setX; split <;> rfl
@[simp] theorem Block.setX_words (b : Block) (r : BitVec 6) (v : Word) : (b.setX r v).words = b.words := by unfold Block.setX; split <;> rfl
@[simp] theorem Block.setX_fifo (b : Block) (r : BitVec 6) (v : Word) : (b.setX r v).fifo = b.fifo := by unfold Block.setX; split <;> rfl
@[simp] theorem Block.setX_sentTo (b : Block) (r : BitVec 6) (v : Word) : (b.setX r v).sentTo = b.sentTo := by unfold Block.setX; split <;> rfl
@[simp] theorem Block.setX_pops (b : Block) (r : BitVec 6) (v : Word) : (b.setX r v).pops = b.pops := by unfold Block.setX; split <;> rfl
@[simp] theorem Block.setX_pcLit (b : Block) (r : BitVec 6) (v : Word) : (b.setX r v).pcLit = b.pcLit := by unfold Block.setX; split <;> rfl
@[simp] theorem Block.setX_age (b : Block) (r : BitVec 6) (v : Word) : (b.setX r v).age = b.age := by unfold Block.setX; split <;> rfl
@[simp] theorem Block.setX_waitCnt (b : Block) (r : BitVec 6) (v : Word) : (b.setX r v).waitCnt = b.waitCnt := by unfold Block.setX; split <;> rfl
@[simp] theorem Block.setX_bubble (b : Block) (r : BitVec 6) (v : Word) : (b.setX r v).bubble = b.bubble := by unfold Block.setX; split <;> rfl
@[simp] theorem Block.setX_tnames (b : Block) (r : BitVec 6) (v : Word) : (b.setX r v).tnames = b.tnames := by unfold Block.setX; split <;> rfl
@[simp] theorem Block.setX_lingering (b : Block) (r : BitVec 6) (v : Word) : (b.setX r v).lingering = b.lingering := by unfold Block.setX; split <;> rfl
@[simp] theorem Block.setX_anames (b : Block) (r : BitVec 6) (v : Word) : (b.setX r v).anames = b.anames := by unfold Block.setX; split <;> rfl
@[simp] theorem Block.setX_freeing (b : Block) (r : BitVec 6) (v : Word) : (b.setX r v).freeing = b.freeing := by unfold Block.setX; split <;> rfl
@[simp] theorem Block.setX_trecs (b : Block) (r : BitVec 6) (v : Word) : (b.setX r v).trecs = b.trecs := by unfold Block.setX; split <;> rfl
@[simp] theorem Block.setX_seqNext (b : Block) (r : BitVec 6) (v : Word) : (b.setX r v).seqNext = b.seqNext := by unfold Block.setX; split <;> rfl
@[simp] theorem Block.setX_tokens (b : Block) (r : BitVec 6) (v : Word) : (b.setX r v).tokens = b.tokens := by unfold Block.setX; split <;> rfl
@[simp] theorem Block.setX_tokSeq (b : Block) (r : BitVec 6) (v : Word) : (b.setX r v).tokSeq = b.tokSeq := by unfold Block.setX; split <;> rfl
@[simp] theorem Block.setX_chain (b : Block) (r : BitVec 6) (v : Word) : (b.setX r v).chain = b.chain := by unfold Block.setX; split <;> rfl
@[simp] theorem Block.setX_consumers (b : Block) (r : BitVec 6) (v : Word) : (b.setX r v).consumers = b.consumers := by unfold Block.setX; split <;> rfl
@[simp] theorem Block.setX_stripPrev (b : Block) (r : BitVec 6) (v : Word) : (b.setX r v).stripPrev = b.stripPrev := by unfold Block.setX; split <;> rfl
@[simp] theorem Block.setX_arrivals (b : Block) (r : BitVec 6) (v : Word) : (b.setX r v).arrivals = b.arrivals := by unfold Block.setX; split <;> rfl
@[simp] theorem Block.setX_gsyncs (b : Block) (r : BitVec 6) (v : Word) : (b.setX r v).gsyncs = b.gsyncs := by unfold Block.setX; split <;> rfl
@[simp] theorem Block.setX_tsyncs (b : Block) (r : BitVec 6) (v : Word) : (b.setX r v).tsyncs = b.tsyncs := by unfold Block.setX; split <;> rfl
@[simp] theorem Block.setX_stop (b : Block) (r : BitVec 6) (v : Word) : (b.setX r v).stop = b.stop := by unfold Block.setX; split <;> rfl
@[simp] theorem Block.setX_skipBp (b : Block) (r : BitVec 6) (v : Word) : (b.setX r v).skipBp = b.skipBp := by unfold Block.setX; split <;> rfl
@[simp] theorem Block.setX_skipWatch (b : Block) (r : BitVec 6) (v : Word) : (b.setX r v).skipWatch = b.skipWatch := by unfold Block.setX; split <;> rfl
@[simp] theorem Block.setX_watched (b : Block) (r : BitVec 6) (v : Word) : (b.setX r v).watched = b.watched := by unfold Block.setX; split <;> rfl
@[simp] theorem Block.setX_dbgReq (b : Block) (r : BitVec 6) (v : Word) : (b.setX r v).dbgReq = b.dbgReq := by unfold Block.setX; split <;> rfl
@[simp] theorem Block.setX_failedWrite (b : Block) (r : BitVec 6) (v : Word) : (b.setX r v).failedWrite = b.failedWrite := by unfold Block.setX; split <;> rfl
@[simp] theorem Block.setX_dying (b : Block) (r : BitVec 6) (v : Word) : (b.setX r v).dying = b.dying := by unfold Block.setX; split <;> rfl
@[simp] theorem Block.setP_placed (b : Block) (n : Nat) (v : Bool) : (b.setP n v).placed = b.placed := by unfold Block.setP; split <;> rfl
@[simp] theorem Block.setP_ctx (b : Block) (n : Nat) (v : Bool) : (b.setP n v).ctx = b.ctx := by unfold Block.setP; split <;> rfl
@[simp] theorem Block.setP_launch (b : Block) (n : Nat) (v : Bool) : (b.setP n v).launch = b.launch := by unfold Block.setP; split <;> rfl
@[simp] theorem Block.setP_gang (b : Block) (n : Nat) (v : Bool) : (b.setP n v).gang = b.gang := by unfold Block.setP; split <;> rfl
@[simp] theorem Block.setP_gangSize (b : Block) (n : Nat) (v : Bool) : (b.setP n v).gangSize = b.gangSize := by unfold Block.setP; split <;> rfl
@[simp] theorem Block.setP_packed (b : Block) (n : Nat) (v : Bool) : (b.setP n v).packed = b.packed := by unfold Block.setP; split <;> rfl
@[simp] theorem Block.setP_child (b : Block) (n : Nat) (v : Bool) : (b.setP n v).child = b.child := by unfold Block.setP; split <;> rfl
@[simp] theorem Block.setP_gx (b : Block) (n : Nat) (v : Bool) : (b.setP n v).gx = b.gx := by unfold Block.setP; split <;> rfl
@[simp] theorem Block.setP_gy (b : Block) (n : Nat) (v : Bool) : (b.setP n v).gy = b.gy := by unfold Block.setP; split <;> rfl
@[simp] theorem Block.setP_gz (b : Block) (n : Nat) (v : Bool) : (b.setP n v).gz = b.gz := by unfold Block.setP; split <;> rfl
@[simp] theorem Block.setP_gangPos (b : Block) (n : Nat) (v : Bool) : (b.setP n v).gangPos = b.gangPos := by unfold Block.setP; split <;> rfl
@[simp] theorem Block.setP_stage (b : Block) (n : Nat) (v : Bool) : (b.setP n v).stage = b.stage := by unfold Block.setP; split <;> rfl
@[simp] theorem Block.setP_gen (b : Block) (n : Nat) (v : Bool) : (b.setP n v).gen = b.gen := by unfold Block.setP; split <;> rfl
@[simp] theorem Block.setP_slip (b : Block) (n : Nat) (v : Bool) : (b.setP n v).slip = b.slip := by unfold Block.setP; split <;> rfl
@[simp] theorem Block.setP_lmin (b : Block) (n : Nat) (v : Bool) : (b.setP n v).lmin = b.lmin := by unfold Block.setP; split <;> rfl
@[simp] theorem Block.setP_lmax (b : Block) (n : Nat) (v : Bool) : (b.setP n v).lmax = b.lmax := by unfold Block.setP; split <;> rfl
@[simp] theorem Block.setP_level (b : Block) (n : Nat) (v : Bool) : (b.setP n v).level = b.level := by unfold Block.setP; split <;> rfl
@[simp] theorem Block.setP_pc (b : Block) (n : Nat) (v : Bool) : (b.setP n v).pc = b.pc := by unfold Block.setP; split <;> rfl
@[simp] theorem Block.setP_estart (b : Block) (n : Nat) (v : Bool) : (b.setP n v).estart = b.estart := by unfold Block.setP; split <;> rfl
@[simp] theorem Block.setP_x (b : Block) (n : Nat) (v : Bool) : (b.setP n v).x = b.x := by unfold Block.setP; split <;> rfl
@[simp] theorem Block.setP_v (b : Block) (n : Nat) (v : Bool) : (b.setP n v).v = b.v := by unfold Block.setP; split <;> rfl
@[simp] theorem Block.setP_vprog (b : Block) (n : Nat) (v : Bool) : (b.setP n v).vprog = b.vprog := by unfold Block.setP; split <;> rfl
@[simp] theorem Block.setP_m (b : Block) (n : Nat) (v : Bool) : (b.setP n v).m = b.m := by unfold Block.setP; split <;> rfl
@[simp] theorem Block.setP_d (b : Block) (n : Nat) (v : Bool) : (b.setP n v).d = b.d := by unfold Block.setP; split <;> rfl
@[simp] theorem Block.setP_flawX (b : Block) (n : Nat) (v : Bool) : (b.setP n v).flawX = b.flawX := by unfold Block.setP; split <;> rfl
@[simp] theorem Block.setP_flawV (b : Block) (n : Nat) (v : Bool) : (b.setP n v).flawV = b.flawV := by unfold Block.setP; split <;> rfl
@[simp] theorem Block.setP_flawM (b : Block) (n : Nat) (v : Bool) : (b.setP n v).flawM = b.flawM := by unfold Block.setP; split <;> rfl
@[simp] theorem Block.setP_ctl (b : Block) (n : Nat) (v : Bool) : (b.setP n v).ctl = b.ctl := by unfold Block.setP; split <;> rfl
@[simp] theorem Block.setP_groups (b : Block) (n : Nat) (v : Bool) : (b.setP n v).groups = b.groups := by unfold Block.setP; split <;> rfl
@[simp] theorem Block.setP_freshLanes (b : Block) (n : Nat) (v : Bool) : (b.setP n v).freshLanes = b.freshLanes := by unfold Block.setP; split <;> rfl
@[simp] theorem Block.setP_stackBase (b : Block) (n : Nat) (v : Bool) : (b.setP n v).stackBase = b.stackBase := by unfold Block.setP; split <;> rfl
@[simp] theorem Block.setP_wait (b : Block) (n : Nat) (v : Bool) : (b.setP n v).wait = b.wait := by unfold Block.setP; split <;> rfl
@[simp] theorem Block.setP_rep (b : Block) (n : Nat) (v : Bool) : (b.setP n v).rep = b.rep := by unfold Block.setP; split <;> rfl
@[simp] theorem Block.setP_wake (b : Block) (n : Nat) (v : Bool) : (b.setP n v).wake = b.wake := by unfold Block.setP; split <;> rfl
@[simp] theorem Block.setP_rel (b : Block) (n : Nat) (v : Bool) : (b.setP n v).rel = b.rel := by unfold Block.setP; split <;> rfl
@[simp] theorem Block.setP_pend (b : Block) (n : Nat) (v : Bool) : (b.setP n v).pend = b.pend := by unfold Block.setP; split <;> rfl
@[simp] theorem Block.setP_sq (b : Block) (n : Nat) (v : Bool) : (b.setP n v).sq = b.sq := by unfold Block.setP; split <;> rfl
@[simp] theorem Block.setP_unacked (b : Block) (n : Nat) (v : Bool) : (b.setP n v).unacked = b.unacked := by unfold Block.setP; split <;> rfl
@[simp] theorem Block.setP_xbuf (b : Block) (n : Nat) (v : Bool) : (b.setP n v).xbuf = b.xbuf := by unfold Block.setP; split <;> rfl
@[simp] theorem Block.setP_ebuf (b : Block) (n : Nat) (v : Bool) : (b.setP n v).ebuf = b.ebuf := by unfold Block.setP; split <;> rfl
@[simp] theorem Block.setP_peerBad (b : Block) (n : Nat) (v : Bool) : (b.setP n v).peerBad = b.peerBad := by unfold Block.setP; split <;> rfl
@[simp] theorem Block.setP_frameAns (b : Block) (n : Nat) (v : Bool) : (b.setP n v).frameAns = b.frameAns := by unfold Block.setP; split <;> rfl
@[simp] theorem Block.setP_words (b : Block) (n : Nat) (v : Bool) : (b.setP n v).words = b.words := by unfold Block.setP; split <;> rfl
@[simp] theorem Block.setP_fifo (b : Block) (n : Nat) (v : Bool) : (b.setP n v).fifo = b.fifo := by unfold Block.setP; split <;> rfl
@[simp] theorem Block.setP_sentTo (b : Block) (n : Nat) (v : Bool) : (b.setP n v).sentTo = b.sentTo := by unfold Block.setP; split <;> rfl
@[simp] theorem Block.setP_pops (b : Block) (n : Nat) (v : Bool) : (b.setP n v).pops = b.pops := by unfold Block.setP; split <;> rfl
@[simp] theorem Block.setP_pcLit (b : Block) (n : Nat) (v : Bool) : (b.setP n v).pcLit = b.pcLit := by unfold Block.setP; split <;> rfl
@[simp] theorem Block.setP_age (b : Block) (n : Nat) (v : Bool) : (b.setP n v).age = b.age := by unfold Block.setP; split <;> rfl
@[simp] theorem Block.setP_waitCnt (b : Block) (n : Nat) (v : Bool) : (b.setP n v).waitCnt = b.waitCnt := by unfold Block.setP; split <;> rfl
@[simp] theorem Block.setP_bubble (b : Block) (n : Nat) (v : Bool) : (b.setP n v).bubble = b.bubble := by unfold Block.setP; split <;> rfl
@[simp] theorem Block.setP_tnames (b : Block) (n : Nat) (v : Bool) : (b.setP n v).tnames = b.tnames := by unfold Block.setP; split <;> rfl
@[simp] theorem Block.setP_lingering (b : Block) (n : Nat) (v : Bool) : (b.setP n v).lingering = b.lingering := by unfold Block.setP; split <;> rfl
@[simp] theorem Block.setP_anames (b : Block) (n : Nat) (v : Bool) : (b.setP n v).anames = b.anames := by unfold Block.setP; split <;> rfl
@[simp] theorem Block.setP_freeing (b : Block) (n : Nat) (v : Bool) : (b.setP n v).freeing = b.freeing := by unfold Block.setP; split <;> rfl
@[simp] theorem Block.setP_trecs (b : Block) (n : Nat) (v : Bool) : (b.setP n v).trecs = b.trecs := by unfold Block.setP; split <;> rfl
@[simp] theorem Block.setP_seqNext (b : Block) (n : Nat) (v : Bool) : (b.setP n v).seqNext = b.seqNext := by unfold Block.setP; split <;> rfl
@[simp] theorem Block.setP_tokens (b : Block) (n : Nat) (v : Bool) : (b.setP n v).tokens = b.tokens := by unfold Block.setP; split <;> rfl
@[simp] theorem Block.setP_tokSeq (b : Block) (n : Nat) (v : Bool) : (b.setP n v).tokSeq = b.tokSeq := by unfold Block.setP; split <;> rfl
@[simp] theorem Block.setP_chain (b : Block) (n : Nat) (v : Bool) : (b.setP n v).chain = b.chain := by unfold Block.setP; split <;> rfl
@[simp] theorem Block.setP_consumers (b : Block) (n : Nat) (v : Bool) : (b.setP n v).consumers = b.consumers := by unfold Block.setP; split <;> rfl
@[simp] theorem Block.setP_stripPrev (b : Block) (n : Nat) (v : Bool) : (b.setP n v).stripPrev = b.stripPrev := by unfold Block.setP; split <;> rfl
@[simp] theorem Block.setP_arrivals (b : Block) (n : Nat) (v : Bool) : (b.setP n v).arrivals = b.arrivals := by unfold Block.setP; split <;> rfl
@[simp] theorem Block.setP_gsyncs (b : Block) (n : Nat) (v : Bool) : (b.setP n v).gsyncs = b.gsyncs := by unfold Block.setP; split <;> rfl
@[simp] theorem Block.setP_tsyncs (b : Block) (n : Nat) (v : Bool) : (b.setP n v).tsyncs = b.tsyncs := by unfold Block.setP; split <;> rfl
@[simp] theorem Block.setP_stop (b : Block) (n : Nat) (v : Bool) : (b.setP n v).stop = b.stop := by unfold Block.setP; split <;> rfl
@[simp] theorem Block.setP_skipBp (b : Block) (n : Nat) (v : Bool) : (b.setP n v).skipBp = b.skipBp := by unfold Block.setP; split <;> rfl
@[simp] theorem Block.setP_skipWatch (b : Block) (n : Nat) (v : Bool) : (b.setP n v).skipWatch = b.skipWatch := by unfold Block.setP; split <;> rfl
@[simp] theorem Block.setP_watched (b : Block) (n : Nat) (v : Bool) : (b.setP n v).watched = b.watched := by unfold Block.setP; split <;> rfl
@[simp] theorem Block.setP_dbgReq (b : Block) (n : Nat) (v : Bool) : (b.setP n v).dbgReq = b.dbgReq := by unfold Block.setP; split <;> rfl
@[simp] theorem Block.setP_failedWrite (b : Block) (n : Nat) (v : Bool) : (b.setP n v).failedWrite = b.failedWrite := by unfold Block.setP; split <;> rfl
@[simp] theorem Block.setP_dying (b : Block) (n : Nat) (v : Bool) : (b.setP n v).dying = b.dying := by unfold Block.setP; split <;> rfl
@[simp] theorem Block.setV_placed (b : Block) (r : BitVec 5) (v : BitVec 8192) : (b.setV r v).placed = b.placed := rfl
@[simp] theorem Block.setV_ctx (b : Block) (r : BitVec 5) (v : BitVec 8192) : (b.setV r v).ctx = b.ctx := rfl
@[simp] theorem Block.setV_launch (b : Block) (r : BitVec 5) (v : BitVec 8192) : (b.setV r v).launch = b.launch := rfl
@[simp] theorem Block.setV_gang (b : Block) (r : BitVec 5) (v : BitVec 8192) : (b.setV r v).gang = b.gang := rfl
@[simp] theorem Block.setV_gangSize (b : Block) (r : BitVec 5) (v : BitVec 8192) : (b.setV r v).gangSize = b.gangSize := rfl
@[simp] theorem Block.setV_packed (b : Block) (r : BitVec 5) (v : BitVec 8192) : (b.setV r v).packed = b.packed := rfl
@[simp] theorem Block.setV_child (b : Block) (r : BitVec 5) (v : BitVec 8192) : (b.setV r v).child = b.child := rfl
@[simp] theorem Block.setV_gx (b : Block) (r : BitVec 5) (v : BitVec 8192) : (b.setV r v).gx = b.gx := rfl
@[simp] theorem Block.setV_gy (b : Block) (r : BitVec 5) (v : BitVec 8192) : (b.setV r v).gy = b.gy := rfl
@[simp] theorem Block.setV_gz (b : Block) (r : BitVec 5) (v : BitVec 8192) : (b.setV r v).gz = b.gz := rfl
@[simp] theorem Block.setV_gangPos (b : Block) (r : BitVec 5) (v : BitVec 8192) : (b.setV r v).gangPos = b.gangPos := rfl
@[simp] theorem Block.setV_stage (b : Block) (r : BitVec 5) (v : BitVec 8192) : (b.setV r v).stage = b.stage := rfl
@[simp] theorem Block.setV_gen (b : Block) (r : BitVec 5) (v : BitVec 8192) : (b.setV r v).gen = b.gen := rfl
@[simp] theorem Block.setV_slip (b : Block) (r : BitVec 5) (v : BitVec 8192) : (b.setV r v).slip = b.slip := rfl
@[simp] theorem Block.setV_lmin (b : Block) (r : BitVec 5) (v : BitVec 8192) : (b.setV r v).lmin = b.lmin := rfl
@[simp] theorem Block.setV_lmax (b : Block) (r : BitVec 5) (v : BitVec 8192) : (b.setV r v).lmax = b.lmax := rfl
@[simp] theorem Block.setV_level (b : Block) (r : BitVec 5) (v : BitVec 8192) : (b.setV r v).level = b.level := rfl
@[simp] theorem Block.setV_pc (b : Block) (r : BitVec 5) (v : BitVec 8192) : (b.setV r v).pc = b.pc := rfl
@[simp] theorem Block.setV_estart (b : Block) (r : BitVec 5) (v : BitVec 8192) : (b.setV r v).estart = b.estart := rfl
@[simp] theorem Block.setV_x (b : Block) (r : BitVec 5) (v : BitVec 8192) : (b.setV r v).x = b.x := rfl
@[simp] theorem Block.setV_p (b : Block) (r : BitVec 5) (v : BitVec 8192) : (b.setV r v).p = b.p := rfl
@[simp] theorem Block.setV_vprog (b : Block) (r : BitVec 5) (v : BitVec 8192) : (b.setV r v).vprog = b.vprog := rfl
@[simp] theorem Block.setV_m (b : Block) (r : BitVec 5) (v : BitVec 8192) : (b.setV r v).m = b.m := rfl
@[simp] theorem Block.setV_d (b : Block) (r : BitVec 5) (v : BitVec 8192) : (b.setV r v).d = b.d := rfl
@[simp] theorem Block.setV_flawX (b : Block) (r : BitVec 5) (v : BitVec 8192) : (b.setV r v).flawX = b.flawX := rfl
@[simp] theorem Block.setV_flawV (b : Block) (r : BitVec 5) (v : BitVec 8192) : (b.setV r v).flawV = b.flawV := rfl
@[simp] theorem Block.setV_flawM (b : Block) (r : BitVec 5) (v : BitVec 8192) : (b.setV r v).flawM = b.flawM := rfl
@[simp] theorem Block.setV_ctl (b : Block) (r : BitVec 5) (v : BitVec 8192) : (b.setV r v).ctl = b.ctl := rfl
@[simp] theorem Block.setV_groups (b : Block) (r : BitVec 5) (v : BitVec 8192) : (b.setV r v).groups = b.groups := rfl
@[simp] theorem Block.setV_freshLanes (b : Block) (r : BitVec 5) (v : BitVec 8192) : (b.setV r v).freshLanes = b.freshLanes := rfl
@[simp] theorem Block.setV_stackBase (b : Block) (r : BitVec 5) (v : BitVec 8192) : (b.setV r v).stackBase = b.stackBase := rfl
@[simp] theorem Block.setV_wait (b : Block) (r : BitVec 5) (v : BitVec 8192) : (b.setV r v).wait = b.wait := rfl
@[simp] theorem Block.setV_rep (b : Block) (r : BitVec 5) (v : BitVec 8192) : (b.setV r v).rep = b.rep := rfl
@[simp] theorem Block.setV_wake (b : Block) (r : BitVec 5) (v : BitVec 8192) : (b.setV r v).wake = b.wake := rfl
@[simp] theorem Block.setV_rel (b : Block) (r : BitVec 5) (v : BitVec 8192) : (b.setV r v).rel = b.rel := rfl
@[simp] theorem Block.setV_pend (b : Block) (r : BitVec 5) (v : BitVec 8192) : (b.setV r v).pend = b.pend := rfl
@[simp] theorem Block.setV_sq (b : Block) (r : BitVec 5) (v : BitVec 8192) : (b.setV r v).sq = b.sq := rfl
@[simp] theorem Block.setV_unacked (b : Block) (r : BitVec 5) (v : BitVec 8192) : (b.setV r v).unacked = b.unacked := rfl
@[simp] theorem Block.setV_xbuf (b : Block) (r : BitVec 5) (v : BitVec 8192) : (b.setV r v).xbuf = b.xbuf := rfl
@[simp] theorem Block.setV_ebuf (b : Block) (r : BitVec 5) (v : BitVec 8192) : (b.setV r v).ebuf = b.ebuf := rfl
@[simp] theorem Block.setV_peerBad (b : Block) (r : BitVec 5) (v : BitVec 8192) : (b.setV r v).peerBad = b.peerBad := rfl
@[simp] theorem Block.setV_frameAns (b : Block) (r : BitVec 5) (v : BitVec 8192) : (b.setV r v).frameAns = b.frameAns := rfl
@[simp] theorem Block.setV_words (b : Block) (r : BitVec 5) (v : BitVec 8192) : (b.setV r v).words = b.words := rfl
@[simp] theorem Block.setV_fifo (b : Block) (r : BitVec 5) (v : BitVec 8192) : (b.setV r v).fifo = b.fifo := rfl
@[simp] theorem Block.setV_sentTo (b : Block) (r : BitVec 5) (v : BitVec 8192) : (b.setV r v).sentTo = b.sentTo := rfl
@[simp] theorem Block.setV_pops (b : Block) (r : BitVec 5) (v : BitVec 8192) : (b.setV r v).pops = b.pops := rfl
@[simp] theorem Block.setV_pcLit (b : Block) (r : BitVec 5) (v : BitVec 8192) : (b.setV r v).pcLit = b.pcLit := rfl
@[simp] theorem Block.setV_age (b : Block) (r : BitVec 5) (v : BitVec 8192) : (b.setV r v).age = b.age := rfl
@[simp] theorem Block.setV_waitCnt (b : Block) (r : BitVec 5) (v : BitVec 8192) : (b.setV r v).waitCnt = b.waitCnt := rfl
@[simp] theorem Block.setV_bubble (b : Block) (r : BitVec 5) (v : BitVec 8192) : (b.setV r v).bubble = b.bubble := rfl
@[simp] theorem Block.setV_tnames (b : Block) (r : BitVec 5) (v : BitVec 8192) : (b.setV r v).tnames = b.tnames := rfl
@[simp] theorem Block.setV_lingering (b : Block) (r : BitVec 5) (v : BitVec 8192) : (b.setV r v).lingering = b.lingering := rfl
@[simp] theorem Block.setV_anames (b : Block) (r : BitVec 5) (v : BitVec 8192) : (b.setV r v).anames = b.anames := rfl
@[simp] theorem Block.setV_freeing (b : Block) (r : BitVec 5) (v : BitVec 8192) : (b.setV r v).freeing = b.freeing := rfl
@[simp] theorem Block.setV_trecs (b : Block) (r : BitVec 5) (v : BitVec 8192) : (b.setV r v).trecs = b.trecs := rfl
@[simp] theorem Block.setV_seqNext (b : Block) (r : BitVec 5) (v : BitVec 8192) : (b.setV r v).seqNext = b.seqNext := rfl
@[simp] theorem Block.setV_tokens (b : Block) (r : BitVec 5) (v : BitVec 8192) : (b.setV r v).tokens = b.tokens := rfl
@[simp] theorem Block.setV_tokSeq (b : Block) (r : BitVec 5) (v : BitVec 8192) : (b.setV r v).tokSeq = b.tokSeq := rfl
@[simp] theorem Block.setV_chain (b : Block) (r : BitVec 5) (v : BitVec 8192) : (b.setV r v).chain = b.chain := rfl
@[simp] theorem Block.setV_consumers (b : Block) (r : BitVec 5) (v : BitVec 8192) : (b.setV r v).consumers = b.consumers := rfl
@[simp] theorem Block.setV_stripPrev (b : Block) (r : BitVec 5) (v : BitVec 8192) : (b.setV r v).stripPrev = b.stripPrev := rfl
@[simp] theorem Block.setV_arrivals (b : Block) (r : BitVec 5) (v : BitVec 8192) : (b.setV r v).arrivals = b.arrivals := rfl
@[simp] theorem Block.setV_gsyncs (b : Block) (r : BitVec 5) (v : BitVec 8192) : (b.setV r v).gsyncs = b.gsyncs := rfl
@[simp] theorem Block.setV_tsyncs (b : Block) (r : BitVec 5) (v : BitVec 8192) : (b.setV r v).tsyncs = b.tsyncs := rfl
@[simp] theorem Block.setV_stop (b : Block) (r : BitVec 5) (v : BitVec 8192) : (b.setV r v).stop = b.stop := rfl
@[simp] theorem Block.setV_skipBp (b : Block) (r : BitVec 5) (v : BitVec 8192) : (b.setV r v).skipBp = b.skipBp := rfl
@[simp] theorem Block.setV_skipWatch (b : Block) (r : BitVec 5) (v : BitVec 8192) : (b.setV r v).skipWatch = b.skipWatch := rfl
@[simp] theorem Block.setV_watched (b : Block) (r : BitVec 5) (v : BitVec 8192) : (b.setV r v).watched = b.watched := rfl
@[simp] theorem Block.setV_dbgReq (b : Block) (r : BitVec 5) (v : BitVec 8192) : (b.setV r v).dbgReq = b.dbgReq := rfl
@[simp] theorem Block.setV_failedWrite (b : Block) (r : BitVec 5) (v : BitVec 8192) : (b.setV r v).failedWrite = b.failedWrite := rfl
@[simp] theorem Block.setV_dying (b : Block) (r : BitVec 5) (v : BitVec 8192) : (b.setV r v).dying = b.dying := rfl
@[simp] theorem Block.fullV_placed (b : Block) (r : BitVec 5) : (b.fullV r).placed = b.placed := rfl
@[simp] theorem Block.fullV_ctx (b : Block) (r : BitVec 5) : (b.fullV r).ctx = b.ctx := rfl
@[simp] theorem Block.fullV_launch (b : Block) (r : BitVec 5) : (b.fullV r).launch = b.launch := rfl
@[simp] theorem Block.fullV_gang (b : Block) (r : BitVec 5) : (b.fullV r).gang = b.gang := rfl
@[simp] theorem Block.fullV_gangSize (b : Block) (r : BitVec 5) : (b.fullV r).gangSize = b.gangSize := rfl
@[simp] theorem Block.fullV_packed (b : Block) (r : BitVec 5) : (b.fullV r).packed = b.packed := rfl
@[simp] theorem Block.fullV_child (b : Block) (r : BitVec 5) : (b.fullV r).child = b.child := rfl
@[simp] theorem Block.fullV_gx (b : Block) (r : BitVec 5) : (b.fullV r).gx = b.gx := rfl
@[simp] theorem Block.fullV_gy (b : Block) (r : BitVec 5) : (b.fullV r).gy = b.gy := rfl
@[simp] theorem Block.fullV_gz (b : Block) (r : BitVec 5) : (b.fullV r).gz = b.gz := rfl
@[simp] theorem Block.fullV_gangPos (b : Block) (r : BitVec 5) : (b.fullV r).gangPos = b.gangPos := rfl
@[simp] theorem Block.fullV_stage (b : Block) (r : BitVec 5) : (b.fullV r).stage = b.stage := rfl
@[simp] theorem Block.fullV_gen (b : Block) (r : BitVec 5) : (b.fullV r).gen = b.gen := rfl
@[simp] theorem Block.fullV_slip (b : Block) (r : BitVec 5) : (b.fullV r).slip = b.slip := rfl
@[simp] theorem Block.fullV_lmin (b : Block) (r : BitVec 5) : (b.fullV r).lmin = b.lmin := rfl
@[simp] theorem Block.fullV_lmax (b : Block) (r : BitVec 5) : (b.fullV r).lmax = b.lmax := rfl
@[simp] theorem Block.fullV_level (b : Block) (r : BitVec 5) : (b.fullV r).level = b.level := rfl
@[simp] theorem Block.fullV_pc (b : Block) (r : BitVec 5) : (b.fullV r).pc = b.pc := rfl
@[simp] theorem Block.fullV_estart (b : Block) (r : BitVec 5) : (b.fullV r).estart = b.estart := rfl
@[simp] theorem Block.fullV_x (b : Block) (r : BitVec 5) : (b.fullV r).x = b.x := rfl
@[simp] theorem Block.fullV_p (b : Block) (r : BitVec 5) : (b.fullV r).p = b.p := rfl
@[simp] theorem Block.fullV_v (b : Block) (r : BitVec 5) : (b.fullV r).v = b.v := rfl
@[simp] theorem Block.fullV_m (b : Block) (r : BitVec 5) : (b.fullV r).m = b.m := rfl
@[simp] theorem Block.fullV_d (b : Block) (r : BitVec 5) : (b.fullV r).d = b.d := rfl
@[simp] theorem Block.fullV_flawX (b : Block) (r : BitVec 5) : (b.fullV r).flawX = b.flawX := rfl
@[simp] theorem Block.fullV_flawV (b : Block) (r : BitVec 5) : (b.fullV r).flawV = b.flawV := rfl
@[simp] theorem Block.fullV_flawM (b : Block) (r : BitVec 5) : (b.fullV r).flawM = b.flawM := rfl
@[simp] theorem Block.fullV_ctl (b : Block) (r : BitVec 5) : (b.fullV r).ctl = b.ctl := rfl
@[simp] theorem Block.fullV_groups (b : Block) (r : BitVec 5) : (b.fullV r).groups = b.groups := rfl
@[simp] theorem Block.fullV_freshLanes (b : Block) (r : BitVec 5) : (b.fullV r).freshLanes = b.freshLanes := rfl
@[simp] theorem Block.fullV_stackBase (b : Block) (r : BitVec 5) : (b.fullV r).stackBase = b.stackBase := rfl
@[simp] theorem Block.fullV_wait (b : Block) (r : BitVec 5) : (b.fullV r).wait = b.wait := rfl
@[simp] theorem Block.fullV_rep (b : Block) (r : BitVec 5) : (b.fullV r).rep = b.rep := rfl
@[simp] theorem Block.fullV_wake (b : Block) (r : BitVec 5) : (b.fullV r).wake = b.wake := rfl
@[simp] theorem Block.fullV_rel (b : Block) (r : BitVec 5) : (b.fullV r).rel = b.rel := rfl
@[simp] theorem Block.fullV_pend (b : Block) (r : BitVec 5) : (b.fullV r).pend = b.pend := rfl
@[simp] theorem Block.fullV_sq (b : Block) (r : BitVec 5) : (b.fullV r).sq = b.sq := rfl
@[simp] theorem Block.fullV_unacked (b : Block) (r : BitVec 5) : (b.fullV r).unacked = b.unacked := rfl
@[simp] theorem Block.fullV_xbuf (b : Block) (r : BitVec 5) : (b.fullV r).xbuf = b.xbuf := rfl
@[simp] theorem Block.fullV_ebuf (b : Block) (r : BitVec 5) : (b.fullV r).ebuf = b.ebuf := rfl
@[simp] theorem Block.fullV_peerBad (b : Block) (r : BitVec 5) : (b.fullV r).peerBad = b.peerBad := rfl
@[simp] theorem Block.fullV_frameAns (b : Block) (r : BitVec 5) : (b.fullV r).frameAns = b.frameAns := rfl
@[simp] theorem Block.fullV_words (b : Block) (r : BitVec 5) : (b.fullV r).words = b.words := rfl
@[simp] theorem Block.fullV_fifo (b : Block) (r : BitVec 5) : (b.fullV r).fifo = b.fifo := rfl
@[simp] theorem Block.fullV_sentTo (b : Block) (r : BitVec 5) : (b.fullV r).sentTo = b.sentTo := rfl
@[simp] theorem Block.fullV_pops (b : Block) (r : BitVec 5) : (b.fullV r).pops = b.pops := rfl
@[simp] theorem Block.fullV_pcLit (b : Block) (r : BitVec 5) : (b.fullV r).pcLit = b.pcLit := rfl
@[simp] theorem Block.fullV_age (b : Block) (r : BitVec 5) : (b.fullV r).age = b.age := rfl
@[simp] theorem Block.fullV_waitCnt (b : Block) (r : BitVec 5) : (b.fullV r).waitCnt = b.waitCnt := rfl
@[simp] theorem Block.fullV_bubble (b : Block) (r : BitVec 5) : (b.fullV r).bubble = b.bubble := rfl
@[simp] theorem Block.fullV_tnames (b : Block) (r : BitVec 5) : (b.fullV r).tnames = b.tnames := rfl
@[simp] theorem Block.fullV_lingering (b : Block) (r : BitVec 5) : (b.fullV r).lingering = b.lingering := rfl
@[simp] theorem Block.fullV_anames (b : Block) (r : BitVec 5) : (b.fullV r).anames = b.anames := rfl
@[simp] theorem Block.fullV_freeing (b : Block) (r : BitVec 5) : (b.fullV r).freeing = b.freeing := rfl
@[simp] theorem Block.fullV_trecs (b : Block) (r : BitVec 5) : (b.fullV r).trecs = b.trecs := rfl
@[simp] theorem Block.fullV_seqNext (b : Block) (r : BitVec 5) : (b.fullV r).seqNext = b.seqNext := rfl
@[simp] theorem Block.fullV_tokens (b : Block) (r : BitVec 5) : (b.fullV r).tokens = b.tokens := rfl
@[simp] theorem Block.fullV_tokSeq (b : Block) (r : BitVec 5) : (b.fullV r).tokSeq = b.tokSeq := rfl
@[simp] theorem Block.fullV_chain (b : Block) (r : BitVec 5) : (b.fullV r).chain = b.chain := rfl
@[simp] theorem Block.fullV_consumers (b : Block) (r : BitVec 5) : (b.fullV r).consumers = b.consumers := rfl
@[simp] theorem Block.fullV_stripPrev (b : Block) (r : BitVec 5) : (b.fullV r).stripPrev = b.stripPrev := rfl
@[simp] theorem Block.fullV_arrivals (b : Block) (r : BitVec 5) : (b.fullV r).arrivals = b.arrivals := rfl
@[simp] theorem Block.fullV_gsyncs (b : Block) (r : BitVec 5) : (b.fullV r).gsyncs = b.gsyncs := rfl
@[simp] theorem Block.fullV_tsyncs (b : Block) (r : BitVec 5) : (b.fullV r).tsyncs = b.tsyncs := rfl
@[simp] theorem Block.fullV_stop (b : Block) (r : BitVec 5) : (b.fullV r).stop = b.stop := rfl
@[simp] theorem Block.fullV_skipBp (b : Block) (r : BitVec 5) : (b.fullV r).skipBp = b.skipBp := rfl
@[simp] theorem Block.fullV_skipWatch (b : Block) (r : BitVec 5) : (b.fullV r).skipWatch = b.skipWatch := rfl
@[simp] theorem Block.fullV_watched (b : Block) (r : BitVec 5) : (b.fullV r).watched = b.watched := rfl
@[simp] theorem Block.fullV_dbgReq (b : Block) (r : BitVec 5) : (b.fullV r).dbgReq = b.dbgReq := rfl
@[simp] theorem Block.fullV_failedWrite (b : Block) (r : BitVec 5) : (b.fullV r).failedWrite = b.failedWrite := rfl
@[simp] theorem Block.fullV_dying (b : Block) (r : BitVec 5) : (b.fullV r).dying = b.dying := rfl
@[simp] theorem Block.setM_placed (b : Block) (n : Nat) (v : BitVec 1024) : (b.setM n v).placed = b.placed := rfl
@[simp] theorem Block.setM_ctx (b : Block) (n : Nat) (v : BitVec 1024) : (b.setM n v).ctx = b.ctx := rfl
@[simp] theorem Block.setM_launch (b : Block) (n : Nat) (v : BitVec 1024) : (b.setM n v).launch = b.launch := rfl
@[simp] theorem Block.setM_gang (b : Block) (n : Nat) (v : BitVec 1024) : (b.setM n v).gang = b.gang := rfl
@[simp] theorem Block.setM_gangSize (b : Block) (n : Nat) (v : BitVec 1024) : (b.setM n v).gangSize = b.gangSize := rfl
@[simp] theorem Block.setM_packed (b : Block) (n : Nat) (v : BitVec 1024) : (b.setM n v).packed = b.packed := rfl
@[simp] theorem Block.setM_child (b : Block) (n : Nat) (v : BitVec 1024) : (b.setM n v).child = b.child := rfl
@[simp] theorem Block.setM_gx (b : Block) (n : Nat) (v : BitVec 1024) : (b.setM n v).gx = b.gx := rfl
@[simp] theorem Block.setM_gy (b : Block) (n : Nat) (v : BitVec 1024) : (b.setM n v).gy = b.gy := rfl
@[simp] theorem Block.setM_gz (b : Block) (n : Nat) (v : BitVec 1024) : (b.setM n v).gz = b.gz := rfl
@[simp] theorem Block.setM_gangPos (b : Block) (n : Nat) (v : BitVec 1024) : (b.setM n v).gangPos = b.gangPos := rfl
@[simp] theorem Block.setM_stage (b : Block) (n : Nat) (v : BitVec 1024) : (b.setM n v).stage = b.stage := rfl
@[simp] theorem Block.setM_gen (b : Block) (n : Nat) (v : BitVec 1024) : (b.setM n v).gen = b.gen := rfl
@[simp] theorem Block.setM_slip (b : Block) (n : Nat) (v : BitVec 1024) : (b.setM n v).slip = b.slip := rfl
@[simp] theorem Block.setM_lmin (b : Block) (n : Nat) (v : BitVec 1024) : (b.setM n v).lmin = b.lmin := rfl
@[simp] theorem Block.setM_lmax (b : Block) (n : Nat) (v : BitVec 1024) : (b.setM n v).lmax = b.lmax := rfl
@[simp] theorem Block.setM_level (b : Block) (n : Nat) (v : BitVec 1024) : (b.setM n v).level = b.level := rfl
@[simp] theorem Block.setM_pc (b : Block) (n : Nat) (v : BitVec 1024) : (b.setM n v).pc = b.pc := rfl
@[simp] theorem Block.setM_estart (b : Block) (n : Nat) (v : BitVec 1024) : (b.setM n v).estart = b.estart := rfl
@[simp] theorem Block.setM_x (b : Block) (n : Nat) (v : BitVec 1024) : (b.setM n v).x = b.x := rfl
@[simp] theorem Block.setM_p (b : Block) (n : Nat) (v : BitVec 1024) : (b.setM n v).p = b.p := rfl
@[simp] theorem Block.setM_v (b : Block) (n : Nat) (v : BitVec 1024) : (b.setM n v).v = b.v := rfl
@[simp] theorem Block.setM_vprog (b : Block) (n : Nat) (v : BitVec 1024) : (b.setM n v).vprog = b.vprog := rfl
@[simp] theorem Block.setM_d (b : Block) (n : Nat) (v : BitVec 1024) : (b.setM n v).d = b.d := rfl
@[simp] theorem Block.setM_flawX (b : Block) (n : Nat) (v : BitVec 1024) : (b.setM n v).flawX = b.flawX := rfl
@[simp] theorem Block.setM_flawV (b : Block) (n : Nat) (v : BitVec 1024) : (b.setM n v).flawV = b.flawV := rfl
@[simp] theorem Block.setM_flawM (b : Block) (n : Nat) (v : BitVec 1024) : (b.setM n v).flawM = b.flawM := rfl
@[simp] theorem Block.setM_ctl (b : Block) (n : Nat) (v : BitVec 1024) : (b.setM n v).ctl = b.ctl := rfl
@[simp] theorem Block.setM_groups (b : Block) (n : Nat) (v : BitVec 1024) : (b.setM n v).groups = b.groups := rfl
@[simp] theorem Block.setM_freshLanes (b : Block) (n : Nat) (v : BitVec 1024) : (b.setM n v).freshLanes = b.freshLanes := rfl
@[simp] theorem Block.setM_stackBase (b : Block) (n : Nat) (v : BitVec 1024) : (b.setM n v).stackBase = b.stackBase := rfl
@[simp] theorem Block.setM_wait (b : Block) (n : Nat) (v : BitVec 1024) : (b.setM n v).wait = b.wait := rfl
@[simp] theorem Block.setM_rep (b : Block) (n : Nat) (v : BitVec 1024) : (b.setM n v).rep = b.rep := rfl
@[simp] theorem Block.setM_wake (b : Block) (n : Nat) (v : BitVec 1024) : (b.setM n v).wake = b.wake := rfl
@[simp] theorem Block.setM_rel (b : Block) (n : Nat) (v : BitVec 1024) : (b.setM n v).rel = b.rel := rfl
@[simp] theorem Block.setM_pend (b : Block) (n : Nat) (v : BitVec 1024) : (b.setM n v).pend = b.pend := rfl
@[simp] theorem Block.setM_sq (b : Block) (n : Nat) (v : BitVec 1024) : (b.setM n v).sq = b.sq := rfl
@[simp] theorem Block.setM_unacked (b : Block) (n : Nat) (v : BitVec 1024) : (b.setM n v).unacked = b.unacked := rfl
@[simp] theorem Block.setM_xbuf (b : Block) (n : Nat) (v : BitVec 1024) : (b.setM n v).xbuf = b.xbuf := rfl
@[simp] theorem Block.setM_ebuf (b : Block) (n : Nat) (v : BitVec 1024) : (b.setM n v).ebuf = b.ebuf := rfl
@[simp] theorem Block.setM_peerBad (b : Block) (n : Nat) (v : BitVec 1024) : (b.setM n v).peerBad = b.peerBad := rfl
@[simp] theorem Block.setM_frameAns (b : Block) (n : Nat) (v : BitVec 1024) : (b.setM n v).frameAns = b.frameAns := rfl
@[simp] theorem Block.setM_words (b : Block) (n : Nat) (v : BitVec 1024) : (b.setM n v).words = b.words := rfl
@[simp] theorem Block.setM_fifo (b : Block) (n : Nat) (v : BitVec 1024) : (b.setM n v).fifo = b.fifo := rfl
@[simp] theorem Block.setM_sentTo (b : Block) (n : Nat) (v : BitVec 1024) : (b.setM n v).sentTo = b.sentTo := rfl
@[simp] theorem Block.setM_pops (b : Block) (n : Nat) (v : BitVec 1024) : (b.setM n v).pops = b.pops := rfl
@[simp] theorem Block.setM_pcLit (b : Block) (n : Nat) (v : BitVec 1024) : (b.setM n v).pcLit = b.pcLit := rfl
@[simp] theorem Block.setM_age (b : Block) (n : Nat) (v : BitVec 1024) : (b.setM n v).age = b.age := rfl
@[simp] theorem Block.setM_waitCnt (b : Block) (n : Nat) (v : BitVec 1024) : (b.setM n v).waitCnt = b.waitCnt := rfl
@[simp] theorem Block.setM_bubble (b : Block) (n : Nat) (v : BitVec 1024) : (b.setM n v).bubble = b.bubble := rfl
@[simp] theorem Block.setM_tnames (b : Block) (n : Nat) (v : BitVec 1024) : (b.setM n v).tnames = b.tnames := rfl
@[simp] theorem Block.setM_lingering (b : Block) (n : Nat) (v : BitVec 1024) : (b.setM n v).lingering = b.lingering := rfl
@[simp] theorem Block.setM_anames (b : Block) (n : Nat) (v : BitVec 1024) : (b.setM n v).anames = b.anames := rfl
@[simp] theorem Block.setM_freeing (b : Block) (n : Nat) (v : BitVec 1024) : (b.setM n v).freeing = b.freeing := rfl
@[simp] theorem Block.setM_trecs (b : Block) (n : Nat) (v : BitVec 1024) : (b.setM n v).trecs = b.trecs := rfl
@[simp] theorem Block.setM_seqNext (b : Block) (n : Nat) (v : BitVec 1024) : (b.setM n v).seqNext = b.seqNext := rfl
@[simp] theorem Block.setM_tokens (b : Block) (n : Nat) (v : BitVec 1024) : (b.setM n v).tokens = b.tokens := rfl
@[simp] theorem Block.setM_tokSeq (b : Block) (n : Nat) (v : BitVec 1024) : (b.setM n v).tokSeq = b.tokSeq := rfl
@[simp] theorem Block.setM_chain (b : Block) (n : Nat) (v : BitVec 1024) : (b.setM n v).chain = b.chain := rfl
@[simp] theorem Block.setM_consumers (b : Block) (n : Nat) (v : BitVec 1024) : (b.setM n v).consumers = b.consumers := rfl
@[simp] theorem Block.setM_stripPrev (b : Block) (n : Nat) (v : BitVec 1024) : (b.setM n v).stripPrev = b.stripPrev := rfl
@[simp] theorem Block.setM_arrivals (b : Block) (n : Nat) (v : BitVec 1024) : (b.setM n v).arrivals = b.arrivals := rfl
@[simp] theorem Block.setM_gsyncs (b : Block) (n : Nat) (v : BitVec 1024) : (b.setM n v).gsyncs = b.gsyncs := rfl
@[simp] theorem Block.setM_tsyncs (b : Block) (n : Nat) (v : BitVec 1024) : (b.setM n v).tsyncs = b.tsyncs := rfl
@[simp] theorem Block.setM_stop (b : Block) (n : Nat) (v : BitVec 1024) : (b.setM n v).stop = b.stop := rfl
@[simp] theorem Block.setM_skipBp (b : Block) (n : Nat) (v : BitVec 1024) : (b.setM n v).skipBp = b.skipBp := rfl
@[simp] theorem Block.setM_skipWatch (b : Block) (n : Nat) (v : BitVec 1024) : (b.setM n v).skipWatch = b.skipWatch := rfl
@[simp] theorem Block.setM_watched (b : Block) (n : Nat) (v : BitVec 1024) : (b.setM n v).watched = b.watched := rfl
@[simp] theorem Block.setM_dbgReq (b : Block) (n : Nat) (v : BitVec 1024) : (b.setM n v).dbgReq = b.dbgReq := rfl
@[simp] theorem Block.setM_failedWrite (b : Block) (n : Nat) (v : BitVec 1024) : (b.setM n v).failedWrite = b.failedWrite := rfl
@[simp] theorem Block.setM_dying (b : Block) (n : Nat) (v : BitVec 1024) : (b.setM n v).dying = b.dying := rfl
@[simp] theorem Block.setD_placed (b : Block) (n : Nat) (v : BitVec 128) : (b.setD n v).placed = b.placed := rfl
@[simp] theorem Block.setD_ctx (b : Block) (n : Nat) (v : BitVec 128) : (b.setD n v).ctx = b.ctx := rfl
@[simp] theorem Block.setD_launch (b : Block) (n : Nat) (v : BitVec 128) : (b.setD n v).launch = b.launch := rfl
@[simp] theorem Block.setD_gang (b : Block) (n : Nat) (v : BitVec 128) : (b.setD n v).gang = b.gang := rfl
@[simp] theorem Block.setD_gangSize (b : Block) (n : Nat) (v : BitVec 128) : (b.setD n v).gangSize = b.gangSize := rfl
@[simp] theorem Block.setD_packed (b : Block) (n : Nat) (v : BitVec 128) : (b.setD n v).packed = b.packed := rfl
@[simp] theorem Block.setD_child (b : Block) (n : Nat) (v : BitVec 128) : (b.setD n v).child = b.child := rfl
@[simp] theorem Block.setD_gx (b : Block) (n : Nat) (v : BitVec 128) : (b.setD n v).gx = b.gx := rfl
@[simp] theorem Block.setD_gy (b : Block) (n : Nat) (v : BitVec 128) : (b.setD n v).gy = b.gy := rfl
@[simp] theorem Block.setD_gz (b : Block) (n : Nat) (v : BitVec 128) : (b.setD n v).gz = b.gz := rfl
@[simp] theorem Block.setD_gangPos (b : Block) (n : Nat) (v : BitVec 128) : (b.setD n v).gangPos = b.gangPos := rfl
@[simp] theorem Block.setD_stage (b : Block) (n : Nat) (v : BitVec 128) : (b.setD n v).stage = b.stage := rfl
@[simp] theorem Block.setD_gen (b : Block) (n : Nat) (v : BitVec 128) : (b.setD n v).gen = b.gen := rfl
@[simp] theorem Block.setD_slip (b : Block) (n : Nat) (v : BitVec 128) : (b.setD n v).slip = b.slip := rfl
@[simp] theorem Block.setD_lmin (b : Block) (n : Nat) (v : BitVec 128) : (b.setD n v).lmin = b.lmin := rfl
@[simp] theorem Block.setD_lmax (b : Block) (n : Nat) (v : BitVec 128) : (b.setD n v).lmax = b.lmax := rfl
@[simp] theorem Block.setD_level (b : Block) (n : Nat) (v : BitVec 128) : (b.setD n v).level = b.level := rfl
@[simp] theorem Block.setD_pc (b : Block) (n : Nat) (v : BitVec 128) : (b.setD n v).pc = b.pc := rfl
@[simp] theorem Block.setD_estart (b : Block) (n : Nat) (v : BitVec 128) : (b.setD n v).estart = b.estart := rfl
@[simp] theorem Block.setD_x (b : Block) (n : Nat) (v : BitVec 128) : (b.setD n v).x = b.x := rfl
@[simp] theorem Block.setD_p (b : Block) (n : Nat) (v : BitVec 128) : (b.setD n v).p = b.p := rfl
@[simp] theorem Block.setD_v (b : Block) (n : Nat) (v : BitVec 128) : (b.setD n v).v = b.v := rfl
@[simp] theorem Block.setD_vprog (b : Block) (n : Nat) (v : BitVec 128) : (b.setD n v).vprog = b.vprog := rfl
@[simp] theorem Block.setD_m (b : Block) (n : Nat) (v : BitVec 128) : (b.setD n v).m = b.m := rfl
@[simp] theorem Block.setD_flawX (b : Block) (n : Nat) (v : BitVec 128) : (b.setD n v).flawX = b.flawX := rfl
@[simp] theorem Block.setD_flawV (b : Block) (n : Nat) (v : BitVec 128) : (b.setD n v).flawV = b.flawV := rfl
@[simp] theorem Block.setD_flawM (b : Block) (n : Nat) (v : BitVec 128) : (b.setD n v).flawM = b.flawM := rfl
@[simp] theorem Block.setD_ctl (b : Block) (n : Nat) (v : BitVec 128) : (b.setD n v).ctl = b.ctl := rfl
@[simp] theorem Block.setD_groups (b : Block) (n : Nat) (v : BitVec 128) : (b.setD n v).groups = b.groups := rfl
@[simp] theorem Block.setD_freshLanes (b : Block) (n : Nat) (v : BitVec 128) : (b.setD n v).freshLanes = b.freshLanes := rfl
@[simp] theorem Block.setD_stackBase (b : Block) (n : Nat) (v : BitVec 128) : (b.setD n v).stackBase = b.stackBase := rfl
@[simp] theorem Block.setD_wait (b : Block) (n : Nat) (v : BitVec 128) : (b.setD n v).wait = b.wait := rfl
@[simp] theorem Block.setD_rep (b : Block) (n : Nat) (v : BitVec 128) : (b.setD n v).rep = b.rep := rfl
@[simp] theorem Block.setD_wake (b : Block) (n : Nat) (v : BitVec 128) : (b.setD n v).wake = b.wake := rfl
@[simp] theorem Block.setD_rel (b : Block) (n : Nat) (v : BitVec 128) : (b.setD n v).rel = b.rel := rfl
@[simp] theorem Block.setD_pend (b : Block) (n : Nat) (v : BitVec 128) : (b.setD n v).pend = b.pend := rfl
@[simp] theorem Block.setD_sq (b : Block) (n : Nat) (v : BitVec 128) : (b.setD n v).sq = b.sq := rfl
@[simp] theorem Block.setD_unacked (b : Block) (n : Nat) (v : BitVec 128) : (b.setD n v).unacked = b.unacked := rfl
@[simp] theorem Block.setD_xbuf (b : Block) (n : Nat) (v : BitVec 128) : (b.setD n v).xbuf = b.xbuf := rfl
@[simp] theorem Block.setD_ebuf (b : Block) (n : Nat) (v : BitVec 128) : (b.setD n v).ebuf = b.ebuf := rfl
@[simp] theorem Block.setD_peerBad (b : Block) (n : Nat) (v : BitVec 128) : (b.setD n v).peerBad = b.peerBad := rfl
@[simp] theorem Block.setD_frameAns (b : Block) (n : Nat) (v : BitVec 128) : (b.setD n v).frameAns = b.frameAns := rfl
@[simp] theorem Block.setD_words (b : Block) (n : Nat) (v : BitVec 128) : (b.setD n v).words = b.words := rfl
@[simp] theorem Block.setD_fifo (b : Block) (n : Nat) (v : BitVec 128) : (b.setD n v).fifo = b.fifo := rfl
@[simp] theorem Block.setD_sentTo (b : Block) (n : Nat) (v : BitVec 128) : (b.setD n v).sentTo = b.sentTo := rfl
@[simp] theorem Block.setD_pops (b : Block) (n : Nat) (v : BitVec 128) : (b.setD n v).pops = b.pops := rfl
@[simp] theorem Block.setD_pcLit (b : Block) (n : Nat) (v : BitVec 128) : (b.setD n v).pcLit = b.pcLit := rfl
@[simp] theorem Block.setD_age (b : Block) (n : Nat) (v : BitVec 128) : (b.setD n v).age = b.age := rfl
@[simp] theorem Block.setD_waitCnt (b : Block) (n : Nat) (v : BitVec 128) : (b.setD n v).waitCnt = b.waitCnt := rfl
@[simp] theorem Block.setD_bubble (b : Block) (n : Nat) (v : BitVec 128) : (b.setD n v).bubble = b.bubble := rfl
@[simp] theorem Block.setD_tnames (b : Block) (n : Nat) (v : BitVec 128) : (b.setD n v).tnames = b.tnames := rfl
@[simp] theorem Block.setD_lingering (b : Block) (n : Nat) (v : BitVec 128) : (b.setD n v).lingering = b.lingering := rfl
@[simp] theorem Block.setD_anames (b : Block) (n : Nat) (v : BitVec 128) : (b.setD n v).anames = b.anames := rfl
@[simp] theorem Block.setD_freeing (b : Block) (n : Nat) (v : BitVec 128) : (b.setD n v).freeing = b.freeing := rfl
@[simp] theorem Block.setD_trecs (b : Block) (n : Nat) (v : BitVec 128) : (b.setD n v).trecs = b.trecs := rfl
@[simp] theorem Block.setD_seqNext (b : Block) (n : Nat) (v : BitVec 128) : (b.setD n v).seqNext = b.seqNext := rfl
@[simp] theorem Block.setD_tokens (b : Block) (n : Nat) (v : BitVec 128) : (b.setD n v).tokens = b.tokens := rfl
@[simp] theorem Block.setD_tokSeq (b : Block) (n : Nat) (v : BitVec 128) : (b.setD n v).tokSeq = b.tokSeq := rfl
@[simp] theorem Block.setD_chain (b : Block) (n : Nat) (v : BitVec 128) : (b.setD n v).chain = b.chain := rfl
@[simp] theorem Block.setD_consumers (b : Block) (n : Nat) (v : BitVec 128) : (b.setD n v).consumers = b.consumers := rfl
@[simp] theorem Block.setD_stripPrev (b : Block) (n : Nat) (v : BitVec 128) : (b.setD n v).stripPrev = b.stripPrev := rfl
@[simp] theorem Block.setD_arrivals (b : Block) (n : Nat) (v : BitVec 128) : (b.setD n v).arrivals = b.arrivals := rfl
@[simp] theorem Block.setD_gsyncs (b : Block) (n : Nat) (v : BitVec 128) : (b.setD n v).gsyncs = b.gsyncs := rfl
@[simp] theorem Block.setD_tsyncs (b : Block) (n : Nat) (v : BitVec 128) : (b.setD n v).tsyncs = b.tsyncs := rfl
@[simp] theorem Block.setD_stop (b : Block) (n : Nat) (v : BitVec 128) : (b.setD n v).stop = b.stop := rfl
@[simp] theorem Block.setD_skipBp (b : Block) (n : Nat) (v : BitVec 128) : (b.setD n v).skipBp = b.skipBp := rfl
@[simp] theorem Block.setD_skipWatch (b : Block) (n : Nat) (v : BitVec 128) : (b.setD n v).skipWatch = b.skipWatch := rfl
@[simp] theorem Block.setD_watched (b : Block) (n : Nat) (v : BitVec 128) : (b.setD n v).watched = b.watched := rfl
@[simp] theorem Block.setD_dbgReq (b : Block) (n : Nat) (v : BitVec 128) : (b.setD n v).dbgReq = b.dbgReq := rfl
@[simp] theorem Block.setD_failedWrite (b : Block) (n : Nat) (v : BitVec 128) : (b.setD n v).failedWrite = b.failedWrite := rfl
@[simp] theorem Block.setD_dying (b : Block) (n : Nat) (v : BitVec 128) : (b.setD n v).dying = b.dying := rfl

/-! ## Registers (R286) -/

@[simp] theorem Block.getX_zero (b : Block) : b.getX 0 = 0 := by simp [Block.getX]
@[simp] theorem Block.setX_zero (b : Block) (v : Word) : b.setX 0 v = b := by simp [Block.setX]
theorem Block.setX_x (b : Block) {r : BitVec 6} (v : Word) (h : r ≠ 0) : (b.setX r v).x = b.x.set r.toNat v r.isLt := by
  unfold Block.setX; rw [if_neg h]
theorem Block.getX_setX_same (b : Block) {r : BitVec 6} (v : Word) (h : r ≠ 0) : (b.setX r v).getX r = v := by
  unfold Block.getX; rw [if_neg h]; simp [Block.setX_x b v h]
theorem Block.getX_setX_ne (b : Block) {r q : BitVec 6} (v : Word) (h : r ≠ q) : (b.setX r v).getX q = b.getX q := by
  have hn : r.toNat ≠ q.toNat := fun e => h (BitVec.eq_of_toNat_eq e)
  by_cases hr : r = 0
  · subst hr; rw [Block.setX_zero]
  · unfold Block.getX; simp [Block.setX_x b v hr, hn]
@[simp] theorem Block.getP_seven (b : Block) : b.getP 7 = true := by simp [Block.getP]
@[simp] theorem Block.setP_seven (b : Block) (v : Bool) : b.setP 7 v = b := by simp [Block.setP]
@[simp] theorem Block.getV_setV_same (b : Block) (r : BitVec 5) (v : BitVec 8192) : (b.setV r v).getV r = v := by
  simp [Block.getV, Block.setV]
theorem Block.getV_setV_ne (b : Block) {r q : BitVec 5} (v : BitVec 8192) (h : r ≠ q) : (b.setV r v).getV q = b.getV q := by
  have hn : r.toNat ≠ q.toNat := fun e => h (BitVec.eq_of_toNat_eq e)
  simp [Block.getV, Block.setV, Vector.getElem_set_ne _ _ hn]
theorem Block.setX_flawX (b : Block) {r : BitVec 6} (v : Word) (h : r ≠ 0) : (b.setX r v).flawX = b.flawX &&& ~~~(1#64 <<< r.toNat) := by
  unfold Block.setX; rw [if_neg h]

end Sys2Proof.Machine
end

