-- ==== Sys2Proof/Laws/Memory.lean ====
section
/-! SUPPORT. Memory as a canonical list: every operation keeps its form, a read after a write gives the byte written, and a write leaves
every other byte alone; the same of the bytes at their homes. -/

namespace Sys2Proof.Machine

/-! ## The canonical list -/

theorem memWfFrom_mono {m : Memory} {lo lo' : Nat} (h : lo' ≤ lo) (hm : memWfFrom lo m = true) : memWfFrom lo' m = true := by
  cases m with
  | nil => rfl
  | cons x t =>
    obtain ⟨k, c⟩ := x
    simp only [memWfFrom, Bool.and_eq_true, decide_eq_true_eq] at hm ⊢
    exact ⟨⟨Nat.le_trans h hm.1.1, hm.1.2⟩, hm.2⟩

theorem memSet_wfFrom {m : Memory} {lo a : Nat} (b : Byte) (ha : lo ≤ a) (hm : memWfFrom lo m = true) :
    memWfFrom lo (memSet m a b) = true := by
  induction m generalizing lo with
  | nil => by_cases hb : b = Config.unwrittenByte <;> simp [memSet, hb, memWfFrom, ha]
  | cons x t ih =>
    obtain ⟨k, c⟩ := x
    simp only [memWfFrom, Bool.and_eq_true, decide_eq_true_eq, bne_iff_ne] at hm
    obtain ⟨⟨hk, hc⟩, ht⟩ := hm
    by_cases e : a = k
    · subst e
      by_cases hb : b = Config.unwrittenByte
      · simpa [memSet, hb] using memWfFrom_mono (by omega) ht
      · simp [memSet, hb, memWfFrom, ha, ht]
    · by_cases l : a < k
      · by_cases hb : b = Config.unwrittenByte
        · simp [memSet, e, l, hb, memWfFrom, hk, hc, ht]
        · have : a + 1 ≤ k := l
          simp [memSet, e, l, hb, memWfFrom, ha, this, hc, ht]
      · have := ih (lo := k + 1) (by omega) ht
        simp [memSet, e, l, memWfFrom, hk, hc, this]

/-- A write keeps the canonical form. -/
theorem memSet_wf {m : Memory} (a : Nat) (b : Byte) (hm : Memory.wf m = true) : Memory.wf (memSet m a b) = true :=
  memSet_wfFrom b (Nat.zero_le a) hm

/-- Writes of several bytes keep it. -/
theorem memSetBytes_wf {m : Memory} (bs : List Byte) (a : Nat) (hm : Memory.wf m = true) : Memory.wf (memSetBytes m a bs) = true := by
  induction bs generalizing m a with
  | nil => exact hm
  | cons b t ih => exact ih _ (memSet_wf a b hm)

/-- So does leaving entries out. -/
theorem filter_wf {m : Memory} (p : Nat × Byte → Bool) (hm : Memory.wf m = true) : Memory.wf (m.filter p) = true := by
  suffices h : ∀ lo, memWfFrom lo m = true → memWfFrom lo (m.filter p) = true from h 0 hm
  clear hm
  induction m with
  | nil => intros; rfl
  | cons x t ih =>
    obtain ⟨k, c⟩ := x
    intro lo hm
    simp only [memWfFrom, Bool.and_eq_true, decide_eq_true_eq, bne_iff_ne] at hm
    by_cases hp : p (k, c) = true
    · simp [hp, memWfFrom, hm.1.1, hm.1.2, ih _ hm.2]
    · simpa [List.filter_cons, hp] using memWfFrom_mono (by omega) (ih _ hm.2)

theorem memGet_below {m : Memory} {lo a : Nat} (hm : memWfFrom lo m = true) (ha : a < lo) : memGet m a = Config.unwrittenByte := by
  induction m generalizing lo with
  | nil => rfl
  | cons x t ih =>
    obtain ⟨k, c⟩ := x
    simp only [memWfFrom, Bool.and_eq_true, decide_eq_true_eq] at hm
    have : a ≠ k := by omega
    simp [memGet, this, ih hm.2 (by omega)]

theorem memGet_memSet_from {m : Memory} {lo : Nat} (a : Nat) (b : Byte) (hm : memWfFrom lo m = true) (x : Nat) :
    memGet (memSet m a b) x = if x = a then b else memGet m x := by
  induction m generalizing lo with
  | nil => by_cases hb : b = Config.unwrittenByte <;> by_cases hx : x = a <;> simp [memSet, memGet, hb, hx]
  | cons y t ih =>
    obtain ⟨k, c⟩ := y
    simp only [memWfFrom, Bool.and_eq_true, decide_eq_true_eq] at hm
    by_cases e : a = k
    · subst e
      by_cases hb : b = Config.unwrittenByte <;> by_cases hx : x = a
      · subst hx; simp [memSet, hb, memGet_below hm.2]
      · simp [memSet, memGet, hb, hx]
      · simp [memSet, memGet, hb, hx]
      · simp [memSet, memGet, hb, hx]
    · by_cases l : a < k
      · by_cases hb : b = Config.unwrittenByte <;> by_cases hx : x = a
        · subst hx; subst hb; simp [memSet, memGet, l, e, memGet_below hm.2 (show x < k + 1 by omega)]
        · simp [memSet, memGet, e, l, hb, hx]
        · simp [memSet, memGet, e, l, hb, hx]
        · simp [memSet, memGet, e, l, hb, hx]
      · by_cases hx : x = k
        · subst hx; simp [memSet, memGet, e, l, Ne.symm e]
        · simp [memSet, memGet, e, l, hx, ih hm.2]

/-- A read after a write: the byte written there, every other byte as it was. -/
theorem memGet_memSet {m : Memory} (hm : Memory.wf m = true) (a : Nat) (b : Byte) (x : Nat) :
    memGet (memSet m a b) x = if x = a then b else memGet m x := memGet_memSet_from a b hm x

/-! ## Device memory and host memory together -/

/-- Both memories are in canonical form. -/
def MemSys.memOk (m : MemSys) : Prop := Memory.wf m.mem = true ∧ Memory.wf m.hostMem = true

theorem reset_memOk : State.reset.ms.memOk := ⟨rfl, rfl⟩

namespace MemSys

theorem homeSetByte_memOk {m : MemSys} (h : m.memOk) (a : Nat) (b : Byte) : (m.homeSetByte a b).memOk := by
  unfold homeSetByte
  dsimp only
  split
  · exact h
  · exact ⟨memSet_wf _ _ h.1, h.2⟩

theorem homeWriteMask_memOk {m : MemSys} (h : m.memOk) (a data mask n : Nat) : (m.homeWriteMask a data mask n).memOk := by
  induction n generalizing m a data mask with
  | zero => exact h
  | succ n ih =>
    unfold homeWriteMask
    refine ih ?_ _ _ _
    split
    · exact homeSetByte_memOk h _ _
    · exact h

theorem homeWrite_memOk {m : MemSys} (h : m.memOk) (a data n : Nat) : (m.homeWrite a data n).memOk := homeWriteMask_memOk h ..

theorem settle_memOk {m : MemSys} (h : m.memOk) (a n : Nat) : (m.settle a n).memOk := by
  induction n generalizing m a with
  | zero => exact h
  | succ n ih => exact ih (m := { m with mem := memSet m.mem a (m.homeByte a) }) ⟨memSet_wf _ _ h.1, h.2⟩ _

theorem foldl_memOk {α : Type} {f : MemSys → α → MemSys} (hf : ∀ x i, x.memOk → (f x i).memOk) (l : List α) {m : MemSys}
    (h : m.memOk) : (l.foldl f m).memOk := by
  induction l generalizing m with
  | nil => exact h
  | cons i t ih => exact ih (hf m i h)

theorem aliasWrite_memOk {m : MemSys} (h : m.memOk) (a data mask n : Nat) : (m.aliasWrite a data mask n).memOk := by
  refine foldl_memOk (fun x i hx => ?_) _ (homeWriteMask_memOk h ..)
  dsimp only
  split
  · exact hx
  · exact settle_memOk hx _ _

theorem writeBackLine_memOk {m : MemSys} (h : m.memOk) (l : SliceLine) : (m.writeBackLine l).memOk := by
  refine ⟨?_, h.2⟩
  suffices k : ∀ (bs : List (Nat × Byte)) (x : Memory), Memory.wf x = true → Memory.wf (bs.foldl (fun x e => memSet x e.1 e.2) x) = true from
    k _ _ h.1
  intro bs
  induction bs with
  | nil => exact fun _ hx => hx
  | cons e t ih => exact fun x hx => ih _ (memSet_wf _ _ hx)

theorem evictLine_memOk {m : MemSys} (h : m.memOk) (l : SliceLine) : (m.evictLine l).memOk := writeBackLine_memOk h l

theorem sliceAlloc_memOk {m : MemSys} (h : m.memOk) (scr a : Nat) : (m.sliceAlloc scr a).memOk := by
  unfold sliceAlloc
  dsimp only
  split
  · exact h
  · split
    · exact h
    · split
      · rename_i l _
        exact evictLine_memOk h l
      · exact h

theorem touch_memOk {m : MemSys} (h : m.memOk) (a : Nat) : (m.touch a).memOk := h

theorem sysWrite_memOk {m : MemSys} (h : m.memOk) (pasid : Option Nat) (pa : Nat) (bs : List Byte) : (m.sysWrite pasid pa bs).memOk := by
  induction bs generalizing m pa with
  | nil => exact h
  | cons b t ih =>
    unfold sysWrite
    refine ih ?_ _
    split
    · exact homeSetByte_memOk h _ _
    · exact ⟨memSet_wf _ _ h.1, h.2⟩
    · exact aliasWrite_memOk h _ _ _ _
    · split
      · exact ⟨h.1, memSet_wf _ _ h.2⟩
      · exact h
    · exact h

/-! ## Bytes at their homes -/

theorem sliceLine_mapIf (m : MemSys) (l : Nat) (f : SliceLine → SliceLine) (hf : ∀ x, (f x).line = x.line) (a : Nat) :
    ({ m with slice := mapIf (fun x => x.line == l) f m.slice } : MemSys).sliceLine a =
      (m.sliceLine a).map fun x => if x.line == l then f x else x := by
  unfold sliceLine
  simp only
  induction m.slice with
  | nil => rfl
  | cons x t ih =>
    unfold mapIf at ih ⊢
    simp only [List.map_cons, List.find?_cons]
    have : ((if (x.line == l) = true then f x else x).line == lineOf a) = (x.line == lineOf a) := by split <;> simp [hf]
    rw [this]
    cases h : x.line == lineOf a
    · exact ih
    · simp

/-- A write of one byte at its home: the byte there, every other byte as it was. -/
theorem homeByte_homeSetByte {m : MemSys} (h : Memory.wf m.mem = true) (a : Nat) (b : Byte) (x : Nat) :
    (m.homeSetByte a b).homeByte x = if x = a then b else m.homeByte x := by
  unfold homeSetByte
  dsimp only
  have hs : ∀ y, ({ m with bad := m.bad.filter (· != a) } : MemSys).sliceLine y = m.sliceLine y := fun _ => rfl
  rw [hs]
  cases hl : m.sliceLine a with
  | none =>
    simp only
    unfold homeByte
    have : ∀ y, ({ ({ m with bad := m.bad.filter (· != a) } : MemSys) with mem := memSet m.mem a b } : MemSys).sliceLine y = m.sliceLine y :=
      fun _ => rfl
    rw [this]
    cases hx : m.sliceLine x with
    | none => simp [memGet_memSet h]
    | some l =>
      have hne : x ≠ a := fun e => by rw [e, hl] at hx; cases hx
      simp [hne, memGet_memSet h]
  | some l =>
    simp only
    unfold homeByte
    rw [sliceLine_mapIf ({ m with bad := m.bad.filter (· != a) } : MemSys) l.line (fun x => { x with bytes := aset x.bytes a b })
      (fun _ => rfl) x, hs]
    have key : l.line = lineOf a := by simpa using List.find?_some hl
    cases hx : m.sliceLine x with
    | none =>
      have hne : x ≠ a := fun e => by rw [e, hl] at hx; cases hx
      simp [hne]
    | some k =>
      have kx : k.line = lineOf x := by simpa using List.find?_some hx
      by_cases e : x = a
      · subst e
        have : k = l := by rw [hl] at hx; exact (Option.some.inj hx).symm
        subst this
        simp
      · by_cases el : k.line = l.line
        · simp [el, e, aget_aset_ne _ _ (Ne.symm e)]
        · simp [el, e]

/-- Marking a line as used changes no byte. -/
theorem homeByte_touch (m : MemSys) (a x : Nat) : (m.touch a).homeByte x = m.homeByte x := by
  unfold homeByte touch
  have := sliceLine_mapIf m (lineOf a) (fun l => { l with use := m.useClock }) (fun _ => rfl) x
  have e : ({ m with
      slice := mapIf (fun l => l.line == lineOf a) (fun l => { l with use := m.useClock }) m.slice
      useClock := m.useClock + 1 } : MemSys).sliceLine x =
      ({ m with slice := mapIf (fun l => l.line == lineOf a) (fun l => { l with use := m.useClock }) m.slice } : MemSys).sliceLine x := rfl
  rw [e, this]
  cases m.sliceLine x with
  | none => rfl
  | some l => simp only [Option.map_some]; split <;> rfl

end MemSys

end Sys2Proof.Machine
end

