-- ==== Sys2Proof/Laws/Ops.lean ====
section
/-! SUPPORT. What the shared operations of Machine/Ops.lean do, one lemma each: the frame of a guarded instruction, its
registers, its completion, a transfer of control, and the entry into a trap handler. -/

namespace Sys2Proof.Machine

/-! ## Registers of an instruction that runs plainly -/

theorem getX_unbound {s : State} {r : BitVec 6} (h : s.blk.boundTo r = none) : s.getX r = s.blk.getX r := by
  simp [State.getX, h]

theorem writeX_unbound {s : State} {r : BitVec 6} (h : s.blk.boundTo r = none) (v : Word) :
    s.writeX r v = s.updBlk fun b => b.setX r v := by
  simp [State.writeX, h]

theorem regsReady_none {s : State} {srcs : List (BitVec 6)} (hs : ∀ r ∈ srcs, s.blk.boundTo r = none ∧ s.xPending r = false) :
    s.regsReady srcs none = true := by
  simp only [State.regsReady, Bool.and_true, List.all_eq_true]
  intro r hr
  obtain ⟨hb, hp⟩ := hs r hr
  simp [hb, hp]

theorem regsReady_some {s : State} {srcs : List (BitVec 6)} {d : BitVec 6}
    (hs : ∀ r ∈ srcs, s.blk.boundTo r = none ∧ s.xPending r = false) (hd : s.blk.boundTo d = none ∧ s.xPending d = false) :
    s.regsReady srcs (some d) = true := by
  have h := regsReady_none hs
  simp only [State.regsReady, Bool.and_true] at h ⊢
  simp [h, hd.1, hd.2]

theorem Runs.srcs {s : State} {gm : BitVec 4} {xs : List (BitVec 6)} (h : Runs s gm xs) (srcs : List (BitVec 6))
    (hs : ∀ r ∈ srcs, r ∈ xs) : ∀ r ∈ srcs, s.blk.boundTo r = none ∧ s.xPending r = false :=
  fun r hr => ⟨h.unbound r (hs r hr), h.ready r (hs r hr)⟩

/-- The queues that an instruction of unbound registers pops: none. -/
theorem beginOp_unbound {s : State} {srcs : List (BitVec 6)} (hs : ∀ r ∈ srcs, s.blk.boundTo r = none) (lit : Option Word) :
    s.beginOp srcs lit = s.opened lit := by
  have : (srcs.filter fun r => (s.blk.boundTo r).isSome) = [] := List.filter_eq_nil_iff.2 fun r m => by simp [hs r m]
  simp only [State.beginOp, State.updBlk, this, State.opened, Block.opened]
  rfl

/-- A guarded instruction that runs plainly does its body. -/
theorem guarded_runs {s : State} {gm : BitVec 4} {lit : Option Word} {xs srcs : List (BitVec 6)} {dst : Option (BitVec 6)}
    {body : State → State} (h : Runs s gm xs) (hs : ∀ r ∈ srcs, r ∈ xs) (hd : ∀ d, dst = some d → d ∈ xs) :
    guarded gm lit srcs dst body s =
      .next (body (s.opened lit)) := by
  have hr := h.srcs srcs hs
  have ready : s.regsReady srcs dst = true := by
    cases dst with
    | none => exact regsReady_none hr
    | some d => exact regsReady_some hr ⟨h.unbound d (hd d rfl), h.ready d (hd d rfl)⟩
  have sound : s.flawedX srcs = false := by
    simp only [State.flawedX, List.any_eq_false]
    intro r m
    simp [(hr r m).1, h.sound r (hs r m)]
  unfold guarded
  rw [if_pos h.guard, ready, sound, beginOp_unbound fun r m => (hr r m).1]
  simp

/-- A false guard only moves on (R297). -/
theorem guarded_off {s : State} {gm : BitVec 4} (h : s.blk.guard gm = false) (lit : Option Word) (srcs : List (BitVec 6))
    (dst : Option (BitVec 6)) (body : State → State) : guarded gm lit srcs dst body s = .next (s.advance lit) := by
  simp [guarded, h]

/-- A register that cannot serve the instruction makes the hart wait. -/
theorem guarded_waits {s : State} {gm : BitVec 4} (h : s.blk.guard gm = true) {srcs : List (BitVec 6)} {dst : Option (BitVec 6)}
    (hr : s.regsReady srcs dst = false) (lit : Option Word) (body : State → State) :
    guarded gm lit srcs dst body s = .next (s.waitFor .retry) := by
  simp [guarded, h, hr]

/-- A privileged instruction whose guard is false only moves on (R297). -/
theorem privileged_off {s : State} {gm : BitVec 4} (h : s.blk.guard gm = false) (lit : Option Word) (srcs : List (BitVec 6))
    (dst : Option (BitVec 6)) (body : State → State) : privileged gm lit srcs dst body s = .next (s.advance lit) := by
  simp [privileged, h, guarded_off]

/-- At level K a privileged instruction raises PRIV (R260). -/
theorem privileged_k {s : State} {gm : BitVec 4} (h : s.blk.guard gm = true) (hk : s.blk.level = .k) (lit : Option Word)
    (srcs : List (BitVec 6)) (dst : Option (BitVec 6)) (body : State → State) :
    privileged gm lit srcs dst body s = .next (s.raise .priv lit) := by
  simp [privileged, h, hk]

/-- At level S a privileged instruction that runs plainly does its body. -/
theorem privileged_runs {s : State} {gm : BitVec 4} {lit : Option Word} {xs srcs : List (BitVec 6)} {dst : Option (BitVec 6)}
    {body : State → State} (h : Runs s gm xs) (hl : s.blk.level = .s) (hs : ∀ r ∈ srcs, r ∈ xs) (hd : ∀ d, dst = some d → d ∈ xs) :
    privileged gm lit srcs dst body s = .next (body (s.opened lit)) := by
  have hk : (s.blk.level == .k) = false := by rw [hl]; rfl
  rw [privileged, hk, Bool.and_false, if_neg (by decide), guarded_runs h hs hd]

/-- Completion of an instruction that popped nothing, outside a repetition. -/
theorem advance_plain {s : State} (hp : s.blk.pops = []) (hr : s.blk.rep = none) (lit : Option Word) :
    s.advance lit = s.updBlk fun b => { b.moved lit with pcLit := b.pcLit } := by
  unfold State.advance State.doPops
  rw [hp, List.foldl_nil]
  simp only [State.updBlk, State.nextBlock, hr, Block.moved, sizeOf]
  cases lit <;> rfl

/-- A transfer of control by an instruction that popped nothing. -/
theorem jumpTo_plain {s : State} (hp : s.blk.pops = []) (target : Word) :
    s.jumpTo target = s.updBlk fun b =>
      { b with
        pc := target, estart := 0, sentTo := 0, words := [], xbuf := [], wait := none, rel := .none, pops := [], skipWatch := []
        skipBp := false } := by
  unfold State.jumpTo State.doPops
  rw [hp, List.foldl_nil]

/-! ## A plain instruction from its beginning to its completion -/

@[simp] theorem opened_boundTo (b : Block) (lit : Option Word) : (b.opened lit).boundTo = b.boundTo := rfl
@[simp] theorem opened_getX_blk (b : Block) (lit : Option Word) : (b.opened lit).getX = b.getX := rfl
@[simp] theorem opened_getP_blk (b : Block) (lit : Option Word) : (b.opened lit).getP = b.getP := rfl
@[simp] theorem opened_getV_blk (b : Block) (lit : Option Word) : (b.opened lit).getV = b.getV := rfl
@[simp] theorem opened_getM_blk (b : Block) (lit : Option Word) : (b.opened lit).getM = b.getM := rfl
@[simp] theorem opened_getD_blk (b : Block) (lit : Option Word) : (b.opened lit).getD = b.getD := rfl
@[simp] theorem opened_ctl (b : Block) (lit : Option Word) : (b.opened lit).ctl = b.ctl := rfl
@[simp] theorem opened_pc (b : Block) (lit : Option Word) : (b.opened lit).pc = b.pc := rfl
@[simp] theorem opened_lanes (b : Block) (lit : Option Word) : (b.opened lit).lanes = b.lanes := rfl
@[simp] theorem opened_rep (b : Block) (lit : Option Word) : (b.opened lit).rep = b.rep := rfl
@[simp] theorem opened_pops (b : Block) (lit : Option Word) : (b.opened lit).pops = [] := rfl
@[simp] theorem blk_opened (s : State) (lit : Option Word) : (s.opened lit).blk = s.blk.opened lit := by simp [State.opened]
@[simp] theorem core_opened (s : State) (lit : Option Word) (c : Nat) : (s.opened lit).core c = s.core c := rfl
@[simp] theorem myCore_opened (s : State) (lit : Option Word) : (s.opened lit).myCore = s.myCore := rfl

theorem opened_getX {s : State} {r : BitVec 6} (h : s.blk.boundTo r = none) (lit : Option Word) :
    (s.opened lit).getX r = s.blk.getX r := by
  rw [getX_unbound (by simpa using h)]; simp

theorem opened_moved (b : Block) (lit : Option Word) :
    { (b.opened lit).moved lit with pcLit := (b.opened lit).pcLit } = b.moved lit := rfl

/-- An update of the block that the completion does not undo, then the completion. -/
theorem opened_upd_advance {s : State} (f : Block → Block) (lit : Option Word)
    (hf : f (s.blk.opened lit) = (f s.blk).opened lit) (hrep : (f s.blk).rep = none) :
    ((s.opened lit).updBlk f).advance lit = s.after lit f := by
  rw [advance_plain (by simp [hf]) (by simp [hf, hrep])]
  simp only [State.opened, updBlk_setBlk, hf, State.after, opened_moved]

theorem opened_advance {s : State} (lit : Option Word) (hr : s.blk.rep = none) : (s.opened lit).advance lit = s.after lit id := by
  rw [advance_plain (by simp) (by simp [hr])]
  simp only [State.opened, updBlk_setBlk, State.after, opened_moved, id]

/-- X[d] is written and the instruction completes. -/
theorem opened_writeX_advance {s : State} {d : BitVec 6} (h : s.blk.boundTo d = none) (hr : s.blk.rep = none) (v : Word)
    (lit : Option Word) : ((s.opened lit).writeX d v).advance lit = s.after lit fun b => b.setX d v := by
  rw [writeX_unbound (by simpa using h)]
  refine opened_upd_advance _ lit ?_ (by simp [hr])
  unfold Block.setX Block.opened; split <;> rfl

/-! ## Traps (R265) -/

/-- Without tracing on the hart's core, a trap that is not escalated only enters the handler. -/
theorem takeTrap_enters {s : State} (r : FaultRec) (lit : Bool) (ht : (s.core s.myCore).trcLog2 = 0)
    (he : s.blk.escalates r.cause = false) :
    s.takeTrap r lit = s.setBlk (s.blk.enterHandler r (lit && s.blk.rep.isNone)) := by
  have hx : s.trace s.myCore 2 s.cur s.blk.pc (r.tcause (lit && s.blk.rep.isNone)) = s := by
    simp [State.trace, ht]
  unfold State.takeTrap
  simp only [hx, he]
  rfl

end Sys2Proof.Machine
end

