-- ==== Sys2Proof/Laws/PerInstr.lean ====
section
/-! SUPPORT. The encoding of each instruction, one lemma per constructor: the opcode list reads the words of a well-formed instruction as
that instruction (spec 12 R306, R308, R317). -/

namespace Sys2Proof.Laws

/-! ## Fields of a word that was put together -/

theorem field_above {n m k start : Nat} {x : BitVec n} {y : BitVec m} {v : BitVec k} (h : x.extractLsb' (start - m) k = v)
    (hs : m ≤ start) : (x ++ y).extractLsb' start k = v := by
  subst h
  apply BitVec.eq_of_getLsbD_eq
  intro i hi
  simp only [BitVec.getLsbD_extractLsb', BitVec.getLsbD_append, hi, decide_true, Bool.true_and]
  rw [if_neg (by omega)]
  congr 1
  omega

theorem field_here {n m : Nat} {x : BitVec n} {y : BitVec m} : (x ++ y).extractLsb' 0 m = y := by
  apply BitVec.eq_of_getLsbD_eq
  intro i hi
  simp [BitVec.getLsbD_append, hi]

theorem bit_ofBool (b : Bool) : (BitVec.ofBool b).getLsbD 0 = b := by cases b <;> rfl

theorem bit_above {n m k : Nat} {x : BitVec n} {y : BitVec m} {b : Bool} (h : x.getLsbD (k - m) = b) (hk : m ≤ k) :
    (x ++ y).getLsbD k = b := by
  rw [BitVec.getLsbD_append, if_neg (by omega), h]

theorem bit_here {n m k : Nat} {x : BitVec n} {y : BitVec m} {b : Bool} (h : y.getLsbD k = b) (hk : k < m) : (x ++ y).getLsbD k = b := by
  rw [BitVec.getLsbD_append, if_pos hk, h]

theorem lit_read (w : Word) (lit : Option Word) (h : wordL w = lit.isSome) :
    (if wordL w then some (lit.toList.headD 0) else none) = lit := by
  rw [h]; cases lit <;> rfl

theorem field_all {k : Nat} {x : BitVec k} : x.extractLsb' 0 k = x := by
  apply BitVec.eq_of_getLsbD_eq
  intro i hi
  simp [hi]

/-! ## The ten formats (R308) -/

theorem readA (op : BitVec 9) (f : FmtA) (w : Word) (l : List Word) (h : encA op f = w :: l) :
    wordOp w = op ∧ (if wordL w then some (l.headD 0) else none) = f.lit ∧ decA w f.lit = f := by
  unfold encA at h
  injection h with hw hl
  subst hw hl
  refine ⟨field_above (field_above (field_above (field_above (field_above (field_above (field_all) (by decide)) (by decide)) (by decide)) (by decide)) (by decide)) (by decide), ?_, ?_⟩
  · exact lit_read _ _ (bit_above (bit_above (bit_above (bit_above (bit_here (bit_ofBool _) (by decide)) (by decide)) (by decide)) (by decide)) (by decide))
  · cases f
    unfold decA
    congr 1
    · exact field_above (field_above (field_above (field_above (field_above (field_here) (by decide)) (by decide)) (by decide)) (by decide)) (by decide)
    · exact field_above (field_above (field_above (field_here) (by decide)) (by decide)) (by decide)
    · exact field_above (field_above (field_here) (by decide)) (by decide)
    · exact field_above (field_here) (by decide)
    · exact field_here

theorem readF (op : BitVec 9) (f : FmtF) (w : Word) (l : List Word) (h : encF op f = w :: l) :
    wordOp w = op ∧ (if wordL w then some (l.headD 0) else none) = f.lit ∧ decF w f.lit = f := by
  unfold encF at h
  injection h with hw hl
  subst hw hl
  refine ⟨field_above (field_above (field_above (field_above (field_above (field_above (field_above (field_all) (by decide)) (by decide)) (by decide)) (by decide)) (by decide)) (by decide)) (by decide), ?_, ?_⟩
  · exact lit_read _ _ (bit_above (bit_above (bit_above (bit_above (bit_above (bit_here (bit_ofBool _) (by decide)) (by decide)) (by decide)) (by decide)) (by decide)) (by decide))
  · cases f
    unfold decF
    congr 1
    · exact field_above (field_above (field_above (field_above (field_above (field_above (field_here) (by decide)) (by decide)) (by decide)) (by decide)) (by decide)) (by decide)
    · exact field_above (field_above (field_above (field_above (field_here) (by decide)) (by decide)) (by decide)) (by decide)
    · exact field_above (field_above (field_above (field_here) (by decide)) (by decide)) (by decide)
    · exact field_above (field_above (field_here) (by decide)) (by decide)
    · exact field_above (field_here) (by decide)
    · exact field_here

theorem readB (op : BitVec 9) (f : FmtB) (w : Word) (l : List Word) (h : encB op f = w :: l) :
    wordOp w = op ∧ (if wordL w then some (l.headD 0) else none) = none ∧ decB w none = f := by
  unfold encB at h
  injection h with hw hl
  subst hw hl
  refine ⟨field_above (field_above (field_above (field_above (field_above (field_all) (by decide)) (by decide)) (by decide)) (by decide)) (by decide), ?_, ?_⟩
  · exact lit_read _ none (bit_above (bit_above (bit_above (bit_here (bit_ofBool _) (by decide)) (by decide)) (by decide)) (by decide))
  · cases f
    unfold decB
    congr 1
    · exact field_above (field_above (field_above (field_above (field_here) (by decide)) (by decide)) (by decide)) (by decide)
    · exact field_above (field_above (field_here) (by decide)) (by decide)
    · exact field_above (field_here) (by decide)
    · exact field_here

theorem readM (op : BitVec 9) (f : FmtM) (w : Word) (l : List Word) (h : encM op f = w :: l) :
    wordOp w = op ∧ (if wordL w then some (l.headD 0) else none) = f.lit ∧ decM w f.lit = f := by
  unfold encM at h
  injection h with hw hl
  subst hw hl
  refine ⟨field_above (field_above (field_above (field_above (field_above (field_above (field_above (field_above (field_all) (by decide)) (by decide)) (by decide)) (by decide)) (by decide)) (by decide)) (by decide)) (by decide), ?_, ?_⟩
  · exact lit_read _ _ (bit_above (bit_above (bit_above (bit_above (bit_above (bit_above (bit_here (bit_ofBool _) (by decide)) (by decide)) (by decide)) (by decide)) (by decide)) (by decide)) (by decide))
  · cases f
    unfold decM
    congr 1
    · exact field_above (field_above (field_above (field_above (field_above (field_above (field_above (field_here) (by decide)) (by decide)) (by decide)) (by decide)) (by decide)) (by decide)) (by decide)
    · exact field_above (field_above (field_above (field_above (field_above (field_here) (by decide)) (by decide)) (by decide)) (by decide)) (by decide)
    · exact field_above (field_above (field_above (field_above (field_here) (by decide)) (by decide)) (by decide)) (by decide)
    · exact field_above (field_above (field_above (field_here) (by decide)) (by decide)) (by decide)
    · exact field_above (field_above (field_here) (by decide)) (by decide)
    · exact field_above (field_here) (by decide)
    · exact field_here

theorem readV (op : BitVec 9) (f : FmtV) (w : Word) (l : List Word) (h : encV op f = w :: l) :
    wordOp w = op ∧ (if wordL w then some (l.headD 0) else none) = f.lit ∧ decV w f.lit = f := by
  unfold encV at h
  injection h with hw hl
  subst hw hl
  refine ⟨field_above (field_above (field_above (field_above (field_above (field_above (field_above (field_above (field_above (field_above (field_above (field_above (field_above (field_all) (by decide)) (by decide)) (by decide)) (by decide)) (by decide)) (by decide)) (by decide)) (by decide)) (by decide)) (by decide)) (by decide)) (by decide)) (by decide), ?_, ?_⟩
  · exact lit_read _ _ (bit_above (bit_above (bit_above (bit_above (bit_above (bit_above (bit_above (bit_above (bit_above (bit_above (bit_above (bit_here (bit_ofBool _) (by decide)) (by decide)) (by decide)) (by decide)) (by decide)) (by decide)) (by decide)) (by decide)) (by decide)) (by decide)) (by decide)) (by decide))
  · cases f
    unfold decV
    congr 1
    · exact field_above (field_above (field_above (field_above (field_above (field_above (field_above (field_above (field_above (field_above (field_above (field_above (field_here) (by decide)) (by decide)) (by decide)) (by decide)) (by decide)) (by decide)) (by decide)) (by decide)) (by decide)) (by decide)) (by decide)) (by decide)
    · exact field_above (field_above (field_above (field_above (field_above (field_above (field_above (field_above (field_above (field_above (field_here) (by decide)) (by decide)) (by decide)) (by decide)) (by decide)) (by decide)) (by decide)) (by decide)) (by decide)) (by decide)
    · exact field_above (field_above (field_above (field_above (field_above (field_above (field_above (field_above (field_above (field_here) (by decide)) (by decide)) (by decide)) (by decide)) (by decide)) (by decide)) (by decide)) (by decide)) (by decide)
    · exact field_above (field_above (field_above (field_above (field_above (field_above (field_above (field_above (field_here) (by decide)) (by decide)) (by decide)) (by decide)) (by decide)) (by decide)) (by decide)) (by decide)
    · exact field_above (field_above (field_above (field_above (field_above (field_above (field_above (field_here) (by decide)) (by decide)) (by decide)) (by decide)) (by decide)) (by decide)) (by decide)
    · exact field_above (field_above (field_above (field_above (field_above (field_above (field_here) (by decide)) (by decide)) (by decide)) (by decide)) (by decide)) (by decide)
    · exact field_above (field_above (field_above (field_above (field_above (field_here) (by decide)) (by decide)) (by decide)) (by decide)) (by decide)
    · exact field_above (field_above (field_above (field_above (field_here) (by decide)) (by decide)) (by decide)) (by decide)
    · exact field_above (field_above (field_above (field_here) (by decide)) (by decide)) (by decide)
    · exact field_above (field_above (field_here) (by decide)) (by decide)
    · exact field_above (field_here) (by decide)
    · exact field_here

theorem readW (op : BitVec 9) (f : FmtW) (w : Word) (l : List Word) (h : encW op f = w :: l) :
    wordOp w = op ∧ (if wordL w then some (l.headD 0) else none) = f.lit ∧ decW w f.lit = f := by
  unfold encW at h
  injection h with hw hl
  subst hw hl
  refine ⟨field_above (field_above (field_above (field_above (field_above (field_above (field_above (field_above (field_above (field_above (field_all) (by decide)) (by decide)) (by decide)) (by decide)) (by decide)) (by decide)) (by decide)) (by decide)) (by decide)) (by decide), ?_, ?_⟩
  · exact lit_read _ _ (bit_above (bit_above (bit_above (bit_above (bit_above (bit_above (bit_above (bit_above (bit_here (bit_ofBool _) (by decide)) (by decide)) (by decide)) (by decide)) (by decide)) (by decide)) (by decide)) (by decide)) (by decide))
  · cases f
    unfold decW
    congr 1
    · exact field_above (field_above (field_above (field_above (field_above (field_above (field_above (field_above (field_above (field_here) (by decide)) (by decide)) (by decide)) (by decide)) (by decide)) (by decide)) (by decide)) (by decide)) (by decide)
    · exact field_above (field_above (field_above (field_above (field_above (field_above (field_above (field_here) (by decide)) (by decide)) (by decide)) (by decide)) (by decide)) (by decide)) (by decide)
    · exact field_above (field_above (field_above (field_above (field_above (field_above (field_here) (by decide)) (by decide)) (by decide)) (by decide)) (by decide)) (by decide)
    · exact field_above (field_above (field_above (field_above (field_above (field_here) (by decide)) (by decide)) (by decide)) (by decide)) (by decide)
    · exact field_above (field_above (field_above (field_above (field_here) (by decide)) (by decide)) (by decide)) (by decide)
    · exact field_above (field_above (field_above (field_here) (by decide)) (by decide)) (by decide)
    · exact field_above (field_above (field_here) (by decide)) (by decide)
    · exact field_above (field_here) (by decide)
    · exact field_here

theorem readT (op : BitVec 9) (f : FmtT) (w : Word) (l : List Word) (h : encT op f = w :: l) :
    wordOp w = op ∧ (if wordL w then some (l.headD 0) else none) = f.lit ∧ decT w f.lit = f := by
  unfold encT at h
  injection h with hw hl
  subst hw hl
  refine ⟨field_above (field_above (field_above (field_above (field_above (field_above (field_above (field_above (field_above (field_above (field_all) (by decide)) (by decide)) (by decide)) (by decide)) (by decide)) (by decide)) (by decide)) (by decide)) (by decide)) (by decide), ?_, ?_⟩
  · exact lit_read _ _ (bit_above (bit_above (bit_above (bit_above (bit_above (bit_above (bit_above (bit_above (bit_here (bit_ofBool _) (by decide)) (by decide)) (by decide)) (by decide)) (by decide)) (by decide)) (by decide)) (by decide)) (by decide))
  · cases f
    unfold decT
    congr 1
    · exact field_above (field_above (field_above (field_above (field_above (field_above (field_above (field_above (field_above (field_here) (by decide)) (by decide)) (by decide)) (by decide)) (by decide)) (by decide)) (by decide)) (by decide)) (by decide)
    · exact field_above (field_above (field_above (field_above (field_above (field_above (field_above (field_here) (by decide)) (by decide)) (by decide)) (by decide)) (by decide)) (by decide)) (by decide)
    · exact field_above (field_above (field_above (field_above (field_above (field_above (field_here) (by decide)) (by decide)) (by decide)) (by decide)) (by decide)) (by decide)
    · exact field_above (field_above (field_above (field_above (field_above (field_here) (by decide)) (by decide)) (by decide)) (by decide)) (by decide)
    · exact field_above (field_above (field_above (field_above (field_here) (by decide)) (by decide)) (by decide)) (by decide)
    · exact field_above (field_above (field_above (field_here) (by decide)) (by decide)) (by decide)
    · exact field_above (field_above (field_here) (by decide)) (by decide)
    · exact field_above (field_here) (by decide)
    · exact field_here

theorem readC (op : BitVec 9) (f : FmtC) (w : Word) (l : List Word) (h : encC op f = w :: l) :
    wordOp w = op ∧ (if wordL w then some (l.headD 0) else none) = f.lit ∧ decC w f.lit = f := by
  unfold encC at h
  injection h with hw hl
  subst hw hl
  refine ⟨field_above (field_above (field_above (field_above (field_above (field_above (field_above (field_above (field_above (field_all) (by decide)) (by decide)) (by decide)) (by decide)) (by decide)) (by decide)) (by decide)) (by decide)) (by decide), ?_, ?_⟩
  · exact lit_read _ _ (bit_above (bit_above (bit_above (bit_above (bit_above (bit_above (bit_above (bit_here (bit_ofBool _) (by decide)) (by decide)) (by decide)) (by decide)) (by decide)) (by decide)) (by decide)) (by decide))
  · cases f
    unfold decC
    congr 1
    · exact field_above (field_above (field_above (field_above (field_above (field_above (field_above (field_above (field_here) (by decide)) (by decide)) (by decide)) (by decide)) (by decide)) (by decide)) (by decide)) (by decide)
    · exact field_above (field_above (field_above (field_above (field_above (field_above (field_here) (by decide)) (by decide)) (by decide)) (by decide)) (by decide)) (by decide)
    · exact field_above (field_above (field_above (field_above (field_above (field_here) (by decide)) (by decide)) (by decide)) (by decide)) (by decide)
    · exact field_above (field_above (field_above (field_above (field_here) (by decide)) (by decide)) (by decide)) (by decide)
    · exact field_above (field_above (field_above (field_here) (by decide)) (by decide)) (by decide)
    · exact field_above (field_above (field_here) (by decide)) (by decide)
    · exact field_above (field_here) (by decide)
    · exact field_here

theorem readQ (op : BitVec 9) (f : FmtQ) (w : Word) (l : List Word) (h : encQ op f = w :: l) :
    wordOp w = op ∧ (if wordL w then some (l.headD 0) else none) = f.lit ∧ decQ w f.lit = f := by
  unfold encQ at h
  injection h with hw hl
  subst hw hl
  refine ⟨field_above (field_above (field_above (field_above (field_above (field_above (field_above (field_all) (by decide)) (by decide)) (by decide)) (by decide)) (by decide)) (by decide)) (by decide), ?_, ?_⟩
  · exact lit_read _ _ (bit_above (bit_above (bit_above (bit_above (bit_above (bit_here (bit_ofBool _) (by decide)) (by decide)) (by decide)) (by decide)) (by decide)) (by decide))
  · cases f
    unfold decQ
    congr 1
    · exact field_above (field_above (field_above (field_above (field_above (field_above (field_here) (by decide)) (by decide)) (by decide)) (by decide)) (by decide)) (by decide)
    · exact field_above (field_above (field_above (field_above (field_here) (by decide)) (by decide)) (by decide)) (by decide)
    · exact field_above (field_above (field_above (field_here) (by decide)) (by decide)) (by decide)
    · exact field_above (field_above (field_here) (by decide)) (by decide)
    · exact field_above (field_here) (by decide)
    · exact field_here

theorem readY (op : BitVec 9) (f : FmtY) (w : Word) (l : List Word) (h : encY op f = w :: l) :
    wordOp w = op ∧ (if wordL w then some (l.headD 0) else none) = f.lit ∧ decY w f.lit = f := by
  unfold encY at h
  injection h with hw hl
  subst hw hl
  refine ⟨field_above (field_above (field_above (field_above (field_above (field_above (field_all) (by decide)) (by decide)) (by decide)) (by decide)) (by decide)) (by decide), ?_, ?_⟩
  · exact lit_read _ _ (bit_above (bit_above (bit_above (bit_above (bit_here (bit_ofBool _) (by decide)) (by decide)) (by decide)) (by decide)) (by decide))
  · cases f
    unfold decY
    congr 1
    · exact field_above (field_above (field_above (field_above (field_above (field_here) (by decide)) (by decide)) (by decide)) (by decide)) (by decide)
    · exact field_above (field_above (field_above (field_here) (by decide)) (by decide)) (by decide)
    · exact field_above (field_above (field_here) (by decide)) (by decide)
    · exact field_above (field_here) (by decide)
    · exact field_here

/-! ## The instructions -/

/-- The opcode list reads the words of the instruction, if it is well formed, as the instruction. -/
def Encoding.Statement (i : Instr) : Prop :=
  ∀ w l, encode i = w :: l → i.wf = true →
    (opcodeG3 (wordOp w).toNat).map (fun g => g w (if wordL w then some (l.headD 0) else none)) = some i

theorem Encoding.add (w : Bool) (f : FmtA) : Encoding.Statement (.add w f) := by
  intro v l h _
  cases w
  · obtain ⟨ho, hl, hd⟩ := readA _ _ _ _ h
    rw [ho, hl]
    exact congrArg (fun x => some (Instr.add false x)) hd
  · obtain ⟨ho, hl, hd⟩ := readA _ _ _ _ h
    rw [ho, hl]
    exact congrArg (fun x => some (Instr.add true x)) hd
theorem Encoding.sub (w : Bool) (f : FmtA) : Encoding.Statement (.sub w f) := by
  intro v l h _
  cases w
  · obtain ⟨ho, hl, hd⟩ := readA _ _ _ _ h
    rw [ho, hl]
    exact congrArg (fun x => some (Instr.sub false x)) hd
  · obtain ⟨ho, hl, hd⟩ := readA _ _ _ _ h
    rw [ho, hl]
    exact congrArg (fun x => some (Instr.sub true x)) hd
theorem Encoding.mul (w : Bool) (f : FmtA) : Encoding.Statement (.mul w f) := by
  intro v l h _
  cases w
  · obtain ⟨ho, hl, hd⟩ := readA _ _ _ _ h
    rw [ho, hl]
    exact congrArg (fun x => some (Instr.mul false x)) hd
  · obtain ⟨ho, hl, hd⟩ := readA _ _ _ _ h
    rw [ho, hl]
    exact congrArg (fun x => some (Instr.mul true x)) hd
theorem Encoding.mulh (f : FmtA) : Encoding.Statement (.mulh f) := by
  intro v l h _
  obtain ⟨ho, hl, hd⟩ := readA _ _ _ _ h
  rw [ho, hl]
  exact congrArg (fun x => some (Instr.mulh x)) hd
theorem Encoding.mulhn (f : FmtA) : Encoding.Statement (.mulhn f) := by
  intro v l h _
  obtain ⟨ho, hl, hd⟩ := readA _ _ _ _ h
  rw [ho, hl]
  exact congrArg (fun x => some (Instr.mulhn x)) hd
theorem Encoding.div (f : FmtA) : Encoding.Statement (.div f) := by
  intro v l h _
  obtain ⟨ho, hl, hd⟩ := readA _ _ _ _ h
  rw [ho, hl]
  exact congrArg (fun x => some (Instr.div x)) hd
theorem Encoding.divn (f : FmtA) : Encoding.Statement (.divn f) := by
  intro v l h _
  obtain ⟨ho, hl, hd⟩ := readA _ _ _ _ h
  rw [ho, hl]
  exact congrArg (fun x => some (Instr.divn x)) hd
theorem Encoding.rem (f : FmtA) : Encoding.Statement (.rem f) := by
  intro v l h _
  obtain ⟨ho, hl, hd⟩ := readA _ _ _ _ h
  rw [ho, hl]
  exact congrArg (fun x => some (Instr.rem x)) hd
theorem Encoding.remn (f : FmtA) : Encoding.Statement (.remn f) := by
  intro v l h _
  obtain ⟨ho, hl, hd⟩ := readA _ _ _ _ h
  rw [ho, hl]
  exact congrArg (fun x => some (Instr.remn x)) hd
theorem Encoding.and (f : FmtA) : Encoding.Statement (.and f) := by
  intro v l h _
  obtain ⟨ho, hl, hd⟩ := readA _ _ _ _ h
  rw [ho, hl]
  exact congrArg (fun x => some (Instr.and x)) hd
theorem Encoding.or (f : FmtA) : Encoding.Statement (.or f) := by
  intro v l h _
  obtain ⟨ho, hl, hd⟩ := readA _ _ _ _ h
  rw [ho, hl]
  exact congrArg (fun x => some (Instr.or x)) hd
theorem Encoding.xor (f : FmtA) : Encoding.Statement (.xor f) := by
  intro v l h _
  obtain ⟨ho, hl, hd⟩ := readA _ _ _ _ h
  rw [ho, hl]
  exact congrArg (fun x => some (Instr.xor x)) hd
theorem Encoding.andn (f : FmtA) : Encoding.Statement (.andn f) := by
  intro v l h _
  obtain ⟨ho, hl, hd⟩ := readA _ _ _ _ h
  rw [ho, hl]
  exact congrArg (fun x => some (Instr.andn x)) hd
theorem Encoding.orn (f : FmtA) : Encoding.Statement (.orn f) := by
  intro v l h _
  obtain ⟨ho, hl, hd⟩ := readA _ _ _ _ h
  rw [ho, hl]
  exact congrArg (fun x => some (Instr.orn x)) hd
theorem Encoding.shl (w : Bool) (f : FmtA) : Encoding.Statement (.shl w f) := by
  intro v l h _
  cases w
  · obtain ⟨ho, hl, hd⟩ := readA _ _ _ _ h
    rw [ho, hl]
    exact congrArg (fun x => some (Instr.shl false x)) hd
  · obtain ⟨ho, hl, hd⟩ := readA _ _ _ _ h
    rw [ho, hl]
    exact congrArg (fun x => some (Instr.shl true x)) hd
theorem Encoding.shr (w : Bool) (f : FmtA) : Encoding.Statement (.shr w f) := by
  intro v l h _
  cases w
  · obtain ⟨ho, hl, hd⟩ := readA _ _ _ _ h
    rw [ho, hl]
    exact congrArg (fun x => some (Instr.shr false x)) hd
  · obtain ⟨ho, hl, hd⟩ := readA _ _ _ _ h
    rw [ho, hl]
    exact congrArg (fun x => some (Instr.shr true x)) hd
theorem Encoding.sar (w : Bool) (f : FmtA) : Encoding.Statement (.sar w f) := by
  intro v l h _
  cases w
  · obtain ⟨ho, hl, hd⟩ := readA _ _ _ _ h
    rw [ho, hl]
    exact congrArg (fun x => some (Instr.sar false x)) hd
  · obtain ⟨ho, hl, hd⟩ := readA _ _ _ _ h
    rw [ho, hl]
    exact congrArg (fun x => some (Instr.sar true x)) hd
theorem Encoding.rol (f : FmtA) : Encoding.Statement (.rol f) := by
  intro v l h _
  obtain ⟨ho, hl, hd⟩ := readA _ _ _ _ h
  rw [ho, hl]
  exact congrArg (fun x => some (Instr.rol x)) hd
theorem Encoding.ror (f : FmtA) : Encoding.Statement (.ror f) := by
  intro v l h _
  obtain ⟨ho, hl, hd⟩ := readA _ _ _ _ h
  rw [ho, hl]
  exact congrArg (fun x => some (Instr.ror x)) hd
theorem Encoding.min (f : FmtA) : Encoding.Statement (.min f) := by
  intro v l h _
  obtain ⟨ho, hl, hd⟩ := readA _ _ _ _ h
  rw [ho, hl]
  exact congrArg (fun x => some (Instr.min x)) hd
theorem Encoding.max (f : FmtA) : Encoding.Statement (.max f) := by
  intro v l h _
  obtain ⟨ho, hl, hd⟩ := readA _ _ _ _ h
  rw [ho, hl]
  exact congrArg (fun x => some (Instr.max x)) hd
theorem Encoding.minn (f : FmtA) : Encoding.Statement (.minn f) := by
  intro v l h _
  obtain ⟨ho, hl, hd⟩ := readA _ _ _ _ h
  rw [ho, hl]
  exact congrArg (fun x => some (Instr.minn x)) hd
theorem Encoding.maxn (f : FmtA) : Encoding.Statement (.maxn f) := by
  intro v l h _
  obtain ⟨ho, hl, hd⟩ := readA _ _ _ _ h
  rw [ho, hl]
  exact congrArg (fun x => some (Instr.maxn x)) hd
theorem Encoding.clz (f : FmtA) : Encoding.Statement (.clz f) := by
  intro v l h _
  obtain ⟨ho, hl, hd⟩ := readA _ _ _ _ h
  rw [ho, hl]
  exact congrArg (fun x => some (Instr.clz x)) hd
theorem Encoding.ctz (f : FmtA) : Encoding.Statement (.ctz f) := by
  intro v l h _
  obtain ⟨ho, hl, hd⟩ := readA _ _ _ _ h
  rw [ho, hl]
  exact congrArg (fun x => some (Instr.ctz x)) hd
theorem Encoding.popc (f : FmtA) : Encoding.Statement (.popc f) := by
  intro v l h _
  obtain ⟨ho, hl, hd⟩ := readA _ _ _ _ h
  rw [ho, hl]
  exact congrArg (fun x => some (Instr.popc x)) hd
theorem Encoding.brev (f : FmtA) : Encoding.Statement (.brev f) := by
  intro v l h _
  obtain ⟨ho, hl, hd⟩ := readA _ _ _ _ h
  rw [ho, hl]
  exact congrArg (fun x => some (Instr.brev x)) hd
theorem Encoding.bswap (f : FmtA) : Encoding.Statement (.bswap f) := by
  intro v l h _
  obtain ⟨ho, hl, hd⟩ := readA _ _ _ _ h
  rw [ho, hl]
  exact congrArg (fun x => some (Instr.bswap x)) hd
theorem Encoding.sext (f : FmtA) : Encoding.Statement (.sext f) := by
  intro v l h _
  obtain ⟨ho, hl, hd⟩ := readA _ _ _ _ h
  rw [ho, hl]
  exact congrArg (fun x => some (Instr.sext x)) hd
theorem Encoding.zext (f : FmtA) : Encoding.Statement (.zext f) := by
  intro v l h _
  obtain ⟨ho, hl, hd⟩ := readA _ _ _ _ h
  rw [ho, hl]
  exact congrArg (fun x => some (Instr.zext x)) hd
theorem Encoding.mov (f : FmtA) : Encoding.Statement (.mov f) := by
  intro v l h _
  obtain ⟨ho, hl, hd⟩ := readA _ _ _ _ h
  rw [ho, hl]
  exact congrArg (fun x => some (Instr.mov x)) hd
theorem Encoding.abs (f : FmtA) : Encoding.Statement (.abs f) := by
  intro v l h _
  obtain ⟨ho, hl, hd⟩ := readA _ _ _ _ h
  rw [ho, hl]
  exact congrArg (fun x => some (Instr.abs x)) hd
theorem Encoding.bfx (f : FmtA) : Encoding.Statement (.bfx f) := by
  intro v l h _
  obtain ⟨ho, hl, hd⟩ := readA _ _ _ _ h
  rw [ho, hl]
  exact congrArg (fun x => some (Instr.bfx x)) hd
theorem Encoding.bfxn (f : FmtA) : Encoding.Statement (.bfxn f) := by
  intro v l h _
  obtain ⟨ho, hl, hd⟩ := readA _ _ _ _ h
  rw [ho, hl]
  exact congrArg (fun x => some (Instr.bfxn x)) hd
theorem Encoding.bfi (f : FmtA) : Encoding.Statement (.bfi f) := by
  intro v l h _
  obtain ⟨ho, hl, hd⟩ := readA _ _ _ _ h
  rw [ho, hl]
  exact congrArg (fun x => some (Instr.bfi x)) hd
theorem Encoding.lea (f : FmtF) : Encoding.Statement (.lea f) := by
  intro v l h _
  obtain ⟨ho, hl, hd⟩ := readF _ _ _ _ h
  rw [ho, hl]
  exact congrArg (fun x => some (Instr.lea x)) hd
theorem Encoding.sel (f : FmtF) : Encoding.Statement (.sel f) := by
  intro v l h _
  obtain ⟨ho, hl, hd⟩ := readF _ _ _ _ h
  rw [ho, hl]
  exact congrArg (fun x => some (Instr.sel x)) hd
theorem Encoding.setp (f : FmtF) : Encoding.Statement (.setp f) := by
  intro v l h _
  obtain ⟨ho, hl, hd⟩ := readF _ _ _ _ h
  rw [ho, hl]
  exact congrArg (fun x => some (Instr.setp x)) hd
theorem Encoding.setx (f : FmtF) : Encoding.Statement (.setx f) := by
  intro v l h _
  obtain ⟨ho, hl, hd⟩ := readF _ _ _ _ h
  rw [ho, hl]
  exact congrArg (fun x => some (Instr.setx x)) hd
theorem Encoding.plog (f : FmtF) : Encoding.Statement (.plog f) := by
  intro v l h _
  obtain ⟨ho, hl, hd⟩ := readF _ _ _ _ h
  rw [ho, hl]
  exact congrArg (fun x => some (Instr.plog x)) hd
theorem Encoding.fadd (dbl : Bool) (f : FmtF) : Encoding.Statement (.fadd dbl f) := by
  intro v l h _
  cases dbl
  · obtain ⟨ho, hl, hd⟩ := readF _ _ _ _ h
    rw [ho, hl]
    exact congrArg (fun x => some (Instr.fadd false x)) hd
  · obtain ⟨ho, hl, hd⟩ := readF _ _ _ _ h
    rw [ho, hl]
    exact congrArg (fun x => some (Instr.fadd true x)) hd
theorem Encoding.fsub (dbl : Bool) (f : FmtF) : Encoding.Statement (.fsub dbl f) := by
  intro v l h _
  cases dbl
  · obtain ⟨ho, hl, hd⟩ := readF _ _ _ _ h
    rw [ho, hl]
    exact congrArg (fun x => some (Instr.fsub false x)) hd
  · obtain ⟨ho, hl, hd⟩ := readF _ _ _ _ h
    rw [ho, hl]
    exact congrArg (fun x => some (Instr.fsub true x)) hd
theorem Encoding.fmul (dbl : Bool) (f : FmtF) : Encoding.Statement (.fmul dbl f) := by
  intro v l h _
  cases dbl
  · obtain ⟨ho, hl, hd⟩ := readF _ _ _ _ h
    rw [ho, hl]
    exact congrArg (fun x => some (Instr.fmul false x)) hd
  · obtain ⟨ho, hl, hd⟩ := readF _ _ _ _ h
    rw [ho, hl]
    exact congrArg (fun x => some (Instr.fmul true x)) hd
theorem Encoding.fmac (dbl : Bool) (f : FmtF) : Encoding.Statement (.fmac dbl f) := by
  intro v l h _
  cases dbl
  · obtain ⟨ho, hl, hd⟩ := readF _ _ _ _ h
    rw [ho, hl]
    exact congrArg (fun x => some (Instr.fmac false x)) hd
  · obtain ⟨ho, hl, hd⟩ := readF _ _ _ _ h
    rw [ho, hl]
    exact congrArg (fun x => some (Instr.fmac true x)) hd
theorem Encoding.fdiv (dbl : Bool) (f : FmtF) : Encoding.Statement (.fdiv dbl f) := by
  intro v l h _
  cases dbl
  · obtain ⟨ho, hl, hd⟩ := readF _ _ _ _ h
    rw [ho, hl]
    exact congrArg (fun x => some (Instr.fdiv false x)) hd
  · obtain ⟨ho, hl, hd⟩ := readF _ _ _ _ h
    rw [ho, hl]
    exact congrArg (fun x => some (Instr.fdiv true x)) hd
theorem Encoding.fsqrt (dbl : Bool) (f : FmtF) : Encoding.Statement (.fsqrt dbl f) := by
  intro v l h _
  cases dbl
  · obtain ⟨ho, hl, hd⟩ := readF _ _ _ _ h
    rw [ho, hl]
    exact congrArg (fun x => some (Instr.fsqrt false x)) hd
  · obtain ⟨ho, hl, hd⟩ := readF _ _ _ _ h
    rw [ho, hl]
    exact congrArg (fun x => some (Instr.fsqrt true x)) hd
theorem Encoding.fmin (dbl : Bool) (f : FmtF) : Encoding.Statement (.fmin dbl f) := by
  intro v l h _
  cases dbl
  · obtain ⟨ho, hl, hd⟩ := readF _ _ _ _ h
    rw [ho, hl]
    exact congrArg (fun x => some (Instr.fmin false x)) hd
  · obtain ⟨ho, hl, hd⟩ := readF _ _ _ _ h
    rw [ho, hl]
    exact congrArg (fun x => some (Instr.fmin true x)) hd
theorem Encoding.fmax (dbl : Bool) (f : FmtF) : Encoding.Statement (.fmax dbl f) := by
  intro v l h _
  cases dbl
  · obtain ⟨ho, hl, hd⟩ := readF _ _ _ _ h
    rw [ho, hl]
    exact congrArg (fun x => some (Instr.fmax false x)) hd
  · obtain ⟨ho, hl, hd⟩ := readF _ _ _ _ h
    rw [ho, hl]
    exact congrArg (fun x => some (Instr.fmax true x)) hd
theorem Encoding.fsgn (dbl : Bool) (f : FmtF) : Encoding.Statement (.fsgn dbl f) := by
  intro v l h _
  cases dbl
  · obtain ⟨ho, hl, hd⟩ := readF _ _ _ _ h
    rw [ho, hl]
    exact congrArg (fun x => some (Instr.fsgn false x)) hd
  · obtain ⟨ho, hl, hd⟩ := readF _ _ _ _ h
    rw [ho, hl]
    exact congrArg (fun x => some (Instr.fsgn true x)) hd
theorem Encoding.fsetp (dbl : Bool) (f : FmtF) : Encoding.Statement (.fsetp dbl f) := by
  intro v l h _
  cases dbl
  · obtain ⟨ho, hl, hd⟩ := readF _ _ _ _ h
    rw [ho, hl]
    exact congrArg (fun x => some (Instr.fsetp false x)) hd
  · obtain ⟨ho, hl, hd⟩ := readF _ _ _ _ h
    rw [ho, hl]
    exact congrArg (fun x => some (Instr.fsetp true x)) hd
theorem Encoding.frnd (dbl : Bool) (f : FmtF) : Encoding.Statement (.frnd dbl f) := by
  intro v l h _
  cases dbl
  · obtain ⟨ho, hl, hd⟩ := readF _ _ _ _ h
    rw [ho, hl]
    exact congrArg (fun x => some (Instr.frnd false x)) hd
  · obtain ⟨ho, hl, hd⟩ := readF _ _ _ _ h
    rw [ho, hl]
    exact congrArg (fun x => some (Instr.frnd true x)) hd
theorem Encoding.fcvt (f : FmtF) : Encoding.Statement (.fcvt f) := by
  intro v l h _
  obtain ⟨ho, hl, hd⟩ := readF _ _ _ _ h
  rw [ho, hl]
  exact congrArg (fun x => some (Instr.fcvt x)) hd
theorem Encoding.fclass (f : FmtF) : Encoding.Statement (.fclass f) := by
  intro v l h _
  obtain ⟨ho, hl, hd⟩ := readF _ _ _ _ h
  rw [ho, hl]
  exact congrArg (fun x => some (Instr.fclass x)) hd
theorem Encoding.br (f : FmtB) : Encoding.Statement (.br f) := by
  intro v l h _
  obtain ⟨ho, hl, hd⟩ := readB _ _ _ _ h
  rw [ho, hl]
  exact congrArg (fun x => some (Instr.br x)) hd
theorem Encoding.call (f : FmtB) : Encoding.Statement (.call f) := by
  intro v l h _
  obtain ⟨ho, hl, hd⟩ := readB _ _ _ _ h
  rw [ho, hl]
  exact congrArg (fun x => some (Instr.call x)) hd
theorem Encoding.loop (f : FmtB) : Encoding.Statement (.loop f) := by
  intro v l h _
  obtain ⟨ho, hl, hd⟩ := readB _ _ _ _ h
  rw [ho, hl]
  exact congrArg (fun x => some (Instr.loop x)) hd
theorem Encoding.jmp (f : FmtA) : Encoding.Statement (.jmp f) := by
  intro v l h _
  obtain ⟨ho, hl, hd⟩ := readA _ _ _ _ h
  rw [ho, hl]
  exact congrArg (fun x => some (Instr.jmp x)) hd
theorem Encoding.callr (f : FmtA) : Encoding.Statement (.callr f) := by
  intro v l h _
  obtain ⟨ho, hl, hd⟩ := readA _ _ _ _ h
  rw [ho, hl]
  exact congrArg (fun x => some (Instr.callr x)) hd
theorem Encoding.ret (f : FmtA) : Encoding.Statement (.ret f) := by
  intro v l h _
  obtain ⟨ho, hl, hd⟩ := readA _ _ _ _ h
  rw [ho, hl]
  exact congrArg (fun x => some (Instr.ret x)) hd
theorem Encoding.callt (f : FmtA) : Encoding.Statement (.callt f) := by
  intro v l h _
  obtain ⟨ho, hl, hd⟩ := readA _ _ _ _ h
  rw [ho, hl]
  exact congrArg (fun x => some (Instr.callt x)) hd
theorem Encoding.brx (f : FmtA) : Encoding.Statement (.brx f) := by
  intro v l h _
  obtain ⟨ho, hl, hd⟩ := readA _ _ _ _ h
  rw [ho, hl]
  exact congrArg (fun x => some (Instr.brx x)) hd
theorem Encoding.rep (f : FmtA) : Encoding.Statement (.rep f) := by
  intro v l h _
  obtain ⟨ho, hl, hd⟩ := readA _ _ _ _ h
  rw [ho, hl]
  exact congrArg (fun x => some (Instr.rep x)) hd
theorem Encoding.repRepetition : Encoding.Statement (.repRepetition) := nofun
theorem Encoding.yield (f : FmtA) : Encoding.Statement (.yield f) := by
  intro v l h _
  obtain ⟨ho, hl, hd⟩ := readA _ _ _ _ h
  rw [ho, hl]
  exact congrArg (fun x => some (Instr.yield x)) hd
theorem Encoding.nop (f : FmtA) : Encoding.Statement (.nop f) := by
  intro v l h _
  obtain ⟨ho, hl, hd⟩ := readA _ _ _ _ h
  rw [ho, hl]
  exact congrArg (fun x => some (Instr.nop x)) hd
theorem Encoding.exit (f : FmtA) : Encoding.Statement (.exit f) := by
  intro v l h _
  obtain ⟨ho, hl, hd⟩ := readA _ _ _ _ h
  rw [ho, hl]
  exact congrArg (fun x => some (Instr.exit x)) hd
theorem Encoding.trap (f : FmtA) : Encoding.Statement (.trap f) := by
  intro v l h _
  obtain ⟨ho, hl, hd⟩ := readA _ _ _ _ h
  rw [ho, hl]
  exact congrArg (fun x => some (Instr.trap x)) hd
theorem Encoding.brk (f : FmtA) : Encoding.Statement (.brk f) := by
  intro v l h _
  obtain ⟨ho, hl, hd⟩ := readA _ _ _ _ h
  rw [ho, hl]
  exact congrArg (fun x => some (Instr.brk x)) hd
theorem Encoding.wfe (f : FmtA) : Encoding.Statement (.wfe f) := by
  intro v l h _
  obtain ⟨ho, hl, hd⟩ := readA _ _ _ _ h
  rw [ho, hl]
  exact congrArg (fun x => some (Instr.wfe x)) hd
theorem Encoding.wfeWake (h : Nat) : Encoding.Statement (.wfeWake h) := nofun
theorem Encoding.lend (f : FmtA) : Encoding.Statement (.lend f) := by
  intro v l h _
  obtain ⟨ho, hl, hd⟩ := readA _ _ _ _ h
  rw [ho, hl]
  exact congrArg (fun x => some (Instr.lend x)) hd
theorem Encoding.lds8 (f : FmtM) : Encoding.Statement (.lds8 f) := by
  intro v l h _
  obtain ⟨ho, hl, hd⟩ := readM _ _ _ _ h
  rw [ho, hl]
  exact congrArg (fun x => some (Instr.lds8 x)) hd
theorem Encoding.lds16 (f : FmtM) : Encoding.Statement (.lds16 f) := by
  intro v l h _
  obtain ⟨ho, hl, hd⟩ := readM _ _ _ _ h
  rw [ho, hl]
  exact congrArg (fun x => some (Instr.lds16 x)) hd
theorem Encoding.lds32 (f : FmtM) : Encoding.Statement (.lds32 f) := by
  intro v l h _
  obtain ⟨ho, hl, hd⟩ := readM _ _ _ _ h
  rw [ho, hl]
  exact congrArg (fun x => some (Instr.lds32 x)) hd
theorem Encoding.ldz8 (f : FmtM) : Encoding.Statement (.ldz8 f) := by
  intro v l h _
  obtain ⟨ho, hl, hd⟩ := readM _ _ _ _ h
  rw [ho, hl]
  exact congrArg (fun x => some (Instr.ldz8 x)) hd
theorem Encoding.ldz16 (f : FmtM) : Encoding.Statement (.ldz16 f) := by
  intro v l h _
  obtain ⟨ho, hl, hd⟩ := readM _ _ _ _ h
  rw [ho, hl]
  exact congrArg (fun x => some (Instr.ldz16 x)) hd
theorem Encoding.ldz32 (f : FmtM) : Encoding.Statement (.ldz32 f) := by
  intro v l h _
  obtain ⟨ho, hl, hd⟩ := readM _ _ _ _ h
  rw [ho, hl]
  exact congrArg (fun x => some (Instr.ldz32 x)) hd
theorem Encoding.ld64 (f : FmtM) : Encoding.Statement (.ld64 f) := by
  intro v l h _
  obtain ⟨ho, hl, hd⟩ := readM _ _ _ _ h
  rw [ho, hl]
  exact congrArg (fun x => some (Instr.ld64 x)) hd
theorem Encoding.st8 (f : FmtM) : Encoding.Statement (.st8 f) := by
  intro v l h _
  obtain ⟨ho, hl, hd⟩ := readM _ _ _ _ h
  rw [ho, hl]
  exact congrArg (fun x => some (Instr.st8 x)) hd
theorem Encoding.st16 (f : FmtM) : Encoding.Statement (.st16 f) := by
  intro v l h _
  obtain ⟨ho, hl, hd⟩ := readM _ _ _ _ h
  rw [ho, hl]
  exact congrArg (fun x => some (Instr.st16 x)) hd
theorem Encoding.st32 (f : FmtM) : Encoding.Statement (.st32 f) := by
  intro v l h _
  obtain ⟨ho, hl, hd⟩ := readM _ _ _ _ h
  rw [ho, hl]
  exact congrArg (fun x => some (Instr.st32 x)) hd
theorem Encoding.st64 (f : FmtM) : Encoding.Statement (.st64 f) := by
  intro v l h _
  obtain ⟨ho, hl, hd⟩ := readM _ _ _ _ h
  rw [ho, hl]
  exact congrArg (fun x => some (Instr.st64 x)) hd
theorem Encoding.lda (dbl : Bool) (f : FmtM) : Encoding.Statement (.lda dbl f) := by
  intro v l h _
  cases dbl
  · obtain ⟨ho, hl, hd⟩ := readM _ _ _ _ h
    rw [ho, hl]
    exact congrArg (fun x => some (Instr.lda false x)) hd
  · obtain ⟨ho, hl, hd⟩ := readM _ _ _ _ h
    rw [ho, hl]
    exact congrArg (fun x => some (Instr.lda true x)) hd
theorem Encoding.stl (dbl : Bool) (f : FmtM) : Encoding.Statement (.stl dbl f) := by
  intro v l h _
  cases dbl
  · obtain ⟨ho, hl, hd⟩ := readM _ _ _ _ h
    rw [ho, hl]
    exact congrArg (fun x => some (Instr.stl false x)) hd
  · obtain ⟨ho, hl, hd⟩ := readM _ _ _ _ h
    rw [ho, hl]
    exact congrArg (fun x => some (Instr.stl true x)) hd
theorem Encoding.amoadd (dbl : Bool) (f : FmtM) : Encoding.Statement (.amoadd dbl f) := by
  intro v l h _
  cases dbl
  · obtain ⟨ho, hl, hd⟩ := readM _ _ _ _ h
    rw [ho, hl]
    exact congrArg (fun x => some (Instr.amoadd false x)) hd
  · obtain ⟨ho, hl, hd⟩ := readM _ _ _ _ h
    rw [ho, hl]
    exact congrArg (fun x => some (Instr.amoadd true x)) hd
theorem Encoding.amoand (dbl : Bool) (f : FmtM) : Encoding.Statement (.amoand dbl f) := by
  intro v l h _
  cases dbl
  · obtain ⟨ho, hl, hd⟩ := readM _ _ _ _ h
    rw [ho, hl]
    exact congrArg (fun x => some (Instr.amoand false x)) hd
  · obtain ⟨ho, hl, hd⟩ := readM _ _ _ _ h
    rw [ho, hl]
    exact congrArg (fun x => some (Instr.amoand true x)) hd
theorem Encoding.amoor (dbl : Bool) (f : FmtM) : Encoding.Statement (.amoor dbl f) := by
  intro v l h _
  cases dbl
  · obtain ⟨ho, hl, hd⟩ := readM _ _ _ _ h
    rw [ho, hl]
    exact congrArg (fun x => some (Instr.amoor false x)) hd
  · obtain ⟨ho, hl, hd⟩ := readM _ _ _ _ h
    rw [ho, hl]
    exact congrArg (fun x => some (Instr.amoor true x)) hd
theorem Encoding.amoxor (dbl : Bool) (f : FmtM) : Encoding.Statement (.amoxor dbl f) := by
  intro v l h _
  cases dbl
  · obtain ⟨ho, hl, hd⟩ := readM _ _ _ _ h
    rw [ho, hl]
    exact congrArg (fun x => some (Instr.amoxor false x)) hd
  · obtain ⟨ho, hl, hd⟩ := readM _ _ _ _ h
    rw [ho, hl]
    exact congrArg (fun x => some (Instr.amoxor true x)) hd
theorem Encoding.amomin (dbl : Bool) (f : FmtM) : Encoding.Statement (.amomin dbl f) := by
  intro v l h _
  cases dbl
  · obtain ⟨ho, hl, hd⟩ := readM _ _ _ _ h
    rw [ho, hl]
    exact congrArg (fun x => some (Instr.amomin false x)) hd
  · obtain ⟨ho, hl, hd⟩ := readM _ _ _ _ h
    rw [ho, hl]
    exact congrArg (fun x => some (Instr.amomin true x)) hd
theorem Encoding.amomax (dbl : Bool) (f : FmtM) : Encoding.Statement (.amomax dbl f) := by
  intro v l h _
  cases dbl
  · obtain ⟨ho, hl, hd⟩ := readM _ _ _ _ h
    rw [ho, hl]
    exact congrArg (fun x => some (Instr.amomax false x)) hd
  · obtain ⟨ho, hl, hd⟩ := readM _ _ _ _ h
    rw [ho, hl]
    exact congrArg (fun x => some (Instr.amomax true x)) hd
theorem Encoding.amominn (dbl : Bool) (f : FmtM) : Encoding.Statement (.amominn dbl f) := by
  intro v l h _
  cases dbl
  · obtain ⟨ho, hl, hd⟩ := readM _ _ _ _ h
    rw [ho, hl]
    exact congrArg (fun x => some (Instr.amominn false x)) hd
  · obtain ⟨ho, hl, hd⟩ := readM _ _ _ _ h
    rw [ho, hl]
    exact congrArg (fun x => some (Instr.amominn true x)) hd
theorem Encoding.amomaxn (dbl : Bool) (f : FmtM) : Encoding.Statement (.amomaxn dbl f) := by
  intro v l h _
  cases dbl
  · obtain ⟨ho, hl, hd⟩ := readM _ _ _ _ h
    rw [ho, hl]
    exact congrArg (fun x => some (Instr.amomaxn false x)) hd
  · obtain ⟨ho, hl, hd⟩ := readM _ _ _ _ h
    rw [ho, hl]
    exact congrArg (fun x => some (Instr.amomaxn true x)) hd
theorem Encoding.amoswp (dbl : Bool) (f : FmtM) : Encoding.Statement (.amoswp dbl f) := by
  intro v l h _
  cases dbl
  · obtain ⟨ho, hl, hd⟩ := readM _ _ _ _ h
    rw [ho, hl]
    exact congrArg (fun x => some (Instr.amoswp false x)) hd
  · obtain ⟨ho, hl, hd⟩ := readM _ _ _ _ h
    rw [ho, hl]
    exact congrArg (fun x => some (Instr.amoswp true x)) hd
theorem Encoding.amocas (dbl : Bool) (f : FmtM) : Encoding.Statement (.amocas dbl f) := by
  intro v l h _
  cases dbl
  · obtain ⟨ho, hl, hd⟩ := readM _ _ _ _ h
    rw [ho, hl]
    exact congrArg (fun x => some (Instr.amocas false x)) hd
  · obtain ⟨ho, hl, hd⟩ := readM _ _ _ _ h
    rw [ho, hl]
    exact congrArg (fun x => some (Instr.amocas true x)) hd
theorem Encoding.amofadd (f : FmtM) : Encoding.Statement (.amofadd f) := by
  intro v l h _
  obtain ⟨ho, hl, hd⟩ := readM _ _ _ _ h
  rw [ho, hl]
  exact congrArg (fun x => some (Instr.amofadd x)) hd
theorem Encoding.fenceAcq (f : FmtM) : Encoding.Statement (.fenceAcq f) := by
  intro v l h hw
  obtain ⟨ho, hl, hd⟩ := readM _ _ _ _ h
  rw [ho, hl]
  replace hw : (f.fence && f.off == 0 && f.shift == 0) = true := hw
  simp only [Bool.and_eq_true, beq_iff_eq] at hw
  show some ((fun f : FmtM => if f.shift == 0 then Instr.fenceAcq f else if f.shift == 1 then Instr.fenceRel f else Instr.fenceAr f) (decM v f.lit)) = _
  rw [hd]
  simp [hw]
theorem Encoding.fenceRel (f : FmtM) : Encoding.Statement (.fenceRel f) := by
  intro v l h hw
  obtain ⟨ho, hl, hd⟩ := readM _ _ _ _ h
  rw [ho, hl]
  replace hw : (f.fence && f.off == 0 && f.shift == 1) = true := hw
  simp only [Bool.and_eq_true, beq_iff_eq] at hw
  show some ((fun f : FmtM => if f.shift == 0 then Instr.fenceAcq f else if f.shift == 1 then Instr.fenceRel f else Instr.fenceAr f) (decM v f.lit)) = _
  rw [hd]
  simp [hw]
theorem Encoding.fenceAr (f : FmtM) : Encoding.Statement (.fenceAr f) := by
  intro v l h hw
  obtain ⟨ho, hl, hd⟩ := readM _ _ _ _ h
  rw [ho, hl]
  replace hw : (f.fence && f.off == 0 && f.shift == 2) = true := hw
  simp only [Bool.and_eq_true, beq_iff_eq] at hw
  show some ((fun f : FmtM => if f.shift == 0 then Instr.fenceAcq f else if f.shift == 1 then Instr.fenceRel f else Instr.fenceAr f) (decM v f.lit)) = _
  rw [hd]
  simp [hw]
theorem Encoding.qfence (f : FmtM) : Encoding.Statement (.qfence f) := by
  intro v l h _
  obtain ⟨ho, hl, hd⟩ := readM _ _ _ _ h
  rw [ho, hl]
  exact congrArg (fun x => some (Instr.qfence x)) hd
theorem Encoding.cwb (f : FmtM) : Encoding.Statement (.cwb f) := by
  intro v l h _
  obtain ⟨ho, hl, hd⟩ := readM _ _ _ _ h
  rw [ho, hl]
  exact congrArg (fun x => some (Instr.cwb x)) hd
theorem Encoding.cinv (f : FmtM) : Encoding.Statement (.cinv f) := by
  intro v l h _
  obtain ⟨ho, hl, hd⟩ := readM _ _ _ _ h
  rw [ho, hl]
  exact congrArg (fun x => some (Instr.cinv x)) hd
theorem Encoding.cflush (f : FmtM) : Encoding.Statement (.cflush f) := by
  intro v l h _
  obtain ⟨ho, hl, hd⟩ := readM _ _ _ _ h
  rw [ho, hl]
  exact congrArg (fun x => some (Instr.cflush x)) hd
theorem Encoding.pref (f : FmtM) : Encoding.Statement (.pref f) := by
  intro v l h _
  obtain ⟨ho, hl, hd⟩ := readM _ _ _ _ h
  rw [ho, hl]
  exact congrArg (fun x => some (Instr.pref x)) hd
theorem Encoding.stpatch (f : FmtM) : Encoding.Statement (.stpatch f) := by
  intro v l h _
  obtain ⟨ho, hl, hd⟩ := readM _ _ _ _ h
  rw [ho, hl]
  exact congrArg (fun x => some (Instr.stpatch x)) hd
theorem Encoding.ifence (f : FmtM) : Encoding.Statement (.ifence f) := by
  intro v l h _
  obtain ⟨ho, hl, hd⟩ := readM _ _ _ _ h
  rw [ho, hl]
  exact congrArg (fun x => some (Instr.ifence x)) hd
theorem Encoding.lclaim (f : FmtA) : Encoding.Statement (.lclaim f) := by
  intro v l h _
  obtain ⟨ho, hl, hd⟩ := readA _ _ _ _ h
  rw [ho, hl]
  exact congrArg (fun x => some (Instr.lclaim x)) hd
theorem Encoding.lclaimGrant (core : Nat) : Encoding.Statement (.lclaimGrant core) := nofun
theorem Encoding.lrelease (f : FmtA) : Encoding.Statement (.lrelease f) := by
  intro v l h _
  obtain ⟨ho, hl, hd⟩ := readA _ _ _ _ h
  rw [ho, hl]
  exact congrArg (fun x => some (Instr.lrelease x)) hd
theorem Encoding.vadd (f : FmtV) : Encoding.Statement (.vadd f) := by
  intro v l h _
  obtain ⟨ho, hl, hd⟩ := readV _ _ _ _ h
  rw [ho, hl]
  exact congrArg (fun x => some (Instr.vadd x)) hd
theorem Encoding.vsub (f : FmtV) : Encoding.Statement (.vsub f) := by
  intro v l h _
  obtain ⟨ho, hl, hd⟩ := readV _ _ _ _ h
  rw [ho, hl]
  exact congrArg (fun x => some (Instr.vsub x)) hd
theorem Encoding.vadds (f : FmtV) : Encoding.Statement (.vadds f) := by
  intro v l h _
  obtain ⟨ho, hl, hd⟩ := readV _ _ _ _ h
  rw [ho, hl]
  exact congrArg (fun x => some (Instr.vadds x)) hd
theorem Encoding.vsubs (f : FmtV) : Encoding.Statement (.vsubs f) := by
  intro v l h _
  obtain ⟨ho, hl, hd⟩ := readV _ _ _ _ h
  rw [ho, hl]
  exact congrArg (fun x => some (Instr.vsubs x)) hd
theorem Encoding.vmul (f : FmtV) : Encoding.Statement (.vmul f) := by
  intro v l h _
  obtain ⟨ho, hl, hd⟩ := readV _ _ _ _ h
  rw [ho, hl]
  exact congrArg (fun x => some (Instr.vmul x)) hd
theorem Encoding.vmulh (f : FmtV) : Encoding.Statement (.vmulh f) := by
  intro v l h _
  obtain ⟨ho, hl, hd⟩ := readV _ _ _ _ h
  rw [ho, hl]
  exact congrArg (fun x => some (Instr.vmulh x)) hd
theorem Encoding.vmulhn (f : FmtV) : Encoding.Statement (.vmulhn f) := by
  intro v l h _
  obtain ⟨ho, hl, hd⟩ := readV _ _ _ _ h
  rw [ho, hl]
  exact congrArg (fun x => some (Instr.vmulhn x)) hd
theorem Encoding.vmac (f : FmtV) : Encoding.Statement (.vmac f) := by
  intro v l h _
  obtain ⟨ho, hl, hd⟩ := readV _ _ _ _ h
  rw [ho, hl]
  exact congrArg (fun x => some (Instr.vmac x)) hd
theorem Encoding.vmin (f : FmtV) : Encoding.Statement (.vmin f) := by
  intro v l h _
  obtain ⟨ho, hl, hd⟩ := readV _ _ _ _ h
  rw [ho, hl]
  exact congrArg (fun x => some (Instr.vmin x)) hd
theorem Encoding.vmax (f : FmtV) : Encoding.Statement (.vmax f) := by
  intro v l h _
  obtain ⟨ho, hl, hd⟩ := readV _ _ _ _ h
  rw [ho, hl]
  exact congrArg (fun x => some (Instr.vmax x)) hd
theorem Encoding.vminn (f : FmtV) : Encoding.Statement (.vminn f) := by
  intro v l h _
  obtain ⟨ho, hl, hd⟩ := readV _ _ _ _ h
  rw [ho, hl]
  exact congrArg (fun x => some (Instr.vminn x)) hd
theorem Encoding.vmaxn (f : FmtV) : Encoding.Statement (.vmaxn f) := by
  intro v l h _
  obtain ⟨ho, hl, hd⟩ := readV _ _ _ _ h
  rw [ho, hl]
  exact congrArg (fun x => some (Instr.vmaxn x)) hd
theorem Encoding.vabs (f : FmtV) : Encoding.Statement (.vabs f) := by
  intro v l h _
  obtain ⟨ho, hl, hd⟩ := readV _ _ _ _ h
  rw [ho, hl]
  exact congrArg (fun x => some (Instr.vabs x)) hd
theorem Encoding.vand (f : FmtV) : Encoding.Statement (.vand f) := by
  intro v l h _
  obtain ⟨ho, hl, hd⟩ := readV _ _ _ _ h
  rw [ho, hl]
  exact congrArg (fun x => some (Instr.vand x)) hd
theorem Encoding.vor (f : FmtV) : Encoding.Statement (.vor f) := by
  intro v l h _
  obtain ⟨ho, hl, hd⟩ := readV _ _ _ _ h
  rw [ho, hl]
  exact congrArg (fun x => some (Instr.vor x)) hd
theorem Encoding.vxor (f : FmtV) : Encoding.Statement (.vxor f) := by
  intro v l h _
  obtain ⟨ho, hl, hd⟩ := readV _ _ _ _ h
  rw [ho, hl]
  exact congrArg (fun x => some (Instr.vxor x)) hd
theorem Encoding.vandn (f : FmtV) : Encoding.Statement (.vandn f) := by
  intro v l h _
  obtain ⟨ho, hl, hd⟩ := readV _ _ _ _ h
  rw [ho, hl]
  exact congrArg (fun x => some (Instr.vandn x)) hd
theorem Encoding.vshl (f : FmtV) : Encoding.Statement (.vshl f) := by
  intro v l h _
  obtain ⟨ho, hl, hd⟩ := readV _ _ _ _ h
  rw [ho, hl]
  exact congrArg (fun x => some (Instr.vshl x)) hd
theorem Encoding.vshr (f : FmtV) : Encoding.Statement (.vshr f) := by
  intro v l h _
  obtain ⟨ho, hl, hd⟩ := readV _ _ _ _ h
  rw [ho, hl]
  exact congrArg (fun x => some (Instr.vshr x)) hd
theorem Encoding.vsar (f : FmtV) : Encoding.Statement (.vsar f) := by
  intro v l h _
  obtain ⟨ho, hl, hd⟩ := readV _ _ _ _ h
  rw [ho, hl]
  exact congrArg (fun x => some (Instr.vsar x)) hd
theorem Encoding.vpopc (f : FmtV) : Encoding.Statement (.vpopc f) := by
  intro v l h _
  obtain ⟨ho, hl, hd⟩ := readV _ _ _ _ h
  rw [ho, hl]
  exact congrArg (fun x => some (Instr.vpopc x)) hd
theorem Encoding.vclz (f : FmtV) : Encoding.Statement (.vclz f) := by
  intro v l h _
  obtain ⟨ho, hl, hd⟩ := readV _ _ _ _ h
  rw [ho, hl]
  exact congrArg (fun x => some (Instr.vclz x)) hd
theorem Encoding.vcmp (f : FmtV) : Encoding.Statement (.vcmp f) := by
  intro v l h _
  obtain ⟨ho, hl, hd⟩ := readV _ _ _ _ h
  rw [ho, hl]
  exact congrArg (fun x => some (Instr.vcmp x)) hd
theorem Encoding.vfadd (f : FmtV) : Encoding.Statement (.vfadd f) := by
  intro v l h _
  obtain ⟨ho, hl, hd⟩ := readV _ _ _ _ h
  rw [ho, hl]
  exact congrArg (fun x => some (Instr.vfadd x)) hd
theorem Encoding.vfsub (f : FmtV) : Encoding.Statement (.vfsub f) := by
  intro v l h _
  obtain ⟨ho, hl, hd⟩ := readV _ _ _ _ h
  rw [ho, hl]
  exact congrArg (fun x => some (Instr.vfsub x)) hd
theorem Encoding.vfmul (f : FmtV) : Encoding.Statement (.vfmul f) := by
  intro v l h _
  obtain ⟨ho, hl, hd⟩ := readV _ _ _ _ h
  rw [ho, hl]
  exact congrArg (fun x => some (Instr.vfmul x)) hd
theorem Encoding.vfma (f : FmtV) : Encoding.Statement (.vfma f) := by
  intro v l h _
  obtain ⟨ho, hl, hd⟩ := readV _ _ _ _ h
  rw [ho, hl]
  exact congrArg (fun x => some (Instr.vfma x)) hd
theorem Encoding.vfdiv (f : FmtV) : Encoding.Statement (.vfdiv f) := by
  intro v l h _
  obtain ⟨ho, hl, hd⟩ := readV _ _ _ _ h
  rw [ho, hl]
  exact congrArg (fun x => some (Instr.vfdiv x)) hd
theorem Encoding.vfsqrt (f : FmtV) : Encoding.Statement (.vfsqrt f) := by
  intro v l h _
  obtain ⟨ho, hl, hd⟩ := readV _ _ _ _ h
  rw [ho, hl]
  exact congrArg (fun x => some (Instr.vfsqrt x)) hd
theorem Encoding.vfmin (f : FmtV) : Encoding.Statement (.vfmin f) := by
  intro v l h _
  obtain ⟨ho, hl, hd⟩ := readV _ _ _ _ h
  rw [ho, hl]
  exact congrArg (fun x => some (Instr.vfmin x)) hd
theorem Encoding.vfmax (f : FmtV) : Encoding.Statement (.vfmax f) := by
  intro v l h _
  obtain ⟨ho, hl, hd⟩ := readV _ _ _ _ h
  rw [ho, hl]
  exact congrArg (fun x => some (Instr.vfmax x)) hd
theorem Encoding.vfcmp (f : FmtV) : Encoding.Statement (.vfcmp f) := by
  intro v l h _
  obtain ⟨ho, hl, hd⟩ := readV _ _ _ _ h
  rw [ho, hl]
  exact congrArg (fun x => some (Instr.vfcmp x)) hd
theorem Encoding.vclass (f : FmtV) : Encoding.Statement (.vclass f) := by
  intro v l h _
  obtain ⟨ho, hl, hd⟩ := readV _ _ _ _ h
  rw [ho, hl]
  exact congrArg (fun x => some (Instr.vclass x)) hd
theorem Encoding.vsfu (f : FmtV) : Encoding.Statement (.vsfu f) := by
  intro v l h _
  obtain ⟨ho, hl, hd⟩ := readV _ _ _ _ h
  rw [ho, hl]
  exact congrArg (fun x => some (Instr.vsfu x)) hd
theorem Encoding.vcvt (f : FmtV) : Encoding.Statement (.vcvt f) := by
  intro v l h _
  obtain ⟨ho, hl, hd⟩ := readV _ _ _ _ h
  rw [ho, hl]
  exact congrArg (fun x => some (Instr.vcvt x)) hd
theorem Encoding.vcvtsr (f : FmtV) : Encoding.Statement (.vcvtsr f) := by
  intro v l h _
  obtain ⟨ho, hl, hd⟩ := readV _ _ _ _ h
  rw [ho, hl]
  exact congrArg (fun x => some (Instr.vcvtsr x)) hd
theorem Encoding.vsel (f : FmtV) : Encoding.Statement (.vsel f) := by
  intro v l h _
  obtain ⟨ho, hl, hd⟩ := readV _ _ _ _ h
  rw [ho, hl]
  exact congrArg (fun x => some (Instr.vsel x)) hd
theorem Encoding.vmov (f : FmtV) : Encoding.Statement (.vmov f) := by
  intro v l h _
  obtain ⟨ho, hl, hd⟩ := readV _ _ _ _ h
  rw [ho, hl]
  exact congrArg (fun x => some (Instr.vmov x)) hd
theorem Encoding.viota (f : FmtV) : Encoding.Statement (.viota f) := by
  intro v l h _
  obtain ⟨ho, hl, hd⟩ := readV _ _ _ _ h
  rw [ho, hl]
  exact congrArg (fun x => some (Instr.viota x)) hd
theorem Encoding.vext (f : FmtV) : Encoding.Statement (.vext f) := by
  intro v l h _
  obtain ⟨ho, hl, hd⟩ := readV _ _ _ _ h
  rw [ho, hl]
  exact congrArg (fun x => some (Instr.vext x)) hd
theorem Encoding.vins (f : FmtV) : Encoding.Statement (.vins f) := by
  intro v l h _
  obtain ⟨ho, hl, hd⟩ := readV _ _ _ _ h
  rw [ho, hl]
  exact congrArg (fun x => some (Instr.vins x)) hd
theorem Encoding.vperm (f : FmtV) : Encoding.Statement (.vperm f) := by
  intro v l h _
  obtain ⟨ho, hl, hd⟩ := readV _ _ _ _ h
  rw [ho, hl]
  exact congrArg (fun x => some (Instr.vperm x)) hd
theorem Encoding.vslup (f : FmtV) : Encoding.Statement (.vslup f) := by
  intro v l h _
  obtain ⟨ho, hl, hd⟩ := readV _ _ _ _ h
  rw [ho, hl]
  exact congrArg (fun x => some (Instr.vslup x)) hd
theorem Encoding.vsldn (f : FmtV) : Encoding.Statement (.vsldn f) := by
  intro v l h _
  obtain ⟨ho, hl, hd⟩ := readV _ _ _ _ h
  rw [ho, hl]
  exact congrArg (fun x => some (Instr.vsldn x)) hd
theorem Encoding.vcomp (f : FmtV) : Encoding.Statement (.vcomp f) := by
  intro v l h _
  obtain ⟨ho, hl, hd⟩ := readV _ _ _ _ h
  rw [ho, hl]
  exact congrArg (fun x => some (Instr.vcomp x)) hd
theorem Encoding.vexpd (f : FmtV) : Encoding.Statement (.vexpd f) := by
  intro v l h _
  obtain ⟨ho, hl, hd⟩ := readV _ _ _ _ h
  rw [ho, hl]
  exact congrArg (fun x => some (Instr.vexpd x)) hd
theorem Encoding.vrsum (f : FmtV) : Encoding.Statement (.vrsum f) := by
  intro v l h _
  obtain ⟨ho, hl, hd⟩ := readV _ _ _ _ h
  rw [ho, hl]
  exact congrArg (fun x => some (Instr.vrsum x)) hd
theorem Encoding.vrmax (f : FmtV) : Encoding.Statement (.vrmax f) := by
  intro v l h _
  obtain ⟨ho, hl, hd⟩ := readV _ _ _ _ h
  rw [ho, hl]
  exact congrArg (fun x => some (Instr.vrmax x)) hd
theorem Encoding.vrmin (f : FmtV) : Encoding.Statement (.vrmin f) := by
  intro v l h _
  obtain ⟨ho, hl, hd⟩ := readV _ _ _ _ h
  rw [ho, hl]
  exact congrArg (fun x => some (Instr.vrmin x)) hd
theorem Encoding.vrfsum (f : FmtV) : Encoding.Statement (.vrfsum f) := by
  intro v l h _
  obtain ⟨ho, hl, hd⟩ := readV _ _ _ _ h
  rw [ho, hl]
  exact congrArg (fun x => some (Instr.vrfsum x)) hd
theorem Encoding.vrfmax (f : FmtV) : Encoding.Statement (.vrfmax f) := by
  intro v l h _
  obtain ⟨ho, hl, hd⟩ := readV _ _ _ _ h
  rw [ho, hl]
  exact congrArg (fun x => some (Instr.vrfmax x)) hd
theorem Encoding.vrfmin (f : FmtV) : Encoding.Statement (.vrfmin f) := by
  intro v l h _
  obtain ⟨ho, hl, hd⟩ := readV _ _ _ _ h
  rw [ho, hl]
  exact congrArg (fun x => some (Instr.vrfmin x)) hd
theorem Encoding.mlog (f : FmtV) : Encoding.Statement (.mlog f) := by
  intro v l h _
  obtain ⟨ho, hl, hd⟩ := readV _ _ _ _ h
  rw [ho, hl]
  exact congrArg (fun x => some (Instr.mlog x)) hd
theorem Encoding.mpop (f : FmtV) : Encoding.Statement (.mpop f) := by
  intro v l h _
  obtain ⟨ho, hl, hd⟩ := readV _ _ _ _ h
  rw [ho, hl]
  exact congrArg (fun x => some (Instr.mpop x)) hd
theorem Encoding.mfirst (f : FmtV) : Encoding.Statement (.mfirst f) := by
  intro v l h _
  obtain ⟨ho, hl, hd⟩ := readV _ _ _ _ h
  rw [ho, hl]
  exact congrArg (fun x => some (Instr.mfirst x)) hd
theorem Encoding.msbf (f : FmtV) : Encoding.Statement (.msbf f) := by
  intro v l h _
  obtain ⟨ho, hl, hd⟩ := readV _ _ _ _ h
  rw [ho, hl]
  exact congrArg (fun x => some (Instr.msbf x)) hd
theorem Encoding.msif (f : FmtV) : Encoding.Statement (.msif f) := by
  intro v l h _
  obtain ⟨ho, hl, hd⟩ := readV _ _ _ _ h
  rw [ho, hl]
  exact congrArg (fun x => some (Instr.msif x)) hd
theorem Encoding.msof (f : FmtV) : Encoding.Statement (.msof f) := by
  intro v l h _
  obtain ⟨ho, hl, hd⟩ := readV _ _ _ _ h
  rw [ho, hl]
  exact congrArg (fun x => some (Instr.msof x)) hd
theorem Encoding.mset (f : FmtV) : Encoding.Statement (.mset f) := by
  intro v l h _
  obtain ⟨ho, hl, hd⟩ := readV _ _ _ _ h
  rw [ho, hl]
  exact congrArg (fun x => some (Instr.mset x)) hd
theorem Encoding.vdot (f : FmtV) : Encoding.Statement (.vdot f) := by
  intro v l h _
  obtain ⟨ho, hl, hd⟩ := readV _ _ _ _ h
  rw [ho, hl]
  exact congrArg (fun x => some (Instr.vdot x)) hd
theorem Encoding.vwmac (f : FmtV) : Encoding.Statement (.vwmac f) := by
  intro v l h _
  obtain ⟨ho, hl, hd⟩ := readV _ _ _ _ h
  rw [ho, hl]
  exact congrArg (fun x => some (Instr.vwmac x)) hd
theorem Encoding.vrng (f : FmtV) : Encoding.Statement (.vrng f) := by
  intro v l h _
  obtain ⟨ho, hl, hd⟩ := readV _ _ _ _ h
  rw [ho, hl]
  exact congrArg (fun x => some (Instr.vrng x)) hd
theorem Encoding.vld (f : FmtW) : Encoding.Statement (.vld f) := by
  intro v l h _
  obtain ⟨ho, hl, hd⟩ := readW _ _ _ _ h
  rw [ho, hl]
  exact congrArg (fun x => some (Instr.vld x)) hd
theorem Encoding.vlds (f : FmtW) : Encoding.Statement (.vlds f) := by
  intro v l h _
  obtain ⟨ho, hl, hd⟩ := readW _ _ _ _ h
  rw [ho, hl]
  exact congrArg (fun x => some (Instr.vlds x)) hd
theorem Encoding.vldx (f : FmtW) : Encoding.Statement (.vldx f) := by
  intro v l h _
  obtain ⟨ho, hl, hd⟩ := readW _ _ _ _ h
  rw [ho, hl]
  exact congrArg (fun x => some (Instr.vldx x)) hd
theorem Encoding.vldff (f : FmtW) : Encoding.Statement (.vldff f) := by
  intro v l h _
  obtain ⟨ho, hl, hd⟩ := readW _ _ _ _ h
  rw [ho, hl]
  exact congrArg (fun x => some (Instr.vldff x)) hd
theorem Encoding.vst (f : FmtW) : Encoding.Statement (.vst f) := by
  intro v l h _
  obtain ⟨ho, hl, hd⟩ := readW _ _ _ _ h
  rw [ho, hl]
  exact congrArg (fun x => some (Instr.vst x)) hd
theorem Encoding.vsts (f : FmtW) : Encoding.Statement (.vsts f) := by
  intro v l h _
  obtain ⟨ho, hl, hd⟩ := readW _ _ _ _ h
  rw [ho, hl]
  exact congrArg (fun x => some (Instr.vsts x)) hd
theorem Encoding.vstx (f : FmtW) : Encoding.Statement (.vstx f) := by
  intro v l h _
  obtain ⟨ho, hl, hd⟩ := readW _ _ _ _ h
  rw [ho, hl]
  exact congrArg (fun x => some (Instr.vstx x)) hd
theorem Encoding.vamoadd (f : FmtW) : Encoding.Statement (.vamoadd f) := by
  intro v l h _
  obtain ⟨ho, hl, hd⟩ := readW _ _ _ _ h
  rw [ho, hl]
  exact congrArg (fun x => some (Instr.vamoadd x)) hd
theorem Encoding.vtld (f : FmtW) : Encoding.Statement (.vtld f) := by
  intro v l h _
  obtain ⟨ho, hl, hd⟩ := readW _ _ _ _ h
  rw [ho, hl]
  exact congrArg (fun x => some (Instr.vtld x)) hd
theorem Encoding.vtst (f : FmtW) : Encoding.Statement (.vtst f) := by
  intro v l h _
  obtain ⟨ho, hl, hd⟩ := readW _ _ _ _ h
  rw [ho, hl]
  exact congrArg (fun x => some (Instr.vtst x)) hd
theorem Encoding.tshapeLo (f : FmtT) : Encoding.Statement (.tshapeLo f) := by
  intro v l h hw
  obtain ⟨ho, hl, hd⟩ := readT _ _ _ _ h
  rw [ho, hl]
  replace hw : (f.ta == 0 && f.tb == 0 && f.tc == 0 && f.aux == 0 && f.litOk && f.td < 32 && f.mode == 0) = true := hw
  simp only [Bool.and_eq_true, beq_iff_eq] at hw
  show some ((fun f : FmtT => if f.mode == 0 then Instr.tshapeLo f else Instr.tshapeHi f) (decT v f.lit)) = _
  rw [hd]
  simp [hw]
theorem Encoding.tshapeHi (f : FmtT) : Encoding.Statement (.tshapeHi f) := by
  intro v l h hw
  obtain ⟨ho, hl, hd⟩ := readT _ _ _ _ h
  rw [ho, hl]
  replace hw : (f.ta == 0 && f.tb == 0 && f.tc == 0 && f.aux == 0 && f.litOk && f.td < 32 && f.mode == 1) = true := hw
  simp only [Bool.and_eq_true, beq_iff_eq] at hw
  show some ((fun f : FmtT => if f.mode == 0 then Instr.tshapeLo f else Instr.tshapeHi f) (decT v f.lit)) = _
  rw [hd]
  simp [hw]
theorem Encoding.tdecl (f : FmtT) : Encoding.Statement (.tdecl f) := by
  intro v l h _
  obtain ⟨ho, hl, hd⟩ := readT _ _ _ _ h
  rw [ho, hl]
  exact congrArg (fun x => some (Instr.tdecl x)) hd
theorem Encoding.tfree (f : FmtT) : Encoding.Statement (.tfree f) := by
  intro v l h _
  obtain ⟨ho, hl, hd⟩ := readT _ _ _ _ h
  rw [ho, hl]
  exact congrArg (fun x => some (Instr.tfree x)) hd
theorem Encoding.tview (f : FmtT) : Encoding.Statement (.tview f) := by
  intro v l h _
  obtain ⟨ho, hl, hd⟩ := readT _ _ _ _ h
  rw [ho, hl]
  exact congrArg (fun x => some (Instr.tview x)) hd
theorem Encoding.twait (f : FmtT) : Encoding.Statement (.twait f) := by
  intro v l h hw
  obtain ⟨ho, hl, hd⟩ := readT _ _ _ _ h
  rw [ho, hl]
  replace hw : (f.ta == 0 && f.tb == 0 && f.tc == 0 && f.xs == 0 && f.aux == 0 && f.noImm && f.mode == 0) = true := hw
  simp only [Bool.and_eq_true, beq_iff_eq] at hw
  show some ((fun f : FmtT => if f.mode == 0 then Instr.twait f else Instr.twaitAll f) (decT v f.lit)) = _
  rw [hd]
  simp [hw]
theorem Encoding.twaitAll (f : FmtT) : Encoding.Statement (.twaitAll f) := by
  intro v l h hw
  obtain ⟨ho, hl, hd⟩ := readT _ _ _ _ h
  rw [ho, hl]
  replace hw : (f.td == 0 && f.ta == 0 && f.tb == 0 && f.tc == 0 && f.xs == 0 && f.aux == 0 && f.noImm && f.mode == 1) = true := hw
  simp only [Bool.and_eq_true, beq_iff_eq] at hw
  show some ((fun f : FmtT => if f.mode == 0 then Instr.twait f else Instr.twaitAll f) (decT v f.lit)) = _
  rw [hd]
  simp [hw]
theorem Encoding.twaitComplete (h : Nat) : Encoding.Statement (.twaitComplete h) := nofun
theorem Encoding.tstat (f : FmtT) : Encoding.Statement (.tstat f) := by
  intro v l h _
  obtain ⟨ho, hl, hd⟩ := readT _ _ _ _ h
  rw [ho, hl]
  exact congrArg (fun x => some (Instr.tstat x)) hd
theorem Encoding.tsync (f : FmtT) : Encoding.Statement (.tsync f) := by
  intro v l h _
  obtain ⟨ho, hl, hd⟩ := readT _ _ _ _ h
  rw [ho, hl]
  exact congrArg (fun x => some (Instr.tsync x)) hd
theorem Encoding.tsyncComplete (h : Nat) : Encoding.Statement (.tsyncComplete h) := nofun
theorem Encoding.tmma (f : FmtT) : Encoding.Statement (.tmma f) := by
  intro v l h _
  obtain ⟨ho, hl, hd⟩ := readT _ _ _ _ h
  rw [ho, hl]
  exact congrArg (fun x => some (Instr.tmma x)) hd
theorem Encoding.tmmas (f : FmtT) : Encoding.Statement (.tmmas f) := by
  intro v l h _
  obtain ⟨ho, hl, hd⟩ := readT _ _ _ _ h
  rw [ho, hl]
  exact congrArg (fun x => some (Instr.tmmas x)) hd
theorem Encoding.tmmaq (f : FmtT) : Encoding.Statement (.tmmaq f) := by
  intro v l h _
  obtain ⟨ho, hl, hd⟩ := readT _ _ _ _ h
  rw [ho, hl]
  exact congrArg (fun x => some (Instr.tmmaq x)) hd
theorem Encoding.topa (f : FmtT) : Encoding.Statement (.topa f) := by
  intro v l h _
  obtain ⟨ho, hl, hd⟩ := readT _ _ _ _ h
  rw [ho, hl]
  exact congrArg (fun x => some (Instr.topa x)) hd
theorem Encoding.tzero (f : FmtT) : Encoding.Statement (.tzero f) := by
  intro v l h _
  obtain ⟨ho, hl, hd⟩ := readT _ _ _ _ h
  rw [ho, hl]
  exact congrArg (fun x => some (Instr.tzero x)) hd
theorem Encoding.taccl (f : FmtT) : Encoding.Statement (.taccl f) := by
  intro v l h _
  obtain ⟨ho, hl, hd⟩ := readT _ _ _ _ h
  rw [ho, hl]
  exact congrArg (fun x => some (Instr.taccl x)) hd
theorem Encoding.text (f : FmtT) : Encoding.Statement (.text f) := by
  intro v l h _
  obtain ⟨ho, hl, hd⟩ := readT _ _ _ _ h
  rw [ho, hl]
  exact congrArg (fun x => some (Instr.text x)) hd
theorem Encoding.textv (f : FmtT) : Encoding.Statement (.textv f) := by
  intro v l h _
  obtain ⟨ho, hl, hd⟩ := readT _ _ _ _ h
  rw [ho, hl]
  exact congrArg (fun x => some (Instr.textv x)) hd
theorem Encoding.tmap (f : FmtT) : Encoding.Statement (.tmap f) := by
  intro v l h _
  obtain ⟨ho, hl, hd⟩ := readT _ _ _ _ h
  rw [ho, hl]
  exact congrArg (fun x => some (Instr.tmap x)) hd
theorem Encoding.tew (f : FmtT) : Encoding.Statement (.tew f) := by
  intro v l h _
  obtain ⟨ho, hl, hd⟩ := readT _ _ _ _ h
  rw [ho, hl]
  exact congrArg (fun x => some (Instr.tew x)) hd
theorem Encoding.tred (f : FmtT) : Encoding.Statement (.tred f) := by
  intro v l h _
  obtain ⟨ho, hl, hd⟩ := readT _ _ _ _ h
  rw [ho, hl]
  exact congrArg (fun x => some (Instr.tred x)) hd
theorem Encoding.tfill (f : FmtT) : Encoding.Statement (.tfill f) := by
  intro v l h _
  obtain ⟨ho, hl, hd⟩ := readT _ _ _ _ h
  rw [ho, hl]
  exact congrArg (fun x => some (Instr.tfill x)) hd
theorem Encoding.ttrn (f : FmtT) : Encoding.Statement (.ttrn f) := by
  intro v l h _
  obtain ⟨ho, hl, hd⟩ := readT _ _ _ _ h
  rw [ho, hl]
  exact congrArg (fun x => some (Instr.ttrn x)) hd
theorem Encoding.tcvt (f : FmtT) : Encoding.Statement (.tcvt f) := by
  intro v l h _
  obtain ⟨ho, hl, hd⟩ := readT _ _ _ _ h
  rw [ho, hl]
  exact congrArg (fun x => some (Instr.tcvt x)) hd
theorem Encoding.tscale (f : FmtT) : Encoding.Statement (.tscale f) := by
  intro v l h _
  obtain ⟨ho, hl, hd⟩ := readT _ _ _ _ h
  rw [ho, hl]
  exact congrArg (fun x => some (Instr.tscale x)) hd
theorem Encoding.trand (f : FmtT) : Encoding.Statement (.trand f) := by
  intro v l h _
  obtain ⟨ho, hl, hd⟩ := readT _ _ _ _ h
  rw [ho, hl]
  exact congrArg (fun x => some (Instr.trand x)) hd
theorem Encoding.tplane (f : FmtT) : Encoding.Statement (.tplane f) := by
  intro v l h hw
  obtain ⟨ho, hl, hd⟩ := readT _ _ _ _ h
  rw [ho, hl]
  replace hw : (f.tb == 0 && f.tc == 0 && f.xs == 0 && f.aux == 0 && f.noImm && f.mode == 0) = true := hw
  simp only [Bool.and_eq_true, beq_iff_eq] at hw
  show some ((fun f : FmtT => if f.mode == 0 then Instr.tplane f else Instr.tplaneRw f) (decT v f.lit)) = _
  rw [hd]
  simp [hw]
theorem Encoding.tplaneRw (f : FmtT) : Encoding.Statement (.tplaneRw f) := by
  intro v l h hw
  obtain ⟨ho, hl, hd⟩ := readT _ _ _ _ h
  rw [ho, hl]
  replace hw : (f.tb == 0 && f.tc == 0 && f.xs == 0 && f.aux == 0 && f.noImm && f.mode == 1) = true := hw
  simp only [Bool.and_eq_true, beq_iff_eq] at hw
  show some ((fun f : FmtT => if f.mode == 0 then Instr.tplane f else Instr.tplaneRw f) (decT v f.lit)) = _
  rw [hd]
  simp [hw]
theorem Encoding.tpacksMeta (f : FmtT) : Encoding.Statement (.tpacksMeta f) := by
  intro v l h hw
  obtain ⟨ho, hl, hd⟩ := readT _ _ _ _ h
  rw [ho, hl]
  replace hw : (f.tb == 0 && f.tc == 0 && f.xs == 0 && f.aux == 0 && f.noImm && f.mode == 0) = true := hw
  simp only [Bool.and_eq_true, beq_iff_eq] at hw
  show some ((fun f : FmtT => if f.mode == 0 then Instr.tpacksMeta f else Instr.tpacksSel f) (decT v f.lit)) = _
  rw [hd]
  simp [hw]
theorem Encoding.tpacksSel (f : FmtT) : Encoding.Statement (.tpacksSel f) := by
  intro v l h hw
  obtain ⟨ho, hl, hd⟩ := readT _ _ _ _ h
  rw [ho, hl]
  replace hw : (f.tb == 0 && f.xs == 0 && f.aux == 0 && f.noImm && f.mode == 1) = true := hw
  simp only [Bool.and_eq_true, beq_iff_eq] at hw
  show some ((fun f : FmtT => if f.mode == 0 then Instr.tpacksMeta f else Instr.tpacksSel f) (decT v f.lit)) = _
  rw [hd]
  simp [hw]
theorem Encoding.trowv (f : FmtT) : Encoding.Statement (.trowv f) := by
  intro v l h _
  obtain ⟨ho, hl, hd⟩ := readT _ _ _ _ h
  rw [ho, hl]
  exact congrArg (fun x => some (Instr.trowv x)) hd
theorem Encoding.tvrow (f : FmtT) : Encoding.Statement (.tvrow f) := by
  intro v l h _
  obtain ⟨ho, hl, hd⟩ := readT _ _ _ _ h
  rw [ho, hl]
  exact congrArg (fun x => some (Instr.tvrow x)) hd
theorem Encoding.tld (f : FmtC) : Encoding.Statement (.tld f) := by
  intro v l h _
  obtain ⟨ho, hl, hd⟩ := readC _ _ _ _ h
  rw [ho, hl]
  exact congrArg (fun x => some (Instr.tld x)) hd
theorem Encoding.tst (f : FmtC) : Encoding.Statement (.tst f) := by
  intro v l h _
  obtain ⟨ho, hl, hd⟩ := readC _ _ _ _ h
  rw [ho, hl]
  exact congrArg (fun x => some (Instr.tst x)) hd
theorem Encoding.tprobe (f : FmtC) : Encoding.Statement (.tprobe f) := by
  intro v l h _
  obtain ⟨ho, hl, hd⟩ := readC _ _ _ _ h
  rw [ho, hl]
  exact congrArg (fun x => some (Instr.tprobe x)) hd
theorem Encoding.tunpin (f : FmtC) : Encoding.Statement (.tunpin f) := by
  intro v l h _
  obtain ⟨ho, hl, hd⟩ := readC _ _ _ _ h
  rw [ho, hl]
  exact congrArg (fun x => some (Instr.tunpin x)) hd
theorem Encoding.tlda (f : FmtC) : Encoding.Statement (.tlda f) := by
  intro v l h _
  obtain ⟨ho, hl, hd⟩ := readC _ _ _ _ h
  rw [ho, hl]
  exact congrArg (fun x => some (Instr.tlda x)) hd
theorem Encoding.tsta (f : FmtC) : Encoding.Statement (.tsta f) := by
  intro v l h _
  obtain ⟨ho, hl, hd⟩ := readC _ _ _ _ h
  rw [ho, hl]
  exact congrArg (fun x => some (Instr.tsta x)) hd
theorem Encoding.tgath (f : FmtC) : Encoding.Statement (.tgath f) := by
  intro v l h _
  obtain ⟨ho, hl, hd⟩ := readC _ _ _ _ h
  rw [ho, hl]
  exact congrArg (fun x => some (Instr.tgath x)) hd
theorem Encoding.tscat (f : FmtC) : Encoding.Statement (.tscat f) := by
  intro v l h _
  obtain ⟨ho, hl, hd⟩ := readC _ _ _ _ h
  rw [ho, hl]
  exact congrArg (fun x => some (Instr.tscat x)) hd
theorem Encoding.tsend (f : FmtT) : Encoding.Statement (.tsend f) := by
  intro v l h _
  obtain ⟨ho, hl, hd⟩ := readT _ _ _ _ h
  rw [ho, hl]
  exact congrArg (fun x => some (Instr.tsend x)) hd
theorem Encoding.trecv (f : FmtT) : Encoding.Statement (.trecv f) := by
  intro v l h _
  obtain ⟨ho, hl, hd⟩ := readT _ _ _ _ h
  rw [ho, hl]
  exact congrArg (fun x => some (Instr.trecv x)) hd
theorem Encoding.tchain (f : FmtT) : Encoding.Statement (.tchain f) := by
  intro v l h _
  obtain ⟨ho, hl, hd⟩ := readT _ _ _ _ h
  rw [ho, hl]
  exact congrArg (fun x => some (Instr.tchain x)) hd
theorem Encoding.tmcast (f : FmtT) : Encoding.Statement (.tmcast f) := by
  intro v l h _
  obtain ⟨ho, hl, hd⟩ := readT _ _ _ _ h
  rw [ho, hl]
  exact congrArg (fun x => some (Instr.tmcast x)) hd
theorem Encoding.tscan (f : FmtT) : Encoding.Statement (.tscan f) := by
  intro v l h _
  obtain ⟨ho, hl, hd⟩ := readT _ _ _ _ h
  rw [ho, hl]
  exact congrArg (fun x => some (Instr.tscan x)) hd
theorem Encoding.tscanc (f : FmtT) : Encoding.Statement (.tscanc f) := by
  intro v l h _
  obtain ⟨ho, hl, hd⟩ := readT _ _ _ _ h
  rw [ho, hl]
  exact congrArg (fun x => some (Instr.tscanc x)) hd
theorem Encoding.cpass (f : FmtT) : Encoding.Statement (.cpass f) := by
  intro v l h _
  obtain ⟨ho, hl, hd⟩ := readT _ _ _ _ h
  rw [ho, hl]
  exact congrArg (fun x => some (Instr.cpass x)) hd
theorem Encoding.cbar (f : FmtT) : Encoding.Statement (.cbar f) := by
  intro v l h _
  obtain ⟨ho, hl, hd⟩ := readT _ _ _ _ h
  rw [ho, hl]
  exact congrArg (fun x => some (Instr.cbar x)) hd
theorem Encoding.cinit (f : FmtT) : Encoding.Statement (.cinit f) := by
  intro v l h _
  obtain ⟨ho, hl, hd⟩ := readT _ _ _ _ h
  rw [ho, hl]
  exact congrArg (fun x => some (Instr.cinit x)) hd
theorem Encoding.cinitAnswer (h : Nat) : Encoding.Statement (.cinitAnswer h) := nofun
theorem Encoding.barinit (f : FmtQ) : Encoding.Statement (.barinit f) := by
  intro v l h _
  obtain ⟨ho, hl, hd⟩ := readQ _ _ _ _ h
  rw [ho, hl]
  exact congrArg (fun x => some (Instr.barinit x)) hd
theorem Encoding.bararr (f : FmtQ) : Encoding.Statement (.bararr f) := by
  intro v l h _
  obtain ⟨ho, hl, hd⟩ := readQ _ _ _ _ h
  rw [ho, hl]
  exact congrArg (fun x => some (Instr.bararr x)) hd
theorem Encoding.barwait (f : FmtQ) : Encoding.Statement (.barwait f) := by
  intro v l h _
  obtain ⟨ho, hl, hd⟩ := readQ _ _ _ _ h
  rw [ho, hl]
  exact congrArg (fun x => some (Instr.barwait x)) hd
theorem Encoding.barsync (f : FmtQ) : Encoding.Statement (.barsync f) := by
  intro v l h _
  obtain ⟨ho, hl, hd⟩ := readQ _ _ _ _ h
  rw [ho, hl]
  exact congrArg (fun x => some (Instr.barsync x)) hd
theorem Encoding.bartest (f : FmtQ) : Encoding.Statement (.bartest f) := by
  intro v l h _
  obtain ⟨ho, hl, hd⟩ := readQ _ _ _ _ h
  rw [ho, hl]
  exact congrArg (fun x => some (Instr.bartest x)) hd
theorem Encoding.elect (f : FmtQ) : Encoding.Statement (.elect f) := by
  intro v l h _
  obtain ⟨ho, hl, hd⟩ := readQ _ _ _ _ h
  rw [ho, hl]
  exact congrArg (fun x => some (Instr.elect x)) hd
theorem Encoding.gsync (f : FmtQ) : Encoding.Statement (.gsync f) := by
  intro v l h _
  obtain ⟨ho, hl, hd⟩ := readQ _ _ _ _ h
  rw [ho, hl]
  exact congrArg (fun x => some (Instr.gsync x)) hd
theorem Encoding.barrierArrival (n : Nat) : Encoding.Statement (.barrierArrival n) := nofun
theorem Encoding.barrierWaiterResume (h : Nat) : Encoding.Statement (.barrierWaiterResume h) := nofun
theorem Encoding.qbind (f : FmtQ) : Encoding.Statement (.qbind f) := by
  intro v l h hw
  obtain ⟨ho, hl, hd⟩ := readQ _ _ _ _ h
  rw [ho, hl]
  replace hw : (f.a == 0 && f.b == 0 && f.n == 0 && f.litOk && 60 ≤ f.d && f.value < 128) = true := hw
  simp only [Bool.and_eq_true, beq_iff_eq] at hw
  show some ((fun f : FmtQ => if f.n == 0 then Instr.qbind f else Instr.qbindUnbind f) (decQ v f.lit)) = _
  rw [hd]
  simp [hw]
theorem Encoding.qbindUnbind (f : FmtQ) : Encoding.Statement (.qbindUnbind f) := by
  intro v l h hw
  obtain ⟨ho, hl, hd⟩ := readQ _ _ _ _ h
  rw [ho, hl]
  replace hw : (f.a == 0 && f.b == 0 && f.litOk && 60 ≤ f.d && f.n == 1 && f.value == 0) = true := hw
  simp only [Bool.and_eq_true, beq_iff_eq] at hw
  show some ((fun f : FmtQ => if f.n == 0 then Instr.qbind f else Instr.qbindUnbind f) (decQ v f.lit)) = _
  rw [hd]
  simp [hw]
theorem Encoding.qpush (f : FmtQ) : Encoding.Statement (.qpush f) := by
  intro v l h _
  obtain ⟨ho, hl, hd⟩ := readQ _ _ _ _ h
  rw [ho, hl]
  exact congrArg (fun x => some (Instr.qpush x)) hd
theorem Encoding.qpop (f : FmtQ) : Encoding.Statement (.qpop f) := by
  intro v l h _
  obtain ⟨ho, hl, hd⟩ := readQ _ _ _ _ h
  rw [ho, hl]
  exact congrArg (fun x => some (Instr.qpop x)) hd
theorem Encoding.qtry (f : FmtQ) : Encoding.Statement (.qtry f) := by
  intro v l h _
  obtain ⟨ho, hl, hd⟩ := readQ _ _ _ _ h
  rw [ho, hl]
  exact congrArg (fun x => some (Instr.qtry x)) hd
theorem Encoding.qtake (f : FmtQ) : Encoding.Statement (.qtake f) := by
  intro v l h _
  obtain ⟨ho, hl, hd⟩ := readQ _ _ _ _ h
  rw [ho, hl]
  exact congrArg (fun x => some (Instr.qtake x)) hd
theorem Encoding.qcnt (f : FmtQ) : Encoding.Statement (.qcnt f) := by
  intro v l h _
  obtain ⟨ho, hl, hd⟩ := readQ _ _ _ _ h
  rw [ho, hl]
  exact congrArg (fun x => some (Instr.qcnt x)) hd
theorem Encoding.spawn (f : FmtQ) : Encoding.Statement (.spawn f) := by
  intro v l h _
  obtain ⟨ho, hl, hd⟩ := readQ _ _ _ _ h
  rw [ho, hl]
  exact congrArg (fun x => some (Instr.spawn x)) hd
theorem Encoding.queuePushAccept (n : Nat) : Encoding.Statement (.queuePushAccept n) := nofun
theorem Encoding.queueWaitPushServed (cluster : Nat) (q : Nat) : Encoding.Statement (.queueWaitPushServed cluster q) := nofun
theorem Encoding.queueWaitPopServed (cluster : Nat) (q : Nat) : Encoding.Statement (.queueWaitPopServed cluster q) := nofun
theorem Encoding.refillBatchStart (cluster : Nat) (q : Nat) : Encoding.Statement (.refillBatchStart cluster q) := nofun
theorem Encoding.refillBatchLand (cluster : Nat) (q : Nat) : Encoding.Statement (.refillBatchLand cluster q) := nofun
theorem Encoding.strip (f : FmtQ) : Encoding.Statement (.strip f) := by
  intro v l h _
  obtain ⟨ho, hl, hd⟩ := readQ _ _ _ _ h
  rw [ho, hl]
  exact congrArg (fun x => some (Instr.strip x)) hd
theorem Encoding.fork (f : FmtY) : Encoding.Statement (.fork f) := by
  intro v l h _
  obtain ⟨ho, hl, hd⟩ := readY _ _ _ _ h
  rw [ho, hl]
  exact congrArg (fun x => some (Instr.fork x)) hd
theorem Encoding.forkChildPlace (n : Nat) : Encoding.Statement (.forkChildPlace n) := nofun
theorem Encoding.sync (f : FmtQ) : Encoding.Statement (.sync f) := by
  intro v l h _
  obtain ⟨ho, hl, hd⟩ := readQ _ _ _ _ h
  rw [ho, hl]
  exact congrArg (fun x => some (Instr.sync x)) hd
theorem Encoding.taskend (f : FmtQ) : Encoding.Statement (.taskend f) := by
  intro v l h _
  obtain ⟨ho, hl, hd⟩ := readQ _ _ _ _ h
  rw [ho, hl]
  exact congrArg (fun x => some (Instr.taskend x)) hd
theorem Encoding.parentResume (n : Nat) : Encoding.Statement (.parentResume n) := nofun
theorem Encoding.stgput (f : FmtQ) : Encoding.Statement (.stgput f) := by
  intro v l h _
  obtain ⟨ho, hl, hd⟩ := readQ _ _ _ _ h
  rw [ho, hl]
  exact congrArg (fun x => some (Instr.stgput x)) hd
theorem Encoding.stgget (f : FmtQ) : Encoding.Statement (.stgget f) := by
  intro v l h _
  obtain ⟨ho, hl, hd⟩ := readQ _ _ _ _ h
  rw [ho, hl]
  exact congrArg (fun x => some (Instr.stgget x)) hd
theorem Encoding.stageQueueClose (cluster : Nat) (q : Nat) : Encoding.Statement (.stageQueueClose cluster q) := nofun
theorem Encoding.evsig (f : FmtQ) : Encoding.Statement (.evsig f) := by
  intro v l h _
  obtain ⟨ho, hl, hd⟩ := readQ _ _ _ _ h
  rw [ho, hl]
  exact congrArg (fun x => some (Instr.evsig x)) hd
theorem Encoding.evwait (f : FmtQ) : Encoding.Statement (.evwait f) := by
  intro v l h _
  obtain ⟨ho, hl, hd⟩ := readQ _ _ _ _ h
  rw [ho, hl]
  exact congrArg (fun x => some (Instr.evwait x)) hd
theorem Encoding.evwaitSatisfied (h : Nat) : Encoding.Statement (.evwaitSatisfied h) := nofun
theorem Encoding.signal (f : FmtQ) : Encoding.Statement (.signal f) := by
  intro v l h hw
  obtain ⟨ho, hl, hd⟩ := readQ _ _ _ _ h
  rw [ho, hl]
  replace hw : (f.d == 0 && f.litOk && f.n == 0) = true := hw
  simp only [Bool.and_eq_true, beq_iff_eq] at hw
  show some ((fun f : FmtQ => if f.n == 0 then Instr.signal f else Instr.signalAdd f) (decQ v f.lit)) = _
  rw [hd]
  simp [hw]
theorem Encoding.signalAdd (f : FmtQ) : Encoding.Statement (.signalAdd f) := by
  intro v l h hw
  obtain ⟨ho, hl, hd⟩ := readQ _ _ _ _ h
  rw [ho, hl]
  replace hw : (f.d == 0 && f.litOk && f.n == 1) = true := hw
  simp only [Bool.and_eq_true, beq_iff_eq] at hw
  show some ((fun f : FmtQ => if f.n == 0 then Instr.signal f else Instr.signalAdd f) (decQ v f.lit)) = _
  rw [hd]
  simp [hw]
theorem Encoding.time (f : FmtQ) : Encoding.Statement (.time f) := by
  intro v l h _
  obtain ⟨ho, hl, hd⟩ := readQ _ _ _ _ h
  rw [ho, hl]
  exact congrArg (fun x => some (Instr.time x)) hd
theorem Encoding.getc (f : FmtY) : Encoding.Statement (.getc f) := by
  intro v l h _
  obtain ⟨ho, hl, hd⟩ := readY _ _ _ _ h
  rw [ho, hl]
  exact congrArg (fun x => some (Instr.getc x)) hd
theorem Encoding.setc (f : FmtY) : Encoding.Statement (.setc f) := by
  intro v l h _
  obtain ⟨ho, hl, hd⟩ := readY _ _ _ _ h
  rw [ho, hl]
  exact congrArg (fun x => some (Instr.setc x)) hd
theorem Encoding.eret (f : FmtY) : Encoding.Statement (.eret f) := by
  intro v l h _
  obtain ⟨ho, hl, hd⟩ := readY _ _ _ _ h
  rw [ho, hl]
  exact congrArg (fun x => some (Instr.eret x)) hd
theorem Encoding.bankcfg (f : FmtY) : Encoding.Statement (.bankcfg f) := by
  intro v l h _
  obtain ⟨ho, hl, hd⟩ := readY _ _ _ _ h
  rw [ho, hl]
  exact congrArg (fun x => some (Instr.bankcfg x)) hd
theorem Encoding.bankSwitchFinish (core : Nat) (bank : Nat) : Encoding.Statement (.bankSwitchFinish core bank) := nofun
theorem Encoding.l2cfg (f : FmtY) : Encoding.Statement (.l2cfg f) := by
  intro v l h _
  obtain ⟨ho, hl, hd⟩ := readY _ _ _ _ h
  rw [ho, hl]
  exact congrArg (fun x => some (Instr.l2cfg x)) hd
theorem Encoding.l2cfgComplete (stack : Nat) : Encoding.Statement (.l2cfgComplete stack) := nofun
theorem Encoding.tlbinvRange (f : FmtY) : Encoding.Statement (.tlbinvRange f) := by
  intro v l h hw
  obtain ⟨ho, hl, hd⟩ := readY _ _ _ _ h
  rw [ho, hl]
  replace hw : (f.noImm && f.c == 0) = true := hw
  simp only [Bool.and_eq_true, beq_iff_eq] at hw
  show some ((fun f : FmtY => if f.c == 0 then Instr.tlbinvRange f else Instr.tlbinvAll f) (decY v f.lit)) = _
  rw [hd]
  simp [hw]
theorem Encoding.tlbinvAll (f : FmtY) : Encoding.Statement (.tlbinvAll f) := by
  intro v l h hw
  obtain ⟨ho, hl, hd⟩ := readY _ _ _ _ h
  rw [ho, hl]
  replace hw : (f.noImm && f.c == 1) = true := hw
  simp only [Bool.and_eq_true, beq_iff_eq] at hw
  show some ((fun f : FmtY => if f.c == 0 then Instr.tlbinvRange f else Instr.tlbinvAll f) (decY v f.lit)) = _
  rw [hd]
  simp [hw]
theorem Encoding.invalidationComplete (n : Nat) : Encoding.Statement (.invalidationComplete n) := nofun
theorem Encoding.ctxsave (f : FmtY) : Encoding.Statement (.ctxsave f) := by
  intro v l h _
  obtain ⟨ho, hl, hd⟩ := readY _ _ _ _ h
  rw [ho, hl]
  exact congrArg (fun x => some (Instr.ctxsave x)) hd
theorem Encoding.ctxload (f : FmtY) : Encoding.Statement (.ctxload f) := by
  intro v l h _
  obtain ⟨ho, hl, hd⟩ := readY _ _ _ _ h
  rw [ho, hl]
  exact congrArg (fun x => some (Instr.ctxload x)) hd
theorem Encoding.halt (f : FmtY) : Encoding.Statement (.halt f) := by
  intro v l h _
  obtain ⟨ho, hl, hd⟩ := readY _ _ _ _ h
  rw [ho, hl]
  exact congrArg (fun x => some (Instr.halt x)) hd
theorem Encoding.suspend (f : FmtY) : Encoding.Statement (.suspend f) := by
  intro v l h _
  obtain ⟨ho, hl, hd⟩ := readY _ _ _ _ h
  rw [ho, hl]
  exact congrArg (fun x => some (Instr.suspend x)) hd
theorem Encoding.resumeb (f : FmtY) : Encoding.Statement (.resumeb f) := by
  intro v l h _
  obtain ⟨ho, hl, hd⟩ := readY _ _ _ _ h
  rw [ho, hl]
  exact congrArg (fun x => some (Instr.resumeb x)) hd
theorem Encoding.trace (f : FmtY) : Encoding.Statement (.trace f) := by
  intro v l h _
  obtain ⟨ho, hl, hd⟩ := readY _ _ _ _ h
  rw [ho, hl]
  exact congrArg (fun x => some (Instr.trace x)) hd
theorem Encoding.probev (f : FmtY) : Encoding.Statement (.probev f) := by
  intro v l h _
  obtain ⟨ho, hl, hd⟩ := readY _ _ _ _ h
  rw [ho, hl]
  exact congrArg (fun x => some (Instr.probev x)) hd
theorem Encoding.nbrd (f : FmtY) : Encoding.Statement (.nbrd f) := by
  intro v l h _
  obtain ⟨ho, hl, hd⟩ := readY _ _ _ _ h
  rw [ho, hl]
  exact congrArg (fun x => some (Instr.nbrd x)) hd
theorem Encoding.scrub (f : FmtY) : Encoding.Statement (.scrub f) := by
  intro v l h _
  obtain ⟨ho, hl, hd⟩ := readY _ _ _ _ h
  rw [ho, hl]
  exact congrArg (fun x => some (Instr.scrub x)) hd
theorem Encoding.measure (f : FmtY) : Encoding.Statement (.measure f) := by
  intro v l h _
  obtain ⟨ho, hl, hd⟩ := readY _ _ _ _ h
  rw [ho, hl]
  exact congrArg (fun x => some (Instr.measure x)) hd
theorem Encoding.measurementExtend (n : Nat) : Encoding.Statement (.measurementExtend n) := nofun
theorem Encoding.tileAccept (h : Nat) : Encoding.Statement (.tileAccept h) := nofun
theorem Encoding.microOpStart (core : Nat) (q : EngineQ) (n : Nat) : Encoding.Statement (.microOpStart core q n) := nofun
theorem Encoding.microOpFinish (core : Nat) (q : EngineQ) : Encoding.Statement (.microOpFinish core q) := nofun
theorem Encoding.copyTranslatePage (h : Nat) : Encoding.Statement (.copyTranslatePage h) := nofun
theorem Encoding.tileRetire (h : Nat) : Encoding.Statement (.tileRetire h) := nofun
theorem Encoding.tileTrapTaken (h : Nat) : Encoding.Statement (.tileTrapTaken h) := nofun
theorem Encoding.translateService (h : Nat) : Encoding.Statement (.translateService h) := nofun
theorem Encoding.translationLockResume (h : Nat) : Encoding.Statement (.translationLockResume h) := nofun
theorem Encoding.saffronCarryArrival (n : Nat) : Encoding.Statement (.saffronCarryArrival n) := nofun
theorem Encoding.saffronCompletionArrival (n : Nat) : Encoding.Statement (.saffronCompletionArrival n) := nofun
theorem Encoding.streamHeaderArrival (n : Nat) : Encoding.Statement (.streamHeaderArrival n) := nofun
theorem Encoding.streamGroupArrival (n : Nat) : Encoding.Statement (.streamGroupArrival n) := nofun
theorem Encoding.storePerformL1 (h : Nat) : Encoding.Statement (.storePerformL1 h) := nofun
theorem Encoding.l1FillArrival (core : Nat) : Encoding.Statement (.l1FillArrival core) := nofun
theorem Encoding.homeAccess (stack : Nat) : Encoding.Statement (.homeAccess stack) := nofun
theorem Encoding.sliceMissFill (stack : Nat) (line : Nat) : Encoding.Statement (.sliceMissFill stack line) := nofun
theorem Encoding.responseArrival (core : Nat) : Encoding.Statement (.responseArrival core) := nofun
theorem Encoding.cloveMarker (stack : Nat) : Encoding.Statement (.cloveMarker stack) := nofun
theorem Encoding.cloveAckArrival (core : Nat) : Encoding.Statement (.cloveAckArrival core) := nofun
theorem Encoding.hostFlushReadComplete (h : Nat) : Encoding.Statement (.hostFlushReadComplete h) := nofun
theorem Encoding.maceLockRequest (stack : Nat) : Encoding.Statement (.maceLockRequest stack) := nofun
theorem Encoding.maceGrant (core : Nat) : Encoding.Statement (.maceGrant core) := nofun
theorem Encoding.maceRelease (stack : Nat) : Encoding.Statement (.maceRelease stack) := nofun
theorem Encoding.gatherRequest (stack : Nat) : Encoding.Statement (.gatherRequest stack) := nofun
theorem Encoding.gatherForwardGroup (stack : Nat) : Encoding.Statement (.gatherForwardGroup stack) := nofun
theorem Encoding.gatherResult (core : Nat) : Encoding.Statement (.gatherResult core) := nofun
theorem Encoding.meshPacketForward (die : Nat) (col : Nat) (row : Nat) (out : Port) : Encoding.Statement (.meshPacketForward die col row out) := nofun
theorem Encoding.dieCacheLookup (n : Nat) : Encoding.Statement (.dieCacheLookup n) := nofun
theorem Encoding.pageWalk (n : Nat) : Encoding.Statement (.pageWalk n) := nofun
theorem Encoding.pageWalkComplete (n : Nat) : Encoding.Statement (.pageWalkComplete n) := nofun
theorem Encoding.icacheDropRequest (core : Nat) : Encoding.Statement (.icacheDropRequest core) := nofun
theorem Encoding.icacheDropAck (core : Nat) : Encoding.Statement (.icacheDropAck core) := nofun
theorem Encoding.launch (q : Nat) : Encoding.Statement (.launch q) := nofun
theorem Encoding.gangPlacement (launch : Nat) : Encoding.Statement (.gangPlacement launch) := nofun
theorem Encoding.hartFree (h : Nat) : Encoding.Statement (.hartFree h) := nofun
theorem Encoding.backpressureEvaluation (cluster : Nat) : Encoding.Statement (.backpressureEvaluation cluster) := nofun
theorem Encoding.clusterRelease (cluster : Nat) : Encoding.Statement (.clusterRelease cluster) := nofun
theorem Encoding.preemptionStarvation (launch : Nat) : Encoding.Statement (.preemptionStarvation launch) := nofun
theorem Encoding.preemptionStop (h : Nat) : Encoding.Statement (.preemptionStop h) := nofun
theorem Encoding.gangRestore (n : Nat) : Encoding.Statement (.gangRestore n) := nofun
theorem Encoding.launchComplete (launch : Nat) : Encoding.Statement (.launchComplete launch) := nofun
theorem Encoding.copy (q : Nat) : Encoding.Statement (.copy q) := nofun
theorem Encoding.fill (q : Nat) : Encoding.Statement (.fill q) := nofun
theorem Encoding.signalCommand (q : Nat) : Encoding.Statement (.signalCommand q) := nofun
theorem Encoding.waitCommand (q : Nat) : Encoding.Statement (.waitCommand q) := nofun
theorem Encoding.waitSatisfied (q : Nat) : Encoding.Statement (.waitSatisfied q) := nofun
theorem Encoding.waitTimeout (q : Nat) : Encoding.Statement (.waitTimeout q) := nofun
theorem Encoding.queueFence (q : Nat) : Encoding.Statement (.queueFence q) := nofun
theorem Encoding.queueFenceSatisfied (q : Nat) : Encoding.Statement (.queueFenceSatisfied q) := nofun
theorem Encoding.loadCode (q : Nat) : Encoding.Statement (.loadCode q) := nofun
theorem Encoding.invalidateRange (q : Nat) : Encoding.Statement (.invalidateRange q) := nofun
theorem Encoding.invalidateIfetch (q : Nat) : Encoding.Statement (.invalidateIfetch q) := nofun
theorem Encoding.invalidateAll (q : Nat) : Encoding.Statement (.invalidateAll q) := nofun
theorem Encoding.contextCreate (q : Nat) : Encoding.Statement (.contextCreate q) := nofun
theorem Encoding.contextModify (q : Nat) : Encoding.Statement (.contextModify q) := nofun
theorem Encoding.contextDestroy (q : Nat) : Encoding.Statement (.contextDestroy q) := nofun
theorem Encoding.commandConsume : Encoding.Statement (.commandConsume) := nofun
theorem Encoding.commandComplete (q : Nat) : Encoding.Statement (.commandComplete q) := nofun
theorem Encoding.dbtail (q : Nat) (be : BitVec 8) (data : Word) : Encoding.Statement (.dbtail q be data) := nofun
theorem Encoding.queueEnable (q : Nat) (be : BitVec 8) (data : Word) : Encoding.Statement (.queueEnable q be data) := nofun
theorem Encoding.queueDisable (q : Nat) : Encoding.Statement (.queueDisable q) := nofun
theorem Encoding.evhead (q : Nat) (be : BitVec 8) (data : Word) : Encoding.Statement (.evhead q be data) := nofun
theorem Encoding.haltedClear (q : Nat) : Encoding.Statement (.haltedClear q) := nofun
theorem Encoding.stggo (be : BitVec 8) : Encoding.Statement (.stggo be) := nofun
theorem Encoding.fabrank (be : BitVec 8) (data : Word) : Encoding.Statement (.fabrank be data) := nofun
theorem Encoding.pwrramp (be : BitVec 8) (data : Word) : Encoding.Statement (.pwrramp be data) := nofun
theorem Encoding.pwrfloor (be : BitVec 8) (data : Word) : Encoding.Statement (.pwrfloor be data) := nofun
theorem Encoding.meshwt (be : BitVec 8) (data : Word) : Encoding.Statement (.meshwt be data) := nofun
theorem Encoding.trcctl (core : Nat) (be : BitVec 8) (data : Word) : Encoding.Statement (.trcctl core be data) := nofun
theorem Encoding.haltreq (h : Nat) : Encoding.Statement (.haltreq h) := nofun
theorem Encoding.haltResume (h : Nat) : Encoding.Statement (.haltResume h) := nofun
theorem Encoding.freezereq (h : Nat) : Encoding.Statement (.freezereq h) := nofun
theorem Encoding.dbgimgSave (h : Nat) (pa : Nat) : Encoding.Statement (.dbgimgSave h pa) := nofun
theorem Encoding.dbgimgLoad (h : Nat) (pa : Nat) : Encoding.Statement (.dbgimgLoad h pa) := nofun
theorem Encoding.registerWrite (win : HostWindow) (off : Nat) (bytes : List (Option Byte)) : Encoding.Statement (.registerWrite win off bytes) := nofun
theorem Encoding.bar2Read (off : Nat) (n : Nat) : Encoding.Statement (.bar2Read off n) := nofun
theorem Encoding.bar2Write (off : Nat) (bytes : List Byte) : Encoding.Statement (.bar2Write off bytes) := nofun
theorem Encoding.sxlFlitReceive (port : Nat) (flit : Flit) : Encoding.Statement (.sxlFlitReceive port flit) := nofun
theorem Encoding.sxlRetry (port : Nat) (seq : Nat) : Encoding.Statement (.sxlRetry port seq) := nofun
theorem Encoding.linkDown (port : Nat) : Encoding.Statement (.linkDown port) := nofun
theorem Encoding.sxlWrite (m : SxlMsg) : Encoding.Statement (.sxlWrite m) := nofun
theorem Encoding.sxlRead (m : SxlMsg) : Encoding.Statement (.sxlRead m) := nofun
theorem Encoding.sxlAtomic (m : SxlMsg) : Encoding.Statement (.sxlAtomic m) := nofun
theorem Encoding.sxlSignal (m : SxlMsg) : Encoding.Statement (.sxlSignal m) := nofun
theorem Encoding.sxlClove (m : SxlMsg) : Encoding.Statement (.sxlClove m) := nofun
theorem Encoding.sxlResp (m : SxlMsg) : Encoding.Statement (.sxlResp m) := nofun
theorem Encoding.sxlAck (m : SxlMsg) : Encoding.Statement (.sxlAck m) := nofun
theorem Encoding.stagger (port : Nat) (m : StaggerMsg) : Encoding.Statement (.stagger port m) := nofun
theorem Encoding.staggerRelease : Encoding.Statement (.staggerRelease) := nofun
theorem Encoding.timesyncExchange (t1 : Nat) (t2 : Nat) (t3 : Nat) : Encoding.Statement (.timesyncExchange t1 t2 t3) := nofun
theorem Encoding.timesync (src : Nat) (t1 : Nat) : Encoding.Statement (.timesync src t1) := nofun
theorem Encoding.governorSample (demand : Nat) : Encoding.Statement (.governorSample demand) := nofun
theorem Encoding.monitorRead (readings : List (Nat × Nat)) : Encoding.Statement (.monitorRead readings) := nofun
theorem Encoding.marginReplan (voff : Nat) (bin : Nat) : Encoding.Statement (.marginReplan voff bin) := nofun
theorem Encoding.clkbinChange : Encoding.Statement (.clkbinChange) := nofun
theorem Encoding.patrolScrub (stack : Nat) (line : Nat) (err : LineError) : Encoding.Statement (.patrolScrub stack line err) := nofun
theorem Encoding.hotRowScrub (stack : Nat) (line : Nat) (err : LineError) : Encoding.Statement (.hotRowScrub stack line err) := nofun
theorem Encoding.scoreHalving : Encoding.Statement (.scoreHalving) := nofun
theorem Encoding.rowRetirement (stack : Nat) (row : Nat) : Encoding.Statement (.rowRetirement stack row) := nofun
theorem Encoding.fuseCounterAdvance (value : Word) (sig : List Byte) : Encoding.Statement (.fuseCounterAdvance value sig) := nofun
theorem Encoding.attestationReport (nonce : List Byte) : Encoding.Statement (.attestationReport nonce) := nofun
theorem Encoding.coldReset (b : BootInput) : Encoding.Statement (.coldReset b) := nofun
theorem Encoding.coreFailureInService (core : Nat) : Encoding.Statement (.coreFailureInService core) := nofun
theorem Encoding.atsInvalidation (pasid : Nat) (page : Nat) : Encoding.Statement (.atsInvalidation pasid page) := nofun
theorem Encoding.pcieLinkTraining (rate : Nat) (width : Nat) : Encoding.Statement (.pcieLinkTraining rate width) := nofun
theorem Encoding.vfEnable (n : Nat) : Encoding.Statement (.vfEnable n) := nofun
theorem Encoding.sxlLinkTraining (port : Nat) (peer : Nat) : Encoding.Statement (.sxlLinkTraining port peer) := nofun
theorem Encoding.rowCopyComplete (stack : Nat) (row : Nat) : Encoding.Statement (.rowCopyComplete stack row) := nofun

end Sys2Proof.Laws
end

