-- ==== Sys2Proof/Tests/Slice0.lean ====
section
/-! SUPPORT. Tests: what each check of WellFormed refuses, words of the spec and what they decode to, one step of an instruction against
the spec's worked examples, and for each statement of Certificates/Slice0 states and operands that meet its hypotheses. -/

namespace Sys2Proof.Tests

open Sys2Proof Sys2Proof.Machine

set_option Elab.async false

/-! ## Small states -/

/-- A block of context 1, launch 1 and gang 1 with one lane group. -/
def blk0 : Block := { placed := true, ctx := 1, launch := 1, gang := 1, groups := [0], freshLanes := false }

/-- A page of 8 KiB at virtual and physical address 0, readable, writable and executable. -/
def page0 : Xlat :=
  { ctx := 1, page := 0, log2 := 13, pa := 0, fmt := 0, srgn := 0, d := true, s := false, x := true, w := true, r := true }

/-- Core 0 with that page in its TLB. -/
def core0 : Core := { tlb := [page0] }

/-- The state in which block `b` runs on hart 0, which is in focus. -/
def on (b : Block) : State := { State.reset with blocks := [(0, b)], cores := [(0, core0)] }

/-- The block with other X registers, by number and value. -/
def regs (l : List (Nat × Word)) (b : Block) : Block := { b with x := l.foldl (fun x e => x.setIfInBounds e.1 e.2) b.x }

/-- The block of hart 0 after an instruction, the reset block where none comes about. -/
def after1 (i : Instr) (s : State) : Block := match exec i s with
  | .next t => t.blkAt 0
  | _ => {}

/-- Fields of the formats. -/
def fa (d a b : BitVec 6) (imm : BitVec 32) : FmtA := { gm := 7, lit := none, d := d, a := a, b := b, imm := imm }
def ff (d a b : BitVec 6) (fn : BitVec 4) (imm : BitVec 28) : FmtF := { gm := 7, lit := none, d := d, a := a, b := b, fn := fn, imm := imm }
def fm (d base index : BitVec 6) (scope : BitVec 2) (off : BitVec 27) : FmtM :=
  { gm := 7, lit := none, d := d, base := base, index := index, scope := scope, shift := 0, off := off }
def ft (td ta tb xs : BitVec 6) (mode : BitVec 4) : FmtT :=
  { gm := 7, lit := none, td := td, ta := ta, tb := tb, tc := 0, xs := xs, aux := 0, mode := mode, imm := 0 }
def fq (d a b : BitVec 6) (n : BitVec 11) (imm : BitVec 21) : FmtQ := { gm := 7, lit := none, d := d, a := a, b := b, n := n, imm := imm }
def fy (d a : BitVec 6) (c : BitVec 12) : FmtY := { gm := 7, lit := none, d := d, a := a, c := c, imm := 0 }
/-- Format V: F32, or another format code, unmasked; VL is VLMAX. -/
def fv (vd va vb vc : BitVec 5) (fmt : BitVec 6) (fn : BitVec 7) : FmtV :=
  { gm := 15, lit := none, vd := vd, va := va, vb := vb, vc := vc, vl := 0, fmt := fmt, rnd := 0, sat := 0, s := 0, xs := 0, fn := fn }
def fw (vd vi : BitVec 5) (base : BitVec 6) (fmt : BitVec 6) (scope : BitVec 2) : FmtW :=
  { gm := 15, lit := none, vd := vd, vi := vi, base := base, stride := 0, vl := 0, fmt := fmt, scope := scope, off := 0 }

/-- A block without bindings binds no register. -/
theorem noneBound : ∀ r : BitVec 6, ({ fifo := Vector.replicate 4 none } : Block).boundTo r = none := by decide

/-- A block without bindings, reads in flight or unretired tile instructions runs what it issues. -/
theorem runs {s : State} (h₁ : s.blk.fifo = Vector.replicate 4 none) (h₂ : s.blk.pend = []) (h₃ : s.blk.trecs = []) (h₄ : s.blk.rep = none)
    (xs : List (BitVec 6)) (h₆ : s.blk.flawX = 0 := by rfl) : Runs s 7 xs :=
  { guard := rfl, noRep := h₄
    unbound := fun r _ => by unfold Block.boundTo; rw [h₁]; exact noneBound r
    ready := fun r _ => by simp [State.xPending, h₂, h₃]
    sound := fun r _ => by simp [h₆] }

/-- The same with tile instructions that write no X register. -/
theorem runs' {s : State} (h₁ : s.blk.fifo = Vector.replicate 4 none) (h₂ : s.blk.pend = []) (h₄ : s.blk.rep = none)
    (xs : List (BitVec 6)) (h₃ : (s.blk.trecs.all fun t => t.xdst.isNone) = true := by decide +kernel)
    (h₆ : s.blk.flawX = 0 := by rfl) : Runs s 7 xs :=
  { guard := rfl, noRep := h₄
    unbound := fun r _ => by unfold Block.boundTo; rw [h₁]; exact noneBound r
    ready := fun r _ => by
      simp only [State.xPending, h₂, List.any_nil, Bool.false_or, Bool.and_eq_false_imp, List.any_eq_false]
      intro _ t ht hx
      have := (List.all_eq_true.mp h₃) t ht
      simp_all
    sound := fun r _ => by simp [h₆] }

theorem vruns {s : State} (h₁ : s.blk.fifo = Vector.replicate 4 none) (h₂ : s.blk.pend = []) (h₃ : s.blk.trecs = []) (h₄ : s.blk.rep = none)
    (h₅ : s.blk.lanes ≠ 0) (xs : List (BitVec 6)) (vs : List (BitVec 5))
    (h₆ : s.blk.flawX = 0 := by rfl) (h₇ : s.blk.flawV = Vector.replicate 32 0 := by rfl)
    (h₈ : s.blk.flawM = Vector.replicate 12 0 := by rfl) : VRuns s xs vs :=
  { lanes := h₅, noRep := h₄, unbound := (runs h₁ h₂ h₃ h₄ xs h₆).unbound, ready := (runs h₁ h₂ h₃ h₄ xs h₆).ready
    landed := fun v _ => by simp [Block.vPending, h₂, h₃]
    sound := ⟨fun r _ => by simp [h₆], fun v _ => by simp [h₇], h₈⟩ }

/-! ## WellFormed: a term that each check refuses -/

/-- A literal beside an immediate that is not 0 (R296). -/
theorem test_lit_and_imm :
    (∀ p ∈ guardedA, (p { fa 0 0 0 1 with lit := some 0 }).wf = false) ∧ (∀ p ∈ guardedF, (p { ff 0 0 0 0 1 with lit := some 0 }).wf = false) ∧
    (∀ p ∈ guardedM, (p { fm 0 0 0 0 1 with lit := some 0 }).wf = false) ∧
    (∀ p ∈ guardedT, (p { ft 0 0 0 0 0 with lit := some 0, imm := 1 }).wf = false) ∧
    (∀ p ∈ guardedQ, (p { fq 0 0 0 0 1 with lit := some 0 }).wf = false) ∧ (∀ p ∈ guardedY, (p { fy 0 0 0 with lit := some 0, imm := 4 }).wf = false) ∧
    ∀ p ∈ vecW, (p { fw 0 0 0 0x05 0 with lit := some 0, off := 1 }).wf = false := by decide +kernel
/-- Format A and B fields that an instruction has no use for, and offsets (R311, R341). -/
theorem test_unused_a :
    (∀ p ∈ ([.clz, .ctz, .popc, .brev, .bswap, .mov, .abs, .callr, .callt, .lclaim, .jmp, .ret, .trap, .wfe, .yield, .nop, .exit, .brk, .lend,
        .lrelease] : List (FmtA → Instr)), (p (fa 0 1 0 0)).wf = false) ∧
    (∀ p ∈ ([.jmp, .ret, .trap, .wfe, .brx, .rep, .yield, .nop, .exit, .brk, .lend, .lrelease] : List (FmtA → Instr)), (p (fa 1 0 0 0)).wf = false) ∧
    (∀ p ∈ ([.rep, .yield, .nop, .exit, .brk, .lend, .lrelease] : List (FmtA → Instr)), (p (fa 0 0 1 0)).wf = false ∧ (p (fa 0 0 0 1)).wf = false) ∧
    (∀ p ∈ ([.br, .call, .loop] : List (FmtB → Instr)),
      (p { gm := 7, a := 0, k := 1, off := 0 }).wf = false ∧ (p { gm := 7, a := 0, k := 0, off := 4 }).wf = false) ∧
    (Instr.br { gm := 7, a := 1, k := 0, off := 8 }).wf = false := by decide +kernel
/-- Function codes, predicates and conversion codes of format A.f (R313, R329 to R339). -/
theorem test_codes_f :
    (∀ p ∈ ([(.lea, 8), (.setp, 12), (.setx, 12), (.fadd true, 7), (.fsub true, 7), (.fmul true, 7), (.fmac true, 7), (.fdiv true, 7), (.fsqrt true, 7),
        (.frnd true, 7), (.fmin true, 1), (.fmax true, 1), (.fsgn true, 3), (.fsetp true, 8), (.fcvt, 7), (.fclass, 2)] :
        List ((FmtF → Instr) × BitVec 4)), (p.1 (ff 0 0 0 p.2 0)).wf = false) ∧
    (∀ p ∈ ([.setp, .plog, .fsetp true] : List (FmtF → Instr)), (p (ff 8 0 0 0 0)).wf = false) ∧ (Instr.plog (ff 0 8 0 0 0)).wf = false ∧
    (Instr.plog (ff 0 0 8 0 0)).wf = false ∧ (Instr.fcvt (ff 0 0x09 0 0 0)).wf = false ∧ (Instr.fcvt (ff 0 0x2C 0 0 0)).wf = false := by
  decide +kernel
/-- Scope 3, fences with operands, cache operations with a scope or a destination (R410). -/
theorem test_memory_fields :
    (∀ p ∈ guardedM, (p (fm 0 0 0 3 0)).wf = false) ∧ (∀ p ∈ amoTable, (p.1 { fm 0 0 0 0 0 with shift := 1 }).wf = false) ∧
    (∀ p ∈ ([.fenceAcq, .fenceRel, .fenceAr, .qfence, .ifence] : List (FmtM → Instr)), (p (fm 1 0 0 0 0)).wf = false ∧ (p (fm 0 1 0 0 0)).wf = false ∧
      (p (fm 0 0 1 0 0)).wf = false ∧ (p (fm 0 0 0 0 32)).wf = false ∧ (p { fm 0 0 0 0 0 with shift := 3 }).wf = false) ∧
    (∀ p ∈ ([.cwb, .cinv, .cflush, .pref, .stpatch, .qfence, .ifence] : List (FmtM → Instr)), (p (fm 0 0 0 1 0)).wf = false) ∧
    (∀ p ∈ ([.cwb, .cinv, .cflush, .pref] : List (FmtM → Instr)), (p (fm 2 0 0 0 0)).wf = false) := by decide +kernel
/-- Format V and W: mask selectors, formats, unused sources, rounding codes, mask registers (R293, R313, R315, R351). -/
theorem test_vector_fields :
    (∀ p ∈ vecV, (p { fv 0 0 0 0 0x05 0 with gm := 12 }).wf = false ∧ (p (fv 0 0 0 0 0x07 0)).wf = false ∧ (p (fv 0 0 0 0 0x05 127)).wf = false ∧
      (p { fv 0 1 0 0 0x10 15 with rnd := 7 }).wf = false ∧ (p { fv 0 0 1 12 0x12 0 with s := 1, xs := 1, lit := some 0 }).wf = false) ∧
    (∀ p ∈ vecW, (p { fw 0 0 0 0x05 0 with gm := 14 }).wf = false ∧ (p (fw 0 0 0 0x16 0)).wf = false ∧ (p (fw 0 0 0 0x05 3)).wf = false ∧
      (p { fw 0 1 0 0x10 0 with stride := 1 }).wf = false) ∧
    (∀ p ∈ ([.mlog, .msbf, .msif, .msof, .mset, .vcmp, .vfcmp] : List (FmtV → Instr)), (p (fv 12 0 0 0 0x05 0)).wf = false) ∧
    (Instr.vldff (fw 0 0 0 0x05 0)).wf = false ∧ (Instr.vamoadd (fw 0 0 0 0x11 0)).wf = false ∧ (Instr.vrfsum { fv 0 0 0 0 0x11 0 with rnd := 5 }).wf = false ∧
    (Instr.vcvt (fv 0 0 0 0 0x11 0x11)).wf = false ∧ (Instr.vcvtsr (fv 0 0 0 0 0x11 0x12)).wf = false ∧ (Instr.vsfu (fv 0 0 0 0 0x10 0)).wf = false ∧
    (Instr.vext { fv 0 0 0 0 0x05 0 with gm := 0 }).wf = false ∧ (Instr.vins { fv 0 0 0 0 0x05 0 with gm := 0, s := 1 }).wf = false ∧
    (Instr.vrsum (fv 0 0 0 8 0x05 0)).wf = false ∧ (Instr.viota (fv 0 0 0 0 0x05 2)).wf = false := by decide +kernel
/-- Tile fields that an instruction has no use for, modes, records, tokens, channels, operators (R375, R377, R421, R433, R436). -/
theorem test_tile_fields :
    (∀ p ∈ guardedT, (p { ft 63 63 63 63 15 with tc := 63, aux := 63, imm := 0 }).wf = (p { ft 63 63 63 63 15 with tc := 63, aux := 63 }).wf) ∧
    (∀ p ∈ ([.tshapeLo, .tshapeHi, .tdecl, .tfree, .tzero, .trand, .tview, .twait, .twaitAll, .tstat, .tsync, .tmma, .tmmaq, .tmmas, .topa, .taccl, .ttrn,
        .text, .tcvt, .tscale, .textv, .tred, .tfill, .tplane, .tplaneRw, .tpacksMeta, .tpacksSel, .trowv, .tvrow, .tsend, .trecv, .tchain,
        .tmcast, .tscan, .tscanc, .cpass, .cbar, .cinit] : List (FmtT → Instr)), (p { ft 63 63 63 63 15 with tc := 63, aux := 63 }).wf = false) ∧
    (∀ p ∈ ([.tmap, .tew] : List (FmtT → Instr)), (p (ft 0 0 0 0 1)).wf = false) ∧ (Instr.tmap (ft 0 0 0 1 0)).wf = false ∧
    (Instr.tew { ft 0 0 0 0 0 with aux := 1 }).wf = false ∧ (Instr.text (ft 0 0 0 0 7)).wf = false ∧ (Instr.tsend { ft 0 0 0 0 0 with aux := 8 }).wf = false ∧
    (Instr.tsend { ft 0 0 0 0 0 with imm := 16 }).wf = false ∧ (Instr.tscan { ft 0 0 0 0 0 with aux := 6 }).wf = false ∧
    (Instr.cinit { ft 0 0 0 0 0 with lit := some 1024 }).wf = false ∧
    (∀ p ∈ ([.tld, .tst, .tgath, .tscat] : List (FmtC → Instr)),
      (p { gm := 7, lit := none, t := 0, base := 0, layout := 0, token := 1, scope := 0, xo := 0, off := 0 }).wf = false) ∧
    (∀ p ∈ ([.tprobe, .tunpin, .tlda, .tsta, .tld, .tst, .tgath, .tscat] : List (FmtC → Instr)),
      (p { gm := 7, lit := none, t := 0, base := 0, layout := 0, token := 1, scope := 3, xo := 0, off := 0 }).wf = false) ∧
    (Instr.tprobe { gm := 7, lit := none, t := 0, base := 0, layout := 0, token := 0, scope := 0, xo := 0, off := 0 }).wf = false := by decide +kernel
/-- Queue, task and system fields: record registers, queue numbers, predicates, control registers, ranges (R441, R289, R457). -/
theorem test_system_fields :
    (∀ p ∈ ([.qpush, .spawn, .stgput] : List (FmtQ → Instr)), (p (fq 0 4 0 0 0)).wf = false ∧ (p (fq 0 56 0 0 0)).wf = false) ∧
    (∀ p ∈ ([.qpop, .qtry, .stgget] : List (FmtQ → Instr)), (p (fq 4 0 0 0 0)).wf = false ∧ (p (fq 56 0 0 0 0)).wf = false) ∧
    (∀ p ∈ ([.qpush, .spawn, .qpop, .qtry, .qcnt, .qtake, .stgput, .stgget, .strip, .gsync, .sync, .taskend, .evsig, .evwait, .signal, .time] :
      List (FmtQ → Instr)), (p (fq 0 0 0 64 1)).wf = false) ∧
    (∀ p ∈ ([.bartest, .elect] : List (FmtQ → Instr)), (p (fq 8 0 0 0 0)).wf = false) ∧
    (∀ p ∈ ([.qtry, .strip, .stgget] : List (FmtQ → Instr)), (p (fq 0 0 8 0 0)).wf = false) ∧ (Instr.qbind (fq 59 0 0 0 0)).wf = false ∧
    (∀ p ∈ ([.barinit, .bararr, .barwait, .barsync] : List (FmtQ → Instr)), (p (fq 1 0 0 0 0)).wf = false) ∧
    (Instr.qbind (fq 60 0 0 0 128)).wf = false ∧ (Instr.qbindUnbind (fq 60 0 0 1 1)).wf = false ∧ (Instr.qtake (fq 0 0 0 0 9)).wf = false ∧
    (Instr.qtake (fq 0 0 0 0 0)).wf = false ∧ (Instr.signalAdd (fq 0 0 0 0 0)).wf = false ∧
    (∀ n ∈ [0x00D, 0x00F, 0x013, 0x01C, 0x029, 0x03C, 0x140, 0xFFF], (Instr.getc (fy 0 0 n)).wf = false ∧ (Instr.setc (fy 0 0 n)).wf = false) ∧
    (∀ p ∈ ([.eret, .halt, .tlbinvRange, .tlbinvAll, .ctxsave, .scrub, .ctxload, .suspend, .resumeb, .trace, .nbrd, .measure, .probev, .l2cfg, .bankcfg,
      .fork] : List (FmtY → Instr)), (p (fy 0 0 64)).wf = false) ∧
    (Instr.bankcfg { fy 0 0 0 with imm := 3 }).wf = false ∧ (Instr.fork { fy 0 0 0 with imm := 4 }).wf = false ∧ (Instr.setc (fy 1 0 0x010)).wf = false := by
  decide +kernel

/-! ## Words that the spec writes out, and what they decode to (R303, R347, R351, R426, R440; a literal in R307) -/

theorem test_decode_scalar :
    decodeInstr 3 0x01B8714200000000 0 = .ok (.mul false (fa 7 5 2 0)) ∧ decodeInstr 3 0x1038604740000000 0 = .ok (.lea (ff 6 1 7 4 0)) ∧
    decodeInstr 3 0x34B8000000000000 0 = .ok (.yield (fa 0 0 0 0)) ∧ decodeInstr 3 0x35B8000000000000 0 = .ok (.exit (fa 0 0 0 0)) ∧
    decodeInstr 3 0x4538A0C518000000 0 = .ok (.st64 { fm 10 3 5 0 0 with shift := 3 }) ∧ decodeInstr 3 0x4338B18000000000 0 = .ok (.ld64 (fm 11 6 0 0 0)) ∧
    decodeInstr 3 0x33382000FFFFFFD0 0 = .ok (.loop { gm := 7, a := 2, k := 0, off := 0xFFFFFFD0 }) ∧
    decodeInstr 3 0x00BC414000000000 5 = .ok (.add false { fa 4 5 0 0 with lit := some 5 }) := by
  and_intros <;> rfl
theorem test_decode_tile :
    decodeInstr 3 0x9038000000000000 0 = .ok (.tdecl (ft 0 0 0 0 0)) ∧ decodeInstr 3 0x903B008000000000 0 = .ok (.tdecl (ft 48 2 0 0 0)) ∧
    decodeInstr 3 0x973B108310000000 0 = .ok (.tmmas { ft 49 2 3 0 0 with tc := 4 }) ∧ decodeInstr 3 0x99386C0000002400 0 = .ok (.text (ft 6 48 0 0 9)) ∧
    decodeInstr 3 0xA138608300010000 0 = .ok (.tscanc { ft 6 2 3 0 0 with aux := 4 }) ∧
    decodeInstr 3 0x9E38308004000400 0 = .ok (.tpacksSel { ft 3 2 0 0 1 with tc := 1 }) ∧
    decodeInstr 3 0x943826C2E2000000 0 = .ok (.tsta { gm := 7, lit := none, t := 2, base := 27, layout := 1, token := 28, scope := 1, xo := 0, off := 0 }) ∧
    decodeInstr 3 0x90BC000000000000 5 = .ok (.tshapeLo { ft 0 0 0 0 0 with lit := some 5 }) := by
  and_intros <;> rfl
theorem test_decode_vector :
    decodeInstr 3 0x7588410009440000 0 = .ok (.vcomp { gm := 1, lit := none, vd := 2, va := 1, vb := 0, vc := 0, vl := 9, fmt := 0x11, rnd := 0, sat := 0, s := 0, xs := 0, fn := 0 }) ∧
    decodeInstr 3 0xB6B8040000A00000 0 = .ok (.spawn (fq 0 16 0 5 0)) ∧ decodeInstr 3 0xC03850001C000000 0 = .ok (.getc (fy 5 0 0x007)) := by
  and_intros <;> rfl
/-- A word of format W, bit by bit from R308: VLD V1,[X2+8] of F32 under M3, VL in X4, DEVICE scope. -/
theorem test_decode_w :
    decodeInstr 3 0x7D18200801114008 0 = .ok (.vld { gm := 3, lit := none, vd := 1, base := 2, vi := 0, stride := 0, vl := 4, fmt := 0x11, scope := 1, off := 8 }) := by
  rfl
/-- A TMMA of generation 3 is another instruction in generation 2, and words that no generation assigns are refused (R320 to R326). -/
theorem test_decode_generations :
    decodeInstr 3 0x96BB010500000000 0 = .ok (.tmma (ft 48 4 5 0 0)) ∧ (match decodeInstr 2 0x96BB010500000000 0 with
      | .ok (.tmma _) => true
      | _ => false) = false ∧
    decodeInstr 3 0 0 = .error .unassigned ∧ decodeInstr 3 0x3538000000000001 0 = .error .fieldValue ∧ decodeInstr 3 0x333C5000FFFFFFE8 0 = .error .literal := by
  and_intros <;> rfl

/-! ## Hypotheses met: scalar and control -/

/-- A block with X5 = 5, X6 = 7. -/
def b56 : Block := regs [(5, 5), (6, 7)] blk0

theorem witness_ScalarBinary : ∃ p ∈ scalarTable, Runs (on b56) 7 [5, 6, 4] ∧ p.2 ((on b56).blk.getX 5) 7 = 12 :=
  ⟨_, List.mem_cons_self, runs rfl rfl rfl rfl _, by decide⟩
theorem witness_ScalarUnary : ∃ p ∈ unaryTable, Runs (on b56) 7 [6, 4] ∧ p.2 7 = 7 :=
  ⟨_, List.mem_cons_self, runs rfl rfl rfl rfl _, by decide⟩
theorem witness_ScalarOther : Runs (on b56) 7 [5, 6, 4] := runs rfl rfl rfl rfl _
theorem witness_Comparisons : Runs (on b56) 7 [5, 6, 4] ∧ (on b56).blk.pastFaults = true ∧
    wordOp 0x11380000C0000000 = 0x022 ∧ (0x11380000C0000000 : Word).toNat / 2 ^ 28 % 16 = 12 ∧
    wordOp 0x1138800000000000 = 0x022 ∧ (0x1138800000000000 : Word).toNat / 2 ^ 44 % 64 = 8 ∧
    wordOp 0x11B80000C0000000 = 0x023 ∧ (0x11B80000C0000000 : Word).toNat / 2 ^ 28 % 16 = 12 :=
  ⟨runs rfl rfl rfl rfl _, by decide, by decide, by decide, by decide, by decide, by decide, by decide⟩
theorem witness_IntegerDivision : (Runs (on b56) 7 [5, 1, 4] ∧ opA (on b56).blk (fa 4 5 1 0) = 0) ∧
    let s := on (regs [(5, BitVec.intMin 64)] blk0)
    Runs s 7 [5, 0, 4] ∧ s.blk.getX 5 = BitVec.intMin 64 ∧ opA s.blk (fa 4 5 0 0xFFFFFFFF) = BitVec.allOnes 64 :=
  ⟨⟨runs rfl rfl rfl rfl _, by decide⟩, runs rfl rfl rfl rfl _, by decide, by decide⟩

/-- A block whose X60 is bound to data queue 3, and core 0 with entries in that queue. -/
def bound60 (l : List Word) (bad : List Bool := []) : State :=
  { on { blk0 with fifo := #v[some 3, none, none, none] } with
    cores := [(0, { core0 with dataq := [(3, { bound := some 0, owner := some 0, entries := l, bad := bad })] })] }
theorem witness_Registers :
    ((bound60 [9]).blk.guard 7 = true ∧ (bound60 [9]).blk.rep = none ∧ (bound60 [9]).blk.boundTo 60 = some 3 ∧ (bound60 [9]).xPending 4 = false ∧
      (bound60 [9]).blk.boundTo 4 = none ∧ ((bound60 [9]).dataq 3).entries = [9] ∧ (bound60 [9]).pushesDue 4 < 1024 ∧
      (bound60 [9]).pushesDue 60 < 1024 ∧ ((bound60 [9]).dataq 3).bad.getD 0 false = false) ∧
    (((bound60 [9] [true]).dataq 3).entries = [9] ∧ ((bound60 [9] [true]).dataq 3).bad.getD 0 false = true) ∧
    (bound60 []).blk.boundTo 60 = some 3 ∧ ((bound60 []).dataq 3).entries = [] ∧
    ((on { blk0 with flawX := 0x20 }).blk.flawX.getLsbD 5 = true ∧ (on { blk0 with flawX := 0x20 }).blk.guard 7 = true ∧
     ∀ r ∈ [(5 : BitVec 6), 6, 4], (on { blk0 with flawX := 0x20 }).blk.boundTo r = none ∧
       (on { blk0 with flawX := 0x20 }).xPending r = false) := by decide

theorem witness_Guards : (on blk0).blk.guard 15 = false ∧ (on blk0).blk.guard 0 = false ∧ (on blk0).blk.rep = none ∧ (on blk0).blk.pops = [] ∧
    .add false ∈ guardedA ∧ .lea ∈ guardedF ∧ .ld64 ∈ guardedM ∧ .tmma ∈ guardedT ∧ .tld ∈ guardedC ∧ .qpop ∈ guardedQ ∧ .getc ∈ guardedY := by
  refine ⟨by decide, by decide, rfl, rfl, ?_⟩
  simp [guardedA, guardedF, guardedM, guardedT, guardedC, guardedQ, guardedY, scalarTable]

/-- A block whose FCTL enables NX, and X5 = 1.0, X6 the greatest F64. -/
def bnx : Block := regs [(5, 0x3FF0000000000000), (6, 0x7FEFFFFFFFFFFFFF)] { blk0 with ctl := { ({} : Ctl) with fctl := 0x3E000 } }
theorem witness_ScalarFloat : Runs (on b56) 7 [5, 6, 4] ∧
    enabledFlags (on b56).blk.ctl.fctl ((scalarFmt true).addV (scalarRnd (on b56).blk 0) (scalarVal (on b56).blk true 5) (scalarVal (on b56).blk true 7)).2 = 0 ∧
    enabledFlags (on b56).blk.ctl.fctl (fcond 2 (scalarVal (on b56).blk true 5) (scalarVal (on b56).blk true 7)).2 = 0 ∧
    enabledFlags (on b56).blk.ctl.fctl (fcvtRes 0 0 (fzi (on b56).blk.ctl.fctl) (scalarRnd (on b56).blk 0) 7).2 = 0 :=
  ⟨runs rfl rfl rfl rfl _, by decide, by decide, by decide⟩

/-- A block that waits in WFE until its deadline, ck 0. -/
def bwfe : Block := { blk0 with wait := some (.wfe (some 0)) }
theorem witness_WaitsAndTraps : Runs (on b56) 7 [] ∧ (on b56).blk.ctl.brkh = false ∧ (on b56).blk.wake = false ∧
    (on { blk0 with ctl := { ({} : Ctl) with brkh := true } }).blk.ctl.brkh = true ∧ (on { blk0 with wake := true }).blk.wake = true ∧
    ((on bwfe).blkAt 0).wait = some (.wfe (some 0)) ∧ ((on bwfe).blkAt 0).rep = none ∧ ((on bwfe).blkAt 0).pops = [] ∧ 0 ≤ (on bwfe).ck :=
  ⟨runs rfl rfl rfl rfl _, by decide, by decide, by decide, by decide, by decide, by decide, by decide, by decide⟩

/-- REP X5 before ((P3) ADD X4,X5,X6+16) in the context's page, the line of both in the instruction cache. -/
def srep (n : Word) : State :=
  { on (regs [(5, n), (6, 7)] blk0) with
    cores := [(0, { core0 with icache := [{ ctx := 1, vline := 0, line := 0, data := 0x00B8418600000010 <<< 64 }] })] }
/-- The same in its first repetition: ADD X4,X6,X6+16. -/
def srepping (n : Word) : State :=
  { srep n with blocks := [(0, { regs [(5, n), (6, 7)] blk0 with rep := some (5, 0x00B8418600000010, 0) })] }
theorem witness_Repetition : (Runs (srep 2) 7 [] ∧
      (match (srep 2).fetchWord ((srep 2).blk.pc.toNat + 8) false with
        | .ok w u => decide (wordL w = false ∧ (repInstr u.blk.gen w 0).isSome ∧ (repInstr u.blk.gen w 0).bind repDest ≠ some 5 ∧
            u.blk.boundTo 5 = none ∧ u.xPending 5 = false ∧ u.blk.rep = none ∧ u.blk.pops = [] ∧ u.blk.getX 5 ≠ 0)
        | .stop _ => false) = true ∧
      (match (srep 0).fetchWord ((srep 0).blk.pc.toNat + 8) false with
        | .ok _ u => u.blk.getX 5 == 0
        | .stop _ => false) = true) ∧
    ((srepping 2).blk.rep = some (5, 0x00B8418600000010, 0) ∧
      repInstr (srepping 2).blk.gen 0x00B8418600000010 0 = some (.add false (fa 4 6 6 16)) ∧ (srepping 2).blk.guard 7 = true ∧
      (∀ r ∈ ([6, 6, 4] : List (BitVec 6)), (srepping 2).blk.boundTo r = none ∧ (srepping 2).xPending r = false) ∧
      (srepping 2).blk.getX 5 ≠ 1 ∧ (srepping 1).blk.getX 5 = 1) :=
  ⟨⟨runs rfl rfl rfl rfl _, by decide +kernel, by decide +kernel⟩, by decide +kernel⟩

/-- A launch of a registered object whose section FUNCS, at offset 256, holds one entry; the entry as memory `mem` gives it. -/
def obj0 : CodeObj :=
  { codeId := 1, base := 0, gen := 3, byino := false, slip := 2, lmin := 0, lmax := 8, frameVb := 0, spillVb := 0, fixB := 0, secVer := 1
    ntile := 4, nacc := 1, nbar := 1, nkern := 1, nfunc := 1, nlanefn := 0
    sections := [(128, 64), (0, 0), (0, 0), (256, 8), (0, 0), (0, 0), (0, 0), (0, 0)] }
def launch0 : Launch :=
  { id := 1, queue := 0, ctx := 1, prio := 0, order := 0, obj := obj0, kernel := 0, entry := 0, gx := 1, gy := 1, gz := 1, gang := 1
    packed := false, stages := 0, slip := 2, lmin := 0, lmax := 8, dies := 1, stackBase := 0, areaBytes := 4096, areas := 1, areasUsed := []
    args := [], nextGang := 1, live := [1] }
def scallt (mem : Memory) : State := { on blk0 with cp := { ({} : Cp) with launches := [launch0] }, ms := { ({} : MemSys) with mem := mem } }
/-- The instruction at the PC under way; whether a load of a word for it is sent to memory. -/
def callt0 (b : Block) : State := { scallt [] with blocks := [(0, b)] }.opened none
def sends (s : State) (va : Nat) : Bool := match s.probe .load .load va 8 0 with
  | .ok pa _ => match (s.tlbTouch va).startLoad va pa 8 .device none (.word va) 0 with
    | .sent _ => true
    | _ => false
  | _ => false
theorem witness_Transfers : (Runs (on b56) 7 [5, 6, 4] ∧ ((on b56).blk.pc + (-24 : BitVec 27).signExtend 64).toNat % 8 = 0 ∧
      (on b56).blk.getX 5 - 1 ≠ 0 ∧ (on (regs [(5, 1)] blk0)).blk.getX 5 - 1 = 0 ∧ (opA (on b56).blk (fa 4 5 0 0x80)).toNat % 8 = 0) ∧
    (∀ e ∈ [0x80, 0x81], let b := { blk0 with words := [(256, e)] }
     (callt0 b).funcEntry 0 = some 256 ∧ b.words.find? (fun w => w.1 == 256) = some (256, e)) ∧
    ((callt0 blk0).funcEntry 0 = some 256 ∧ blk0.words = [] ∧ blk0.pend = [] ∧ blk0.peerBad = none ∧ (callt0 blk0).blk.memReady = true ∧
      sends (callt0 blk0) 256 = true) ∧
    (callt0 blk0).funcEntry 1 = none :=
  ⟨⟨runs rfl rfl rfl rfl _, by decide +kernel⟩, by decide +kernel, by decide +kernel, by decide +kernel⟩

/-! ## Hypotheses met: vector -/

/-- Enable bits of 0 enable no flag. -/
theorem noneEnabled : ∀ fl : Flags, enabledFlags 0 fl = 0 := by decide
/-- The block `blk0` is ready for every format V and format W instruction. -/
theorem ready0 (xs : List (BitVec 6)) (vs : List (BitVec 5)) : VRuns (on blk0) xs vs :=
  vruns (by decide +kernel) (by decide +kernel) (by decide +kernel) (by decide +kernel) (by decide +kernel) xs vs

theorem witness_VectorIntegers : ∃ p ∈ vecIntTable, intFmt 0x05 = true ∧ VReady (on blk0) (fv 4 5 6 7 0x05 0) ∧ p.2 true 32 1 2 0 = (3, false) :=
  ⟨_, List.mem_cons_self, by decide, ready0 _ _, by decide⟩
theorem witness_VectorFloats (op : FFmt → RndCtx → Bool → Nat → Nat → Nat → Nat → FRes) :
    floatOf 0x11 = some fmtF32 ∧ floatFmt 0x11 = true ∧ VReady (on blk0) (fv 4 5 6 7 0x11 0) ∧
    ∀ e < 32, enabledFlags (on blk0).blk.ctl.fctl (floatEl op fmtF32 (on blk0).blk (fv 4 5 6 7 0x11 0) e).2 = 0 :=
  ⟨rfl, by decide, ready0 _ _, fun _ _ => noneEnabled _⟩

/-- A block with every flag enabled, X5 = 1.0 and X6 the greatest F64; its V registers hold 0, so that element 0 of VFDIV is invalid. -/
def btrap : Block := regs [(5, 0x3FF0000000000000), (6, 0x7FEFFFFFFFFFFFFF)] { blk0 with ctl := { ({} : Ctl) with fctl := 0x3E000 } }
theorem readyTrap (xs : List (BitVec 6)) (vs : List (BitVec 5)) : VRuns (on btrap) xs vs :=
  vruns (by decide +kernel) (by decide +kernel) (by decide +kernel) (by decide +kernel) (by decide +kernel) xs vs
theorem witness_FloatTraps :
    (∃ p ∈ floatTable, Runs (on btrap) 7 [5, 6, 4] ∧ enabledFlags (on btrap).blk.ctl.fctl (p.2 (on btrap).blk (ff 4 5 6 0 0)).2 ≠ 0) ∧
    ∃ p ∈ vecFloatTable, floatOf 0x11 = some fmtF32 ∧ VReady (on btrap) (fv 4 5 6 7 0x11 0) ∧
      0 < vlOf (on btrap).blk 0 32 ∧ doneNow (on btrap).blk 15 0 = true ∧
      enabledFlags (on btrap).blk.ctl.fctl (floatEl p.2 fmtF32 (on btrap).blk (fv 4 5 6 7 0x11 0) 0).2 ≠ 0 :=
  ⟨⟨_, List.mem_cons_self, runs (by decide +kernel) (by decide +kernel) (by decide +kernel) (by decide +kernel) _, by decide +kernel⟩,
   vecFloatTable[4], List.getElem_mem (by decide), rfl, readyTrap _ _, by decide +kernel, by decide +kernel, by decide +kernel⟩

theorem witness_VectorCompares : VReady (on blk0) (fv 11 5 6 7 0x11 0) ∧ (fv 11 5 6 7 0x11 0).vd.toNat < 12 ∧ intFmt 0x05 = true ∧
    (11 : BitVec 7).toNat < 12 ∧ floatOf 0x11 = some fmtF32 ∧ floatFmt 0x11 = true ∧
    ∀ fl, enabledFlags (on blk0).blk.ctl.fctl fl = 0 :=
  ⟨ready0 _ _, by decide, by decide, by decide, rfl, by decide, noneEnabled⟩
theorem witness_VectorConversions : VReady (on blk0) (fv 4 5 6 7 0x15 0x11) ∧ vcvtsrPair 0x15 ((0x11 : BitVec 7).setWidth 6) = true ∧
    vcvtFmt 0x15 = true ∧ vcvtFmt ((0x11 : BitVec 7).setWidth 6) = true ∧ (∀ fl, enabledFlags (on blk0).blk.ctl.fctl fl = 0) ∧
    intFmt 0x04 = true ∧ fmtBits 0x04 ≤ 16 ∧ intFmt 0x05 = true ∧ fmtBits 0x05 ≤ 32 :=
  ⟨ready0 _ _, by decide, by decide, by decide, noneEnabled, by decide, by decide, by decide, by decide⟩
theorem witness_VectorFloatDots : VReady (on blk0) (fv 4 5 6 7 0x12 0) ∧ floatOf 0x12 = some fmtF16 ∧ floatOf 0x11 = some fmtF32 ∧
    dotFmt 0x12 = true ∧ wmacFmt 0x12 = true ∧ (∀ fl, enabledFlags (on blk0).blk.ctl.fctl fl = 0) :=
  ⟨ready0 _ _, rfl, rfl, by decide, by decide, noneEnabled⟩
theorem witness_VectorMoves : laneFmt 0x06 = true ∧ VReady (on blk0) (fv 4 5 6 7 0x06 0) := ⟨by decide, ready0 _ _⟩
theorem witness_VectorReductions (fl : Flags) : floatFmt 0x11 = true ∧ intFmt 0x05 = true ∧ VReady (on blk0) (fv 4 5 6 7 0x11 0) ∧
    VReady (on blk0) (fv 4 5 6 7 0x05 0) ∧ enabledFlags (on blk0).blk.ctl.fctl fl = 0 :=
  ⟨by decide, by decide, ready0 _ _, ready0 _ _, noneEnabled _⟩
theorem witness_VectorMasks : laneFmt 0x05 = true ∧ VReady (on blk0) (fv 11 5 6 7 0x05 0) ∧ (fv 11 5 6 7 0x05 0).vd.toNat < 12 :=
  ⟨by decide, ready0 _ _, by decide⟩

/-! ## Hypotheses met: lane groups and memory -/

/-- A block without lane groups. -/
def bnone : Block := { blk0 with groups := [] }
/-- Hart 0 asks for 16 lanes of core 0; it needs eight groups, and hart 1 holds four. -/
def sshort : State :=
  { on { bnone with lmin := 8 } with blocks := [(0, { bnone with lmin := 8 }), (1, { blk0 with groups := [0, 1, 2, 3] })] }
/-- Hart 0 waits for 32 lanes. -/
def sclaim : State :=
  { on { bnone with wait := some (.lclaim 32 4) } with cores := [(0, { core0 with claims := [0] })] }
theorem witness_LaneClaims :
    ((on bnone).blk.lanes = 0 ∧ (∀ r : BitVec 6, (on bnone).blk.boundTo r = none ∧ (on bnone).xPending r = false) ∧
      ∀ v : BitVec 5, (on bnone).blk.vPending v = false) ∧
    (Runs (on bnone) 7 [0, 4] ∧ (∀ v : BitVec 5, (on bnone).blk.vPending v = false) ∧ 128 < (opA (on bnone).blk (fa 4 0 0 129)).toNat ∧
      (opA (on bnone).blk (fa 4 0 0 128)).toNat ≤ 128 ∧ (on bnone).calmLanes 0 ∧
      (on bnone).blk.lmin ≤ (((on bnone).takeable 0 0).take 8).length) ∧
    (Runs sshort 7 [0, 4] ∧ sshort.calmLanes sshort.myCore ∧ ((sshort.takeable 0 0).take 8).length < sshort.blk.lmin) ∧
    ((sclaim.core 0).claims = [0] ∧ (sclaim.core 0).laneWait = false ∧ (sclaim.core 0).lentStage = 0 ∧ coreOf 0 = 0 ∧
      (sclaim.blkAt 0).wait = some (.lclaim 32 4) ∧ (sclaim.blkAt 0).rep = none ∧ (sclaim.blkAt 0).pops = [] ∧
      (sclaim.blkAt 0).boundTo 4 = none ∧ (sclaim.blkAt 0).lmin ≤ (sclaim.blkAt 0).groups.length + ((sclaim.takeable 0 0).take 2).length) ∧
    Runs (on blk0) 7 [] ∧ (on blk0).blk.pend = [] ∧ (on blk0).blk.sq = [] :=
  ⟨by decide +kernel, ⟨runs rfl rfl rfl rfl _, by decide +kernel, by decide +kernel, by decide +kernel, by unfold State.calmLanes; decide +kernel,
    by decide +kernel⟩, ⟨runs rfl rfl rfl rfl _, by unfold State.calmLanes; decide +kernel, by decide +kernel⟩, by decide +kernel,
    runs rfl rfl rfl rfl _, rfl, rfl⟩

/-- An access to the page of the block's context reaches its address. -/
theorem reaches0 : Reaches (on blk0) none .load .load 64 8 64 ∧ Reaches (on blk0) none .store .store 64 8 64 ∧
    Reaches (on blk0) none .amo .atomic 64 8 64 :=
  ⟨⟨by decide +kernel, page0, rfl⟩, ⟨by decide +kernel, page0, rfl⟩,
    ⟨by decide +kernel, page0, rfl⟩⟩
/-- An older store of the hart that covers 64 to 71, and the line of address 64 in L1. -/
def sstored : State := on { blk0 with sq := [.store [(64, 8, 9)] .core false] }
def line1 : L1Line := { way := 0, line := 1, valid := BitVec.allOnes 64, dirty := 0, data := 7, writers := 0, use := 1 }
def scached : State := { on blk0 with cores := [(0, { core0 with l1 := [line1] })] }
theorem witness_ScalarLoads :
    (eaLoad (on blk0).blk (fm 4 0 0 0 64) = 64 ∧ Runs sstored 7 [0, 0, 4] ∧ Reaches sstored none .load .load 64 8 64 ∧
      (match sstored.blk.searchStores 64 8 with | .forward v => v == 9 | _ => false) = true) ∧
    (Runs scached 7 [0, 0, 4] ∧ Reaches scached none .load .load 64 8 64 ∧
      (match scached.blk.searchStores 64 8 with | .none => true | _ => false) = true ∧ cacheable 64 = true ∧
      (scached.core 0).l1Ways ≠ [] ∧ scached.coreLocked 0 64 8 = false ∧ (scached.core 0).l1Read 64 8 = some 7 ∧ scached.blk.pend = []) ∧
    (Runs (on blk0) 7 [0, 0, 4] ∧ Reaches (on blk0) none .load .load 64 8 64 ∧ ((on blk0).core 0).l1Read 64 8 = none ∧
      (on blk0).wbInFlight 0 64 = false ∧ (1 : BitVec 2) ≠ 0) :=
  ⟨⟨by decide +kernel, runs rfl rfl rfl rfl _, ⟨rfl, page0, rfl⟩, by decide +kernel⟩,
   ⟨runs rfl rfl rfl rfl _, ⟨rfl, page0, rfl⟩, by decide +kernel, by decide +kernel, by decide +kernel, by decide +kernel, by decide +kernel, rfl⟩,
   runs rfl rfl rfl rfl _, reaches0.1, by decide +kernel, by decide +kernel, by decide⟩

theorem witness_StoresAndAmos : Runs (on blk0) 7 [0, 0, 4] ∧ (on blk0).blk.sq.length < 16 ∧ eaLoad (on blk0).blk (fm 4 0 0 0 64) = 64 ∧
    Reaches (on blk0) none .store .store 64 8 64 ∧ (on blk0).blk.releasing = false ∧ (on blk0).blk.rel = .none ∧
    (on blk0).peerWrites = false ∧ eaAtomic (on blk0).blk (fm 4 0 0 0 64) = 64 ∧ Reaches (on blk0) none .amo .atomic 64 8 64 ∧
    (match aperture 64 with | .device _ => true | _ => false) = true ∧
    findPage ((on blk0).core (on blk0).myCore) (on blk0).blk.xbuf (on blk0).blk.ctx false 64 = some (some page0) ∧ cacheable 64 = true :=
  ⟨runs rfl rfl rfl rfl _, by decide, by decide +kernel, reaches0.2.1, by decide +kernel, by decide +kernel, by decide +kernel,
    by decide +kernel, reaches0.2.2, by decide +kernel, by decide +kernel, by decide +kernel⟩
theorem witness_Misalignment : Runs (on b56) 7 [5, 0, 4] ∧ (opA (on b56).blk (fa 4 5 0 7)).toNat % 8 ≠ 0 ∧ (on b56).blk.memReady = true ∧
    (on b56).blk.sq.length < 16 ∧ eaLoad (on b56).blk (fm 4 5 0 0 62) % 8 ≠ 0 ∧ eaAtomic (on b56).blk (fm 4 5 0 0 62) % 4 ≠ 0 :=
  ⟨runs rfl rfl rfl rfl _, by decide +kernel, by decide +kernel, by decide +kernel, by decide +kernel, by decide +kernel⟩

/-! ## Hypotheses met: vector accesses, fences, caches -/

/-- VL 2, by X5: elements 0 and 1 of F32 at `base`. -/
def bvl : Block := regs [(5, 2), (6, 64), (7, 8188)] blk0
def fw2 (base : BitVec 6) (scope : BitVec 2) : FmtW := { fw 4 6 base 0x11 scope with vl := 5 }
theorem vmem (base : BitVec 6) (scope : BitVec 2) : VMemRuns (on bvl) (fw2 base scope) :=
  { regs := vruns (by decide +kernel) (by decide +kernel) (by decide +kernel) (by decide +kernel) (by decide +kernel) _ _
    ready := by decide +kernel, room := by decide +kernel, ids := by decide +kernel }
/-- The same with the line of address 64 in L1. -/
def scachedV : State := { on bvl with cores := [(0, { core0 with l1 := [line1] })] }
theorem witness_VectorMemory : laneFmt 0x11 = true ∧ VMemRuns (on bvl) (fw2 6 1) ∧ doneList (on bvl).blk (fw2 6 1) 32 = [0, 1] ∧
    AllReach (on bvl) (fw2 6 1) .load .load (unitEa (on bvl).blk (fw2 6 1)) (fun e => 64 + 4 * e) [0, 1] ∧
    AllReach (on bvl) (fw2 6 1) .load .load (strideEa (on bvl).blk (fw2 6 1)) (fun _ => 64) [0, 1] ∧
    AllReach (on bvl) (fw2 6 1) .store .store (unitEa (on bvl).blk (fw2 6 1)) (fun e => 64 + 4 * e) [0, 1] ∧
    AllReach (on bvl) (fw2 6 1) .store .store (indexEa (on bvl).blk (fw2 6 1)) (fun _ => 64) [0, 1] ∧
    AllReach (on bvl) (fw2 6 1) .amo .atomic (indexEa (on bvl).blk (fw2 6 1)) (fun _ => 64) [0, 1] ∧
    (on bvl).wbInFlight 0 64 = false ∧ (on bvl).wbInFlight 0 68 = false ∧ (on bvl).blk.sq = [] ∧ (on bvl).blk.pend = [] ∧
    (scachedV.core 0).l1Ways ≠ [] ∧ (scachedV.core 0).l1Read 64 4 = some 7 ∧ (scachedV.core 0).l1Read 68 4 = some 0 ∧
    scachedV.coreLocked 0 64 4 = false ∧ scachedV.coreLocked 0 68 4 = false :=
  have all {p : Nat → Prop} (h₀ : p 0) (h₁ : p 1) : ∀ e ∈ [0, 1], p e := by simp [h₀, h₁]
  ⟨by decide, vmem 6 1, by decide +kernel, all ⟨by decide +kernel, page0, by decide +kernel⟩ ⟨by decide +kernel, page0, by decide +kernel⟩,
   all ⟨by decide +kernel, page0, by decide +kernel⟩ ⟨by decide +kernel, page0, by decide +kernel⟩,
   all ⟨by decide +kernel, page0, by decide +kernel⟩ ⟨by decide +kernel, page0, by decide +kernel⟩,
   all ⟨by decide +kernel, page0, by decide +kernel⟩ ⟨by decide +kernel, page0, by decide +kernel⟩,
   all ⟨by decide +kernel, page0, by decide +kernel⟩ ⟨by decide +kernel, page0, by decide +kernel⟩,
   by decide +kernel, by decide +kernel, rfl, rfl, by decide +kernel, by decide +kernel, by decide +kernel, by decide +kernel, by decide +kernel⟩

/-- The context of the block has a page of 8 KiB and, after it, one that nothing but the kernel's level may touch: element 1 is refused. -/
def sfault : State :=
  { on bvl with cores := [(0, { ({} : Core) with tlb := [page0, { page0 with page := 8192, s := true }] })] }
/-- What the fault record of the access holds. -/
def vfault (k : Nat) (acc : Access) (va : Word) : FaultRec := { cause := .perm, access := acc, va := va, estart := k }
theorem vmemFault : VMemRuns sfault (fw2 7 1) :=
  { regs := vruns (by decide +kernel) (by decide +kernel) (by decide +kernel) (by decide +kernel) (by decide +kernel) _ _
    ready := by decide +kernel, room := by decide +kernel, ids := by decide +kernel }
theorem witness_VectorAccessFaults : VMemRuns sfault (fw2 7 1) ∧ sfault.blk.sq = [] ∧ 1 ∈ doneList sfault.blk (fw2 7 1) 32 ∧
    (doneList sfault.blk (fw2 7 1) 32).filter (· < 1) = [0] ∧
    AllReach sfault (fw2 7 1) .store .store (unitEa sfault.blk (fw2 7 1)) (fun _ => 8188) [0] ∧
    (sfault.opened none).probe .store .store (unitEa sfault.blk (fw2 7 1) 1) 4 1 = .trap (vfault 1 .store 8192) ∧
    AllReach sfault (fw2 7 1) .load .load (unitEa sfault.blk (fw2 7 1)) (fun _ => 8188) [0] ∧
    (sfault.opened none).probe .load .load (unitEa sfault.blk (fw2 7 1) 1) 4 1 = .trap (vfault 1 .load 8192) ∧
    sfault.blk.pend = [] ∧ (1 : BitVec 2) ≠ 0 ∧ sfault.wbInFlight 0 8188 = false :=
  have one {p : Nat → Prop} (h₀ : p 0) : ∀ e ∈ [0], p e := by simp [h₀]
  ⟨vmemFault, rfl, by decide +kernel, by decide +kernel, one ⟨by decide +kernel, page0, by decide +kernel⟩, by decide +kernel,
   one ⟨by decide +kernel, page0, by decide +kernel⟩, by decide +kernel, rfl, by decide, by decide +kernel⟩
/-- The element at which the trap is taken is the first: nothing is below it. -/
theorem witness_VectorAccessFaults_first :
    let s : State := { on { bvl with x := bvl.x.set 7 8192 } with cores := sfault.cores }
    0 ∈ doneList s.blk (fw2 7 1) 32 ∧ (doneList s.blk (fw2 7 1) 32).filter (· < 0) = [] ∧ s.blk.unacked = [] ∧ s.blk.pend = [] ∧
      (s.opened none).probe .store .store (unitEa s.blk (fw2 7 1) 0) 4 0 = .trap (vfault 0 .store 8192) := by decide +kernel

/-- A store in the queue: a release has something to wait for. -/
theorem witness_Fences : Runs (on blk0) 7 [0, 0, 4] ∧ (on blk0).blk.releasing = false ∧ (on blk0).blk.pend = [] ∧
    (on blk0).quiescent .device = true ∧ (on blk0).quiescent .core = true ∧ (on blk0).blk.failedWrite = none ∧
    sstored.quiescent .device = false ∧ sstored.blk.rel = .none ∧ Runs sstored 7 [] ∧
    (on blk0).blk.sq = [] ∧ (on blk0).blk.unacked = [] ∧ (on blk0).blk.live = [] ∧
    Reaches (on blk0) none .load .load 64 8 64 ∧ (on blk0).wbInFlight 0 64 = false ∧ Reaches scached none .load .load 64 8 64 ∧
    scached.coreLocked 0 64 8 = false ∧ (scached.core 0).l1Ways ≠ [] ∧ (scached.core 0).l1Read 64 8 = some 7 ∧ scached.blk.pend = [] :=
  ⟨runs rfl rfl rfl rfl _, by decide +kernel, rfl, by decide +kernel, by decide +kernel, rfl, by decide +kernel, rfl, runs rfl rfl rfl rfl _,
   rfl, rfl, rfl, reaches0.1, by decide +kernel, ⟨rfl, page0, rfl⟩, by decide +kernel, by decide +kernel, by decide +kernel, rfl⟩
theorem witness_CacheOperations : Runs (on blk0) 7 [0, 0, 4] ∧ (on blk0).blk.memReady = true ∧
    findPage ((on blk0).core (on blk0).myCore) (on blk0).blk.xbuf (on blk0).blk.ctx false 64 = some (some page0) ∧
    cacheable (page0.phys 64) = true ∧ page0.allows (on blk0).blk.level .load = true ∧
    (match aperture (page0.phys 64) with | .device a => a == 64 | _ => false) = true ∧ (on blk0).wbInFlight 0 64 = false ∧
    Reaches (on blk0) none .store .store 64 8 64 ∧ (match (on blk0).blk.searchStores 64 8 with | .none => true | _ => false) = true :=
  ⟨runs rfl rfl rfl rfl _, by decide +kernel, by decide +kernel, by decide +kernel, by decide +kernel, by decide +kernel, by decide +kernel,
   reaches0.2.1, by decide +kernel⟩

/-! ## Hypotheses met: tile instructions -/

/-- Low words of records: 64×32 F16 in PLANE (R379), 32×64 F16 in ROW, 64×64 ACCF and ACCI. -/
def dPlane : BitVec 128 := 0x03F01F0102480000
def dRow : BitVec 128 := 0x01F03F0202400000
def dAcc (fmt : Nat) : BitVec 128 := BitVec.ofNat 128 (63 * 2 ^ 52 + 63 * 2 ^ 40 + 64 * 2 ^ 27 + fmt * 2 ^ 21)
/-- 8×32 SI8 in PLANE and 32×8 SI8 in ROW. -/
def dPlane8 : BitVec 128 := BitVec.ofNat 128 (7 * 2 ^ 52 + 31 * 2 ^ 40 + 3 * 2 ^ 21 + 2 * 2 ^ 18)
def dRow8 : BitVec 128 := BitVec.ofNat 128 (31 * 2 ^ 52 + 7 * 2 ^ 40 + 8 * 2 ^ 27 + 3 * 2 ^ 21)
/-- Declared names with records `a`, `b` and an accumulator of format code `c`. -/
def acc0 (c n : Nat) : AName :=
  { rcd := dAcc c, empty := false, rect := (0, 0, 8, 4), rows := n, cols := n, elems := List.replicate (n * n) 5, aov := true }
def names (a b : BitVec 128) (c n : Nat) : Block :=
  { blk0 with
    tnames := [(1, { rcd := a, cur := 1, resv := [(1, [0, 1, 2]), (0, [3, 4, 5])] }), (2, { rcd := b, cur := 2, resv := [(2, [6]), (0, [7])] })]
    anames := [(48, acc0 c n)] }
/-- Slots of names 1 and 2, filled. -/
def slots0 : List Slot :=
  [{ id := 1, state := .ready, owner := 0, name := 1, units := [0, 1, 2], filled := true },
   { id := 2, state := .ready, owner := 0, name := 2, units := [6], filled := true }]
def withSlots (b : Block) : State := { on b with cores := [(0, { core0 with slots := slots0 })] }
def bmma : Block := names dPlane dRow 0x20 64
/-- A tile instruction of TMMA A0,T1,T2, unretired. -/
def older (ph : TPhase) : TileRec :=
  { seq := 0, ins := .tmma (ft 48 1 2 0 0), pc := 0, lit := false, phase := ph, names := [1, 2, 48]
    src := [{ slot := 1, rcd := dPlane, off := 0 }, { slot := 2, rcd := dRow, off := 0 }], chunk := 2 }

def isOk : AccRes → Bool
  | .ok _ => true
  | _ => false
def isTrap : AccRes → Bool
  | .trap _ _ => true
  | _ => false
theorem mmaNames (a b : BitVec 128) (c n : Nat) (ha : (on (names a b c n)).blk = names a b c n := by rfl) :
    MmaNames (on (names a b c n)).blk (ft 48 1 2 0 0) := by
  rw [ha]; exact { ta := rfl, tb := rfl, td := rfl, whole := rfl, free := rfl }
theorem witness_TileAcceptance :
    (Runs (withSlots bmma) 7 [0] ∧ ((withSlots bmma).blk.flawM = Vector.replicate 12 0 ∧
      ∀ v : BitVec 5, (withSlots bmma).blk.vPending v = false ∧ (withSlots bmma).blk.flawV[v.toNat]'(v.isLt) = 0) ∧ (withSlots bmma).blk.live = [] ∧
      isOk (((withSlots bmma).opened none).accept (.tmma (ft 48 1 2 0 0)) none) = true ∧
      isTrap (((withSlots bmma).opened none).accept (.tmma (ft 48 2 1 0 0)) none) = true ∧
      isTrap (((withSlots { bmma with trecs := [older .queued] }).opened none).accept (.tmma (ft 48 2 1 0 0)) none) = true ∧
      48 ≤ (ft 48 0 0 0 0).td.toNat) ∧
    (MmaNames (on bmma).blk (ft 48 1 2 0 0) ∧ (on bmma).mayAccept (.tmma (ft 48 1 2 0 0)) = true ∧ fmtQI (Shape.fmt dPlane) = false) ∧
    (Shape.layout dPlane = 2 ∧ Shape.layout dRow = 0 ∧ Shape.sp dPlane = false ∧ Shape.rows dPlane ≤ 64 ∧ Shape.cols dRow ≤ 64 ∧
      Shape.rows dRow = Shape.cols dPlane ∧ fmtX (Shape.fmt dRow) = false ∧ fmtX (Shape.fmt dPlane) = false ∧
      classA (Shape.fmt dPlane) = some 0 ∧ classA (Shape.fmt dRow) = some 0 ∧ (acc0 0x20 64).fmt = 0x20) ∧
    Shape.layout dRow ≠ 2 ∧ Shape.layout dPlane ≠ 0 ∧ (acc0 0x20 63).rows < Shape.rows dPlane ∧ (acc0 0x20 63).cols < Shape.cols dRow ∧
    Shape.rows dRow8 = 32 ∧ Shape.cols dPlane = 32 ∧ (acc0 0x21 64).fmt ≠ 0x20 :=
  ⟨⟨runs rfl rfl rfl rfl _, by decide +kernel, by decide +kernel, by decide +kernel, by decide +kernel, by decide +kernel, by decide⟩,
   ⟨mmaNames _ _ _ _, by decide +kernel, by decide⟩, by decide +kernel, by decide +kernel⟩

/-- The launch's object allows the names. -/
def slaunch (b : Block) : State := { withSlots b with cp := { ({} : Cp) with launches := [launch0] } }
theorem witness_TileNames : Runs (slaunch bmma) 7 [5] ∧ TileReady (slaunch bmma) ∧
    Shape.bad (slaunch bmma).blk.gen dRow = false ∧ Shape.bad (slaunch bmma).blk.gen (dRow ||| 1) = true ∧ (slaunch bmma).blk.live = [] ∧
    (viewFault { ft 3 2 1 0 0 with xs := 0 } ((slaunch { bmma with d := (bmma.d.set 1 dRow) }).opened none)) = none ∧
    ((slaunch bmma).blk.tname 3).isNone ∧ ((slaunch bmma).blk.aname 3).isNone ∧ ((slaunch bmma).blk.tname 1).isSome ∧
    ((slaunch bmma).blk.aname 48).isSome ∧ Block.badName (slaunch bmma).blk 3 = true ∧
    declFault (ft 3 1 0 0 0) ((slaunch { bmma with d := (bmma.d.set 1 dRow) }).opened none) = none ∧
    declFault (ft 48 1 0 0 0) ((slaunch { blk0 with d := (blk0.d.set 1 (dAcc 0x20)) }).opened none) = none ∧ Shape.dist (dAcc 0x20) = false ∧
    (slaunch bmma).blk.lateDst none 1 = false ∧ Block.unplaced (slaunch bmma) 1 = false :=
  ⟨runs rfl rfl rfl rfl _, ⟨by decide +kernel, by decide +kernel⟩, by decide +kernel, by decide +kernel, by decide +kernel, by decide +kernel, by decide +kernel, by decide +kernel, by decide +kernel, by decide +kernel, by decide +kernel, by decide +kernel, by decide +kernel, by decide +kernel, by decide +kernel⟩

/-- A block with an older instruction, one with a token, and members of a chain. -/
def bolder : Block := { bmma with trecs := [{ older .queued with faultPassed := true }], seqNext := 1 }
def btoken : Block := { blk0 with tokens := [{ idx := 1, seq := 3, va := 0, len := 64, pages := [] }] }
def bchain : Block := { blk0 with chain := some { key := 1, pos := 0, len := 2, lines := 1, wide := false, next := 2, done := 1 } }
def btwait : Block := { blk0 with wait := some (.twait none 0 0) }
/-- The slot of name 2 is being filled. -/
def sfilling : State :=
  { on bmma with cores := [(0, { core0 with slots := [{ id := 2, state := .filling, owner := 0, name := 2, units := [6], filled := false }] })] }
theorem witness_TileWaits :
    (Runs (withSlots bmma) 7 [] ∧ TileReady (withSlots bmma) ∧ (withSlots bmma).blk.live = [] ∧ Block.badName (withSlots bmma).blk 1 = false ∧
      (withSlots bmma).slotFilled 0 1 = true) ∧
    (Runs (withSlots bolder) 7 [] ∧ TileReady (withSlots bolder) ∧ ∃ t ∈ (withSlots bolder).blk.live, t.seq < (withSlots bolder).blk.seqNext) ∧
    (Runs sfilling 7 [] ∧ TileReady sfilling ∧ (sfilling.blk.tsrc 2).map (·.slot) = some 2 ∧ sfilling.slotFilled sfilling.cur 2 = false) ∧
    (((on btwait).blkAt 0).wait = some (.twait none 0 0) ∧ ((on btwait).blkAt 0).live = []) ∧
    (Runs (on btoken) 7 [5] ∧ TileReady (on btoken) ∧ (on btoken).blk.tokens.map (·.value) = [(0x31 : Word)] ∧ (on btoken).blk.getX 5 ≠ 0x31) ∧
    (Runs (on bchain) 7 [0] ∧ (on bchain).blk.live = [] ∧ (on bchain).blk.chain.isSome ∧ (on blk0).blk.chain = none) :=
  ⟨⟨runs rfl rfl rfl rfl _, ⟨by decide +kernel, by decide +kernel⟩, by decide +kernel⟩,
   ⟨runs' (by decide +kernel) (by decide +kernel) (by decide +kernel) _, ⟨by decide +kernel, by decide +kernel⟩,
     { older .queued with faultPassed := true }, by decide +kernel, by decide +kernel⟩,
   ⟨runs rfl rfl rfl rfl _, ⟨by decide +kernel, by decide +kernel⟩, by decide +kernel⟩, by decide +kernel,
   ⟨runs rfl rfl rfl rfl _, ⟨by decide +kernel, by decide +kernel⟩, by decide +kernel⟩, runs rfl rfl rfl rfl _, by decide +kernel⟩

theorem witness_TileVectorMoves :
    laneFmt 0x05 = true ∧ VRuns (withSlots bmma) [0] [4, 6] ∧ (withSlots bmma).blk.live = [] ∧
    ((withSlots bmma).blk.tname 2).map (fun t => (t.view, t.cur)) = some (none, 2) ∧
    ((withSlots bmma).slot (withSlots bmma).myCore 2).map (fun x => (x.undef, x.bad)) = some (0, 0) ∧
    (∀ e ∈ doneList (withSlots bmma).blk (fw 4 6 2 0x05 0) 32, ((el (withSlots bmma).blk 6 32 e).setWidth 64).toNat % 4 = 0 ∧
      ((el (withSlots bmma).blk 6 32 e).setWidth 64).toNat + 4 ≤ 4096 * Shape.units dRow) ∧
    (withSlots bmma).blk.tname 3 = none :=
  ⟨by decide, vruns (by decide +kernel) (by decide +kernel) (by decide +kernel) (by decide +kernel) (by decide +kernel) _ _, by decide +kernel,
   by decide +kernel, by decide +kernel, by decide +kernel, by decide +kernel⟩

/-- A TZERO and a TMMA of SI8 of hart 0, queued. -/
def tzero0 : TileRec := { seq := 0, ins := .tzero (ft 48 0 0 0 0), pc := 0, lit := false, names := [48] }
def bmma8 : Block := names dPlane8 dRow8 0x21 8
def mma8 (ph : TPhase) : TileRec :=
  { older ph with src := [{ slot := 1, rcd := dPlane8, off := 0 }, { slot := 2, rcd := dRow8, off := 0 }] }
def szero : State := withSlots { bmma with trecs := [tzero0] }
def smma (ph : TPhase) : State := withSlots { bmma8 with trecs := [mma8 ph] }
theorem starter1 (s : State) (c : Nat) (q : EngineQ) (x : Nat × TileRec)
    (h : (s.blocksOf c).flatMap (fun e => (e.2.live.filter fun t => engineOf t.ins == some q && s.startable e.1 t).map fun t => (e.1, t)) = [x]) :
    s.starters c q = [x] := by
  unfold State.starters; rw [h]; simp
theorem witness_TileEngines :
    (szero.engineBusy 0 .matrix = false ∧ szero.starters 0 .matrix = [(0, tzero0)] ∧ tzero0.ins = .tzero (ft 48 0 0 0 0)) ∧
    ((smma .queued).engineBusy 0 .matrix = false ∧ (smma .queued).starters 0 .matrix = [(0, mma8 .queued)] ∧
      (mma8 .queued).ins = .tmma (ft 48 1 2 0 0) ∧ (mma8 .queued).fault = none ∧ (mma8 .queued).progress < ((smma .queued).matIn 0 (mma8 .queued)).steps) ∧
    ((withSlots { bmma with trecs := [{ tzero0 with phase := .running }] }).runningOn 0 .matrix = some (0, { tzero0 with phase := .running })) ∧
    ((smma .running).runningOn 0 .matrix = some (0, mma8 .running) ∧ (mma8 .running).names.getLast? = some 48 ∧
      aget (smma .running).blocks 0 = some { bmma8 with trecs := [mma8 .running] } ∧
      Block.aname { bmma8 with trecs := [mma8 .running] } 48 = some (acc0 0x21 8) ∧ bmma8.freeing = [] ∧ (smma .running).flawIn 0 (mma8 .running) = none ∧ classA (Shape.fmt dPlane8) = some 1 ∧
      (acc0 0x21 8).elems.length = 8 * 8 ∧
      (let m := (smma .running).matIn 0 (mma8 .running)
       ∀ k ≤ 2, -2 ^ 95 ≤ 5 + m.partialSum 0 0 0 k ∧ 5 + m.partialSum 0 0 0 k < 2 ^ 95)) :=
  ⟨⟨by decide +kernel, starter1 _ _ _ _ (by decide +kernel), rfl⟩,
   ⟨by decide +kernel, starter1 _ _ _ _ (by decide +kernel), rfl, rfl, by decide +kernel⟩, by decide +kernel, by decide +kernel, by decide +kernel,
   by decide +kernel, by decide +kernel, rfl, by decide +kernel, by decide +kernel, by decide +kernel⟩

/-- A TLD of name 2 by hart 0: rows of 64 elements of F16, from virtual address 0, with translation `held`. -/
def tld2 (held : List Xlat) (placed : Bool) : TileRec :=
  { seq := 0, ins := .tld { gm := 7, lit := none, t := 2, base := 0, layout := 0, xo := 0, token := 0, scope := 0, off := 0 }, pc := 24, lit := false
    faultPassed := false, names := [2], dst := [{ name := 2, slot := if placed then 2 else 3, before := 2, rcd := dRow }]
    xv := [0], dims := [(2, 64), (128, 32)], held := held }
def isDone : XNeed → Bool
  | .done => true
  | _ => false
def isPage : XNeed → Option (Nat × Nat × Bool)
  | .page e va b => some (e, va, b)
  | _ => none
def stld (t : TileRec) (tlb : List Xlat) : State :=
  { on { bmma with trecs := [t], level := .k, ebuf := [{ page := 8192, write := false, res := none }]
                   ctl := { ({} : Ctl) with tvec := 0x1001, tdeleg := BitVec.allOnes 64, haltstat := 0 } } with
    cores := [(0, { ({} : Core) with
      tlb := tlb
      slots := slots0 ++ [{ id := 3, state := .filling, owner := 0, name := 2, units := [], filled := false, placed := false }] })] }
theorem witness_TileProgress :
    (aget (stld (tld2 [] false) [page0]).blocks 0).isSome ∧ ((stld (tld2 [] false) [page0]).blkAt 0).trecs = [tld2 [] false] ∧
    ((stld (tld2 [] false) [page0]).slotPlaced 0 3 = false ∧ ((stld (tld2 [] false) [page0]).slot 0 3).isSome ∧
      (((stld (tld2 [] false) [page0]).blkAt 0).tname 2).map (·.resv) = some [(2, [6]), (0, [7])]) ∧
    (let s := stld (tld2 [] true) [page0]
     let t := tld2 [] true
     (s.blkAt 0).frozen = false ∧ t.faultPassed = false ∧ t.fault = none ∧ t.phase = .queued ∧ s.slotPlaced 0 2 = true ∧
      isDone ((tld2 [page0] true).need (s.blkAt 0) (t.shape.count - t.xlated) 0) = true ∧
      isPage (t.need (s.blkAt 0) (t.shape.count - t.xlated) 0) = some (0, 0, false) ∧
      findPage (s.core 0) (s.blkAt 0).ebuf (s.blkAt 0).ctx false 0 = some (some page0) ∧ page0.allows (s.blkAt 0).level .load = true ∧
      (match aperture (page0.phys 0) with | .device a => a == 0 | _ => false) = true ∧ page0.fmt = 0 ∧ hasScales t.shape = false ∧
      isPage ({ t with xv := [8192] }.need (s.blkAt 0) 1 0) = some (0, 8192, false) ∧
      findPage (s.core 0) (s.blkAt 0).ebuf (s.blkAt 0).ctx false 8192 = some none) ∧
    (let t : TileRec := { tld2 [page0] true with phase := .finished }
     t.fault = none ∧ t.refused = false ∧ ((stld t [page0]).blkAt 0).dying = false) ∧
    (let t : TileRec := { tld2 [] true with xlated := 3, progress := 3, fault := some { cause := .xlate, access := .copyIn, estart := 3 } }
     let b := (stld t [page0]).blkAt 0
     t.out = [] ∧ t.streams = [] ∧ t.refused = false ∧ b.ctl.haltstat.getLsbD 0 = false ∧ b.stop = 0 ∧
       b.escalates .xlate = false) := by
  decide +kernel

/-- A gang of harts 0 and 1, a stream from 1 to 0, and the TRECV of hart 0 that expects it. -/
def gang0 : Gang := { id := 1, launch := 1, index := 0, home := 0, cluster := 0, nbar := 1, members := [some 0, some 1], bars := [], gsync := [], tsync := [] }
def stream0 (fmt : Nat) (r : Option Nat) : Stream :=
  { id := 7, gang := 1, src := 1, dst := 0, ch := 0, header := [fmt, 0, 0, 0, 0], bytes := 4096, content := 9, sent := 1, arrived := 0, headerSeen := r.isSome
    receiver := r }
def trecv2 (streams : List Nat) : TileRec :=
  { tld2 [] true with ins := .trecv (ft 2 0 0 0 0), phase := .running, xv := [1], streams := streams, faultPassed := !streams.isEmpty }
def sstream (x : Stream) (t : TileRec) : State :=
  { stld t [page0] with streams := [x], cp := { ({} : Cp) with gangs := [gang0] } }
def scinit (w : Word) : State :=
  on { blk0 with trecs := [{ seq := 0, ins := .cinit (ft 0 0 0 0 0), pc := 0, lit := false, phase := .running, xv := [w], chSeq := 4 }] }
def carry0 : Carry := { launch := 1, key := 4, pos := 1, seq := 0, carries := [(1, 2)] }
def schain : State :=
  { on { blk0 with chain := some { key := 4, pos := 1, len := 2, lines := 1, wide := false } } with carries := [carry0], completions := [carry0] }
theorem witness_TileNetwork :
    (let s := sstream (stream0 0x12 none) (trecv2 [])
     (s.streams.find? fun y => y.id == 7).isSome ∧ s.memberHart 1 0 = some 0 ∧ (s.blkAt 0).frozen = false ∧
      State.receiverOn (s.blkAt 0) 0 = some (trecv2 []) ∧ (((trecv2 []).xv[0]?).getD 0).toNat = 1 ∧
      State.ownHeader (trecv2 []).shape = [0x12, 0, 0, 0, 0] ∧ State.ownHeader (trecv2 []).shape ≠ (stream0 0x11 none).header) ∧
    (let s := sstream (stream0 0x12 (some 0)) (trecv2 [7])
     ((s.blkAt 0).live.find? fun t => t.streams.contains 7 && t.faultPassed && t.phase == .running && some t.seq == some 0) = some (trecv2 [7]) ∧
      0 + 1 < cdiv 4096 64 ∧ s.memberHart 1 1 = some 1 ∧ (s.blkAt 1).frozen = false ∧ (s.slot 0 2).isSome ∧
      0 < 1 ∧ 64 ≤ min 4096 (Shape.content (trecv2 [7]).shape)) ∧
    (let t := { older .running with src := [{ slot := 1, rcd := dPlane, off := 0 }], streams := [7] }
     let x := { stream0 0x12 none with src := 0, dst := 1 }
     let s := sstream x t
     s.memberHart 1 0 = some 0 ∧ 0 ≠ awayHart ∧ (s.blkAt 0).frozen = false ∧
      ((s.blkAt 0).live.find? fun t => t.streams.contains 7 && t.phase == .running) = some t ∧ (s.slot 0 1).map (·.filled) = some true ∧
      s.served x = some 7 ∧ 64 * 1 + 64 ≤ 4096 ∧ 1 < 0 + 64) ∧
    (let w : Word := 1 + 2 * 2 ^ 16 + 1 * 2 ^ 32
     (scinit w).chainTaken 0 4 1 = false ∧ (w.extractLsb' 16 16).toNat ≠ 0 ∧ (w.extractLsb' 32 16).toNat ≠ 0 ∧
      (w.extractLsb' 0 16).toNat < (w.extractLsb' 16 16).toNat ∧ ((0 : Word).extractLsb' 16 16).toNat = 0) ∧
    schain.chainMember 1 4 1 = some 0 ∧ schain.carries[0]? = some carry0 ∧ schain.completions[0]? = some carry0 := by
  decide +kernel

/-! ## Hypotheses met: homes, answers, gathers, locks, mesh, walks -/

/-- The line of address 64 in the slice of its stack, and a request of hart 0 for eight bytes of it, at the head of its home. -/
def sliceLine0 : SliceLine := { stack := stackOf 64, way := 0, line := 0, bytes := [], use := 0 }
def req0 (op : HomeOp) : HomeReq := { id := 5, hart := 0, src := .core 0, pa := 64, op := op, seq := 1 }
def shome (l : List (Node × Msg)) (locks : List LineLock) : State :=
  { on blk0 with ms := { ({} : MemSys) with inbox := l, slice := [sliceLine0], locks := locks } }
theorem witness_HomeAccesses :
    let s := shome [(.stack (stackOf 64), .req (req0 (.read 8)))] []
    (s.ms.inbox = [(.stack (stackOf 64), .req (req0 (.read 8)))] ∧ s.inTurn (req0 (.read 8)) = true ∧ s.waitingAt (stackOf 64) < 1024 ∧
      s.workAhead (stackOf 64) 0 = false) ∧
    (aperture 64 = .device 64 ∧ (s.ms.sliceLine 64).isSome = true ∧ s.rowHeld 64 = false ∧ s.ms.lockOf (lineOf 64) = none ∧
      Memory.wf s.ms.mem = true) ∧
    (let s := shome [(.stack (stackOf 64), .req (req0 (.read 8)))] [{ line := 0, holder := 3, seq := 0, waiters := [] }]
     s.inTurn (req0 (.read 8)) = true ∧ s.waitingAt (stackOf 64) < 1024 ∧ s.workAhead (stackOf 64) 0 = false ∧
      State.LineLock.heldBy { line := 0, holder := 3, seq := 0, waiters := [] } (req0 (.read 8)) = false ∧ (s.ms.lockOf (lineOf (homeAddr 64))).isSome) := by
  decide +kernel

/-- A head of hart 0's store queue, and the line of address 64 in L1. -/
def ssq (e : SqOp) (w : Option Wait) (l1 : List L1Line) : State :=
  { on { blk0 with sq := [e], wait := w } with cores := [(0, { core0 with l1 := l1 })] }
theorem witness_StoreQueues :
    (let s := ssq (.store [(64, 8, 9)] .core false) none [line1]
     cacheable 64 = true ∧ (s.core 0).l1Find 64 = some line1 ∧ (s.core 0).l1Ways ≠ [] ∧ s.coreLocked 0 64 8 = false ∧ (s.blkAt 0).pend = []) ∧
    ((ssq (.store [(64, 8, 9)] .device false) none []).focus 0).mayLeave 64 = true ∧
    (((ssq (.amo 7 .add 64 8 1 0) none []).focus 0).mayLeave 64 = true ∧ ((ssq (.amo 7 .add 64 8 1 0) none []).core 0).l1Find 64 = none) ∧
    ((ssq (.release .core none false .ready true) (some .release) []).blkAt 0).wait = some .release ∧
    ((ssq (.release .system none false (.flush [0] [] 1) true) (some .release) []).blkAt 0).sq = [.release .system none false (.flush [0] [] 1) true] ∧
    ((ssq (.release .core none false .ready true) (some .release) []).blkAt 0).unacked = [] ∧
    (let s := { (shome [(.stack (stackOf 64), .req (req0 (.read 8)))] []) with ms := { ({} : MemSys) with inbox := [(.stack (stackOf 64), .req (req0 (.read 8)))] } }
     aperture 0 = .device 0 ∧ stackOf 0 = stackOf 64 ∧ s.ms.sliceLine 0 = none ∧ lineOf (homeAddr 64) = lineOf 0 ∧
      (s.plat.scrWays[stackOf 64]?).getD 0 ≤ 15 ∧ s.ms.slice = []) := by
  decide +kernel

/-- A load of hart 0 in flight, its answer first at core 0. -/
def pend0 (fill : Bool) : PendLoad := { id := 5, dest := .x 4 false 64, pa := 64, n := 8, fill := fill, acquire := none, before := 0 }
def sanswer (m : Msg) (b : Block) : State := { on b with ms := { ({} : MemSys) with inbox := [(.core 0, m)] } }
theorem witness_CoreAnswers :
    (sanswer (.resp 5 9 0) { blk0 with pend := [pend0 false] }).loadOf 0 5 = some (0, pend0 false) ∧ cacheable 64 = true ∧
    (let s := sanswer (.fill 5 64 9 0) { blk0 with pend := [pend0 true] }
     s.loadOf 0 5 = some (0, pend0 true) ∧ 64 / 64 * 64 = 64 ∧ (s.core 0).acquires = 0 ∧ (s.core 0).l1Find 64 = none ∧ (s.core 0).l1Ways ≠ []) ∧
    (sanswer (.dropAck 0) blk0).coreServed 0 0 [] = true ∧ coreOf 0 = 0 ∧ ((sanswer (.dropAck 0) { blk0 with wait := some (.patch 1) }).blkAt 0).wait = some (.patch 1) ∧
    ((sanswer (.dropAck 0) { blk0 with wait := some (.patch 160) }).blkAt 0).wait = some (.patch (158 + 2)) ∧
    (sanswer (.dropAck 0) blk0).ms.locks = [] ∧ (sanswer (.dropAck 0) blk0).ms.gathers = [] := by
  decide +kernel

/-- A gather of two elements of four bytes in the line of address 64. -/
def gather0 (w : Bool) : GatherReq :=
  { id := 5, hart := 0, core := 0, first := stackOf 64, n := 4, write := w, elems := [(0, 64, 1), (1, 68, 2)] }
def sgather (m : Msg) (l : List GatherWork) : State :=
  { on { blk0 with pend := [{ pend0 false with dest := .vel 4 32 0 }] } with
    ms := { ({} : MemSys) with inbox := [(.stack (stackOf 64), m)], slice := [sliceLine0], gathers := l } }
theorem witness_GatherUnits :
    (let s := sgather (.gather (gather0 false)) []
     s.ms.gathers = [] ∧ s.waitingAt (stackOf 64) < 1024 ∧ (∀ x ∈ (gather0 false).elems, s.held x.2.1 = false ∧
        s.ms.lockOf (State.elemLine x) = none ∧ s.inOrder 0 (State.elemLine x) 0 = true) ∧
      (∀ x ∈ (gather0 false).elems, aperture x.2.1 = .device x.2.1 ∧ stackOf x.2.1 = stackOf 64 ∧ (s.ms.sliceLine x.2.1).isSome = true ∧
        x.2.1 % 4 = 0)) ∧
    (let s := sgather (.gather (gather0 true)) []
     s.ms.gathers = [] ∧ ((gather0 true).elems.map (·.2.1)).Nodup) ∧
    (let w : GatherWork := { stack := stackOf 64, fwd := false, req := gather0 false, todo := [], missing := 2, done := [] }
     w.req.id = (gather0 false).id ∧ w.missing = (gather0 false).elems.length ∧ w.req.bad = none) ∧
    (sgather (.gather (gather0 false)) []).loadOf 0 5 = some (0, { pend0 false with dest := .vel 4 32 0 }) ∧
    ((gather0 false).elems.map (·.1)).Nodup ∧ (∀ x ∈ (gather0 false).elems, 32 * (x.1 + 1) ≤ 8192) := by
  decide +kernel

theorem witness_LineLocks :
    (∀ l ∈ [0, 256], lineOf l = l ∧ (shome [] []).ms.lockOf l = none) ∧ ([0, 256] : List Nat).Nodup ∧
    (shome [] [{ line := 0, holder := 3, seq := 0, waiters := [] }]).ms.lockOf 0 = some { line := 0, holder := 3, seq := 0, waiters := [] } ∧
    (∀ l ∈ [0, 256], (shome [] []).workAhead 0 l = false) ∧
    (on { blk0 with trecs := [{ tld2 [] true with locksLeft := [0, 256] }] }).blk.trecs = [{ tld2 [] true with locksLeft := [0, 256] }] := by
  decide +kernel

def packet0 : Packet := { die := 0, col := 0, row := 0, inPort := .here, cls := .lat, since := 0, ts := 0, src := 0, dst := .core 0, msg := .ack 1 }
/-- A request of the host is answered. -/
def shost : State := { State.reset with plat := { ({} : Platform) with hostOut := some 5 }, ms := { ({} : MemSys) with inbox := [(.host, .resp 5 9 0)] } }
theorem witness_MeshForwarding_host : shost.plat.hostOut = some 5 ∧ shost.ms.inbox = [(.host, .resp 5 9 0)] ∧ State.reset.plat.hostOut = none ∧
    State.reset.fab.serving = [] := by decide +kernel
theorem witness_MeshForwarding :
    (∀ k : VClass, 0 < State.reset.plat.weight k) ∧ (∃ d : Node, routeOut 0 2 0 d = .here) ∧ (∃ d : Node, routeOut 0 0 0 d = .east) ∧
    (∃ d : Node, routeOut 0 9 0 d = .west) ∧ (∃ d : Node, d.router.1 ≠ 0 ∧ routeOut 0 (bridgeCol 0) 0 d = .bridge) := by
  refine ⟨fun k => by cases k <;> decide, ⟨.core 0, ?_⟩, ⟨.core 79, ?_⟩, ⟨.core 0, ?_⟩, .core 159, ?_, ?_⟩ <;> decide +kernel

/-- A miss of address 8192, and its entry, at 8: a table, or a leaf. -/
def miss0 : Miss :=
  { die := 0, ctx := 1, vpn := 1, va := 8192, write := false, waiters := [0], looked := true, level := 0, table := 0, started := true }
def swalk (m : Miss) (mem : Memory) : State :=
  { on { blk0 with wait := some .walk } with ms := { ({} : MemSys) with mem := mem, misses := [m] } }
/-- The walker of die 0 has an answer. -/
def sread (m : Miss) (v : Nat) : State :=
  let s := swalk { m with req := some 5 } []
  { s with ms := { s.ms with inbox := [(.walker 0, .resp 5 v 0)] } }
theorem witness_PageWalks :
    (let s := swalk miss0 []
     s.ms.misses[0]? = some miss0 ∧ State.pteAddr miss0 = 8 ∧ aperture 8 = .device 8 ∧ s.ms.upper = [] ∧ miss0.req = none ∧ miss0.leaf = none) ∧
    ((sread miss0 0).ms.misses[0]? = some { miss0 with req := some 5 } ∧ State.badPte 0 0 = true ∧ miss0.dirtyM = 0) ∧
    (State.badPte 1 1 = false ∧ (1 : Nat).testBit 1 = false ∧ State.badPte 7 0 = false ∧ (7 : Nat).testBit 1 = true) ∧
    (let s := swalk { miss0 with leaf := some 7 } []
     s.ms.misses[0]? = some { miss0 with leaf := some 7 } ∧ (s.core 0).l1Find 8 = none ∧ s.wbInFlight 0 8 = false) ∧
    (sread { miss0 with leaf := some 7 } 7).ms.misses[0]? = some { miss0 with leaf := some 7, req := some 5 } ∧
    ((swalk { miss0 with done := true } []).blkAt 0).wait = some .walk := by
  decide +kernel

/-! ## Hypotheses met: barriers, hardware queues, tasks -/

/-- The block of launch 1, whose object has one barrier, in gang 1 with one barrier of count 2. -/
def bar0 (arrived : Nat) : Bar := { count := 2, arrived := arrived, phase := false, arr := List.range arrived }
def sbar (b : Block) (arrived : Nat) : State :=
  { on b with cp := { ({} : Cp) with launches := [launch0], gangs := [{ gang0 with bars := [bar0 arrived], gsync := [1, 1], tsync := [1, 1] }] } }
def barReq (m : BarMsg) : BarReq := { gang := 1, pos := 0, hart := 0, msg := m }
theorem witness_Barriers :
    (Runs (sbar blk0 0) 7 [5] ∧ (sbar blk0 0).blk.child = false ∧ (fq 0 5 0 0 1).n.toNat < (sbar blk0 0).nbar ∧
      (sbar blk0 0).calm .device ∧ (sbar blk0 0).blk.live = [] ∧ aget (sbar blk0 0).blk.arrivals 0 = none ∧
      ((sbar blk0 0).blk.getX 5 + (fq 0 5 0 0 0xFFF).imm.setWidth 64).toNat = 4095) ∧
    (sbar { blk0 with child := true } 0).blk.child = true ∧ (sbar blk0 0).nbar ≤ (fq 0 5 0 1 1).n.toNat ∧
    aget (sbar { blk0 with arrivals := [(0, true)] } 0).blk.arrivals 0 = some true ∧
    (((sbar blk0 0).gangOf 1).map (·.bars[0]?) = some (some (bar0 0)) ∧ (bar0 0).arrived + 1 ≠ (bar0 0).count ∧
      (bar0 1).arrived + 1 = (bar0 1).count) ∧
    ((sbar { blk0 with wait := some (.barrier 0 false false none) } 1).blkAt 0).placed = true ∧
    (sbar { blk0 with wait := some (.barrier 0 false false none) } 1).arrivalDue 1 0 0 = false ∧
    ((sbar { blk0 with wait := some (.barInit 0) } 0).blkAt (barReq (.init 0 2)).hart).wait = some (.barInit 0) ∧
    (((sbar { blk0 with wait := some (.gsync 1) } 0).gangOf 1).map fun g => (g.gsync.length = g.members.length ∧ g.members = [some 0, some 1] ∧
      g.gsync = [1, 1] ∧ g.tsync = [1, 1] : Bool)) = some true :=
  ⟨⟨runs rfl rfl rfl rfl _, rfl, by decide +kernel, by unfold State.calm; decide +kernel, by decide +kernel, rfl, by decide +kernel⟩,
   by decide +kernel⟩

/-- A queue of cluster 0 that holds one record. -/
def rec0 : Rec := [1, 2, 3, 4, 5, 6, 0x0008000400020001, 8]
def sq (q : Nat) (x : HwQueue) (b : Block) : State :=
  { on b with queues := [(q, x)], cp := { ({} : Cp) with launches := [{ launch0 with stages := 2, live := [1, 1] }] } }
/-- A task of 1,000 elements of 8, 4, 2 and 1 bytes in X16 to X22. -/
def btask : Block := regs [(17, 1000), (22, 0x0001000200040008)] blk0
/-- Core 0 with bank 0 in FIFO mode. -/
def sfifo (b : Block) : State := { on b with cores := [(0, { core0 with banks := core0.banks.set 0 .fifo })] }
theorem witness_HardwareQueues :
    (Runs (sq 5 {} blk0) 7 (recRegs 16) ∧ (sq 5 {} blk0).calm .device ∧
      ((sq 5 {} blk0).blk.getX 16).toNat % 8 = 0 ∧ (sq 5 {} blk0).blk.stage + 1 < (sq 5 {} blk0).myStages ∧
      (sq 5 {} { blk0 with stage := 1 }).myStages ≤ 1 + 1) ∧
    (∃ x : HwQueue, (sq 5 { recs := [rec0] } blk0).hwq (clusterOf 0) 5 = x ∧ x.recs = [rec0] ∧ rec0.length = 8 ∧ x.waitPop = [] ∧
      (((sq 5 { recs := [rec0] } blk0).opened none).registerConsumer 5).refillFault x = none) ∧
    ((sq 5 {} blk0).hwq (clusterOf 0) 5).recs = [] ∧ (sq 56 { closed := true } { blk0 with stage := 1 }).blk.stage ≠ 0 ∧
    ((sq 56 { closed := true } { blk0 with stage := 1 }).hwq (clusterOf 0) 56).closed = true ∧
    (Runs (on btask) 7 (4 :: (List.range 7).map fun i => BitVec.ofNat 6 (16 + i)) ∧ (on btask).blk.lanes ≠ 0 ∧
      (∀ n < 4, ((on btask).blk.getX 22).toNat / 2 ^ (16 * n) % 2 ^ 16 ∈ [0, 1, 2, 4, 8])) ∧
    (Runs (sfifo blk0) 7 [] ∧ (sfifo blk0).xPending 60 = false ∧ (((sfifo blk0).core 0).banks[0]?).getD .cache = .fifo ∧
      ((sfifo blk0).dataq 0).bound = none ∧ (sfifo blk0).blk.boundTo 60 = none ∧ ((on blk0).core 0).banks[0] ≠ .fifo ∧
      (bound60 []).pushesDue 60 = 0 ∧ (bound60 []).blk.boundTo 60 = some 3) :=
  ⟨⟨runs rfl rfl rfl rfl _, by unfold State.calm; decide +kernel, by decide +kernel⟩, ⟨_, rfl, by decide +kernel⟩, by decide +kernel,
   by decide +kernel, by decide +kernel, ⟨runs rfl rfl rfl rfl _, by decide +kernel⟩, runs rfl rfl rfl rfl _, by decide +kernel⟩
/-- A push on its way, one that waits, a pop that waits, a refill. -/
theorem witness_HardwareQueues_events :
    (let s := { sq 5 {} { blk0 with wait := some (.push 5) } with pushes := [{ cluster := 0, q := 5, hart := 0, rcd := rec0 }] }
     clusterOf (coreOf 0) = 0 ∧ (s.hwq 0 5).waitPush = [] ∧ (s.hwq 0 5).closed = false ∧ (s.hwq 0 5).ringCount = 0 ∧ (s.hwq 0 5).recs.length < 32) ∧
    (sq 5 { recs := List.replicate 32 rec0 } blk0).onlyConsumer 0 5 0 = false ∧
    (sq 5 { recs := List.replicate 32 rec0 } { blk0 with consumers := [5] }).onlyConsumer 0 5 0 = true ∧
    (let s := sq 5 { waitPush := [(0, rec0)] } { blk0 with wait := some (.push 5) }
     (s.hwq 0 5).waitPush = [(0, rec0)] ∧ (s.blkAt 0).rep = none ∧ (s.blkAt 0).pops = []) ∧
    (let s := sq 5 { waitPop := [0], recs := [rec0] } { blk0 with wait := some (.pop 5 16 (some 1)) }
     (s.hwq 0 5).waitPop = [0] ∧ (∀ r ∈ recRegs 16, (s.blkAt 0).boundTo r = none) ∧ (s.focus 0).refillFault (s.hwq 0 5) = none) ∧
    (let x : HwQueue := { qring := 0x2001, ringCount := 2 }
     min 8 (min (32 - x.recs.length) x.ringCount) ≠ 0 ∧ (on blk0).stageEnds 0 56 = false) := by
  decide +kernel

/-- Tables of context 1 at 0: level 3 leads to level 2, whose entry 0 is a readable, writable page. -/
def tables0 : Memory := [(0, 1), (1, 0x20), (8192, 0x0F)]
def context0 : Context :=
  { root := 0, pasid := 0, xaBase := 0, xaBytes := 0, xaUsed := 0, allow := [], reqSig := false, digests := [], objs := [], cached := [], events := [] }
def stask (b : Block) : State :=
  { on b with
    ms := { ({} : MemSys) with mem := tables0 }
    cp := { ({} : Cp) with contexts := [(1, context0)], launches := [launch0]
                           suspended := [{ frame := 256, blk := { blk0 with stackBase := 256, placed := true } }] } }
/-- A block whose frame lies at 64, in no group, so that it is suspended away. -/
def bframe : Block := { bnone with stackBase := 64 }
def child0 : Child :=
  { launch := 1, home := 0, entry := 0, arg1 := 1, arg2 := 2, parentFrame := 256, gx := 0, gy := 0, gz := 0, stage := 0, fctl := 0, seed := 0
    srgn := Vector.replicate 4 0, gen := 3 }
def isProbe : ProbeRes → Bool
  | .ok _ _ => true
  | _ => false
def isRead : Except Cause (List Nat) → Bool
  | .ok _ => true
  | _ => false
theorem noPeer64 (off : Nat) : aperture 64 ≠ .peer off := by
  rw [show aperture 64 = .device 64 by decide +kernel]; exact fun h => nomatch h
theorem witness_Tasks :
    (Runs (stask bframe) 7 [5, 6] ∧ (stask bframe).blk.frameAns = none ∧ ((stask bframe).blk.pc + (0 : BitVec 22).signExtend 64).toNat % 8 = 0 ∧
      ((stask bframe).blk.pc + (4 : BitVec 22).signExtend 64).toNat % 8 ≠ 0 ∧ (stask bframe).calm .device ∧
      Reaches (stask bframe) none .amo .atomic (64 + 8) 8 72) ∧
    (∃ w, (stask { bframe with frameAns := some (0, 4095) }).blk.frameAns = some (0, w) ∧ w % 4096 = 4095) ∧
    ((stask bframe).restoreDue = false ∧ ((stask bframe).launchOf 1).isSome ∧ ((stask bframe).childHart child0 launch0).isSome ∧
      (State.freeAreas launch0).head? = some 0) ∧
    (let s := stask bframe
     let o := s.opened none
     s.blk.words = [] ∧ s.blk.pend = [] ∧ s.blk.peerBad = none ∧ s.blk.memReady = true ∧ sends o 64 = true ∧ isProbe (o.probe .store .store 64 8 0) = true ∧
      isProbe (o.probe .amo .atomic 72 8 0) = true ∧ s.blk.sq.length < 15 ∧ s.blk.live = [] ∧ s.blk.child = false ∧ s.calm .system) ∧
    (Block.holdsWord { bframe with words := [(64, 0), (72, 0)] } 64 0 ∧ Block.holdsWord { bframe with words := [(64, 0), (72, 0)] } 72 0) ∧
    (let r : Resume := { launch := 1, frame := 256, cont := 8, inplace := false, hart := 3 }
     let s := stask bframe
     (s.cp.suspended.find? fun x => State.isParent r x.blk).isSome ∧ (s.blkAt 3).placed = false ∧
      isRead (s.readFrame 1 256).2 = true) ∧
    (let r : Resume := { launch := 1, frame := 64, cont := 8, inplace := true, hart := 0 }
     let s := stask { bframe with wait := some (.sync true) }
     (s.blocks.find? fun (e : Nat × Block) => e.2.placed && State.isParent r e.2 && e.2.wait == some (.sync true) && e.2.stop == 0).isSome ∧
      isRead (s.readFrame 1 64).2 = true) :=

  ⟨⟨runs rfl rfl rfl rfl _, rfl, by decide +kernel, by decide +kernel, by unfold State.calm; decide +kernel, by decide +kernel, page0, by decide +kernel⟩,
   ⟨4095, rfl, rfl⟩, by decide +kernel,
   by unfold State.calm; decide +kernel, by unfold Block.holdsWord; decide +kernel, by decide +kernel, by decide +kernel⟩

/-! ## Hypotheses met: events, control registers, system operations -/

/-- The context of the block is there, and its event 1 stands at 5. -/
def ssig (b : Block) : State := { on b with cp := { ({} : Cp) with contexts := [(1, { context0 with events := [(1, 5)] })] } }
def bsig : Block := regs [(5, 1), (6, 5), (7, 6)] blk0
theorem witness_Signals : Runs (ssig bsig) 7 [5, 6, 4] ∧
    ((ssig bsig).blk.getX 5 + (0 : BitVec 21).setWidth 64).toNat = 1 ∧ ((ssig bsig).blk.getX 5 + (254 : BitVec 21).setWidth 64).toNat = 255 ∧
    ((ssig bsig).blk.getX 5 + (255 : BitVec 21).setWidth 64).toNat = 256 ∧ (ssig bsig).calm .device ∧ ((ssig bsig).context 1).isSome = true ∧
    (ssig bsig).eventCount 1 1 = 5 ∧ ((ssig bsig).blk.getX 6).toNat = 5 ∧ ((ssig bsig).blk.getX 7).toNat = 6 ∧
    ((ssig { blk0 with wait := some (.evwait 1 5 4) }).blkAt 0).wait = some (.evwait 1 5 4) ∧ (ssig bsig).blk.sq.length < 16 ∧
    (ssig bsig).blk.releasing = false ∧ (ssig bsig).peerWrites = false ∧ Reaches (ssig bsig) none .store .store 64 8 64 :=
  ⟨runs rfl rfl rfl rfl _, by decide +kernel, by decide +kernel, by decide +kernel, by unfold State.calm; decide +kernel, by decide +kernel,
   by decide +kernel, by decide +kernel, by decide +kernel, by decide +kernel, by decide, by decide +kernel, by decide +kernel,
   by decide +kernel, page0, by decide +kernel⟩

def bS : Block := { b56 with level := .s }
theorem witness_SystemRegisters : Runs (on b56) 7 [5, 4] ∧ Runs (on bS) 7 [5, 4] ∧ CtlReady (on b56).blk 0x010 ∧ CtlReady (on bS).blk 0x020 ∧
    CtlReady (on b56).blk 0x119 ∧ (0x010, fun s : State => s.blk.ctl.fctl) ∈ ctlTable ∧ (0x020, ~~~(6 : Word)) ∈ ctlWritten ∧
    (on b56).blk.level = .k ∧ (on bS).blk.level = .s ∧
    (let s := on { regs [(5, 1)] bS with ctx := 1 }
     let t := { s with blocks := s.blocks ++ [(1, { blk0 with ctl := { ({} : Ctl) with haltstat := 0x102 } })] }
     ¬(s.blkAt 1).placed ∧ (t.blkAt 1).placed ∧ (t.blkAt 1).ctx = t.blk.ctx ∧ (t.blkAt 1).ctl.haltstat.getLsbD 0 = false ∧ 1 ≠ t.cur) :=
  ⟨runs rfl rfl rfl rfl _, runs rfl rfl rfl rfl _, by unfold CtlReady; decide +kernel, by unfold CtlReady; decide +kernel,
   by unfold CtlReady; decide +kernel, by simp [ctlTable], by decide, rfl, rfl, by decide +kernel⟩

/-- A data queue of bank 1 in FIFO mode is bound. -/
def sbank (b : Block) : State :=
  { on b with cores := [(0, { core0 with banks := core0.banks.set 9 .fifo, dataq := [(36, { bound := some 3 })] })] }
def regs2 (lo len : Word) : Block := regs [(5, lo), (4, len)] { blk0 with level := .s }
theorem witness_SystemOperations :
    (Runs (on (regs2 64 64)) 7 [5, 4] ∧ (on (regs2 64 64)).blk.level = .s ∧ Quiet (on (regs2 64 64)).blk ∧ (on (regs2 64 64)).calm .device) ∧
    (((on (regs2 0 0)).core 0).banks[8]? = some .tile ∧ ((on (regs2 0 0)).core 0).banks[0]? = some .cache ∧
      (on (regs2 0 0)).bankFree 0 8 = true ∧ ((sbank (regs2 0 0)).core 0).banks[9]? = some .fifo ∧ (sbank (regs2 0 0)).bankFree 0 9 = false ∧
      aget (on (regs2 0 0)).plat.scrTarget 3 = none ∧ ((on (regs2 0 0)).opened none).bankTurn 8 = true) ∧
    ((on (regs2 8 0)).blk.getX 5).toNat % 64 ≠ 0 ∧
    ((on (regs2 0 0x60)).opened none).pieces .load 2 0 16 = some [(0, 16)] ∧
    (({ bytes := ((on (regs2 0 0)).opened none).getPieces [(0, 16)] } : ImageView)).good = false ∧
    ((on (regs2 0 0)).opened none).pieces .load (State.pagesOf 0) 0 16 = some [(0, 16)] ∧
    ((on (regs2 0 64)).blk.getX 4).toNat + 0 ≤ 0x00C000000000 ∧ 0x00C000000000 < ((on (regs2 0x00C000000000 1)).blk.getX 5).toNat + 1 ∧
    (on (regs2 0 0)).ms.locks = [] ∧ ((on (regs2 0 64)).opened none).pieces .load (State.pagesOf 64) 0 64 = some [(0, 64)] ∧
    ((on (regs2 0 64)).opened none).badPieces [(0, 64)] = false ∧ ((on (regs2 0 64)).opened none).piecesBusy [(0, 64)] = false :=
  ⟨⟨runs rfl rfl rfl rfl _, rfl, by unfold Quiet; decide +kernel, by unfold State.calm; decide +kernel⟩, by decide +kernel⟩
/-- Conversions and invalidations that end. -/
theorem witness_SystemOperations_events :
    (let s := { on { blk0 with wait := some (.bank 8 1) } with ck := 2000, cores := [(0, { core0 with banks := core0.banks.set 8 (.switching 1 5) })] }
     (s.core 0).banks[8]? = some (.switching 1 5) ∧ 5 + 1024 ≤ s.ck ∧ ((s.blocksOf 0).find? fun e => match e.2.wait with
      | some (.bank k _) => k == 8
      | _ => false).isSome ∧ (s.blkAt 0).unacked = []) ∧
    (let s := (on { blk0 with wait := some (.l2cfg 3) }).setPlat fun p => { p with scrTarget := [(3, 4)] }
     aget s.plat.scrTarget 3 = some 4 ∧ s.conversionLocked 3 0 4 = false ∧
      (s.blocks.find? fun (e : Nat × Block) => e.2.wait == some (.l2cfg 3) && !s.plat.scrWait.any fun x => x.1 == 3 && x.2.1 == e.1).isSome) ∧
    (let x : Inval := { id := 1, ctx := 1, lo := 0, len := 0, all := true, hart := some 0, queue := none, tokens := [], copies := [], busy := [] }
     let s := on { blk0 with wait := some (.inval 1) }
     (s.blkAt 0).wait = some (.inval 1) ∧ (s.pruneInval x).tokens = [] ∧ (s.pruneInval x).copies = [] ∧ (s.pruneInval x).busy = [] ∧ (s.pruneInval x).walks = []) ∧
    (let s := (on { blk0 with wait := some (.measure 1) }).setCp fun cp => { cp with extensions := [{ id := 1, reg := 5, data := [7] }] }
     (s.cp.extensions.find? fun x => x.id == 1).isSome ∧ (s.blocks.find? fun (e : Nat × Block) => e.2.wait == some (.measure 1)).isSome) := by
  decide +kernel

/-- Hart 0 waits for the translation of function 0; its object lies at 0 and its FUNCS entry at 256. -/
def xlate0 (code : List Word) : CachedXlat := { va := 0x1000, digest := funcDigest { words := [7], recs := [] }, secVer := 1, lmin := 0, lmax := 8, code := code }
def sxlate (locks : List (Nat × Nat × Nat × Nat)) : State :=
  { on { blk0 with wait := some (.translate 0) } with
    ms := { ({} : MemSys) with mem := tables0 }
    cp := { ({} : Cp) with
      contexts := [(1, { context0 with cached := [xlate0 [1, 2]] })]
      launches := [{ launch0 with obj := { obj0 with funcs := [{ words := [7], recs := [] }] } }]
      xlocks := locks } }
def mgmtBytes : Except State.MgmtStop (State × List Byte) → Option (List Byte)
  | .ok r => some r.2
  | _ => none
def mgmtWrites : Except State.MgmtStop State → Bool
  | .ok _ => true
  | _ => false
theorem witness_Translation :
    ((sxlate []).blkAt 0).wait = some (.translate 0) ∧ ((sxlate []).launchOf 1).map (fun l => l.obj.sections[3]?) = some (some (256, 8)) ∧
    ((sxlate []).context 1).isSome ∧ (sxlate [(1, 0, 0, 0)]).waitsXlate 1 0 0 0 = true ∧ (sxlate [(1, 0, 0, 9)]).waitsXlate 1 0 0 9 = false ∧
    mgmtBytes ((sxlate []).mgmtRead 1 256 8) = some [0, 0, 0, 0, 0, 0, 0, 0] ∧ mgmtBytes ((sxlate []).mgmtRead 1 (2 ^ 40) 8) = none ∧
    (mgmtBytes ((sxlate []).mgmtRead 1 0 8)).map (fun bs => (ofLe bs).testBit 0) = some true ∧
    (((sxlate []).launchOf 1).bind fun l => [xlate0 [1, 2]].find? fun y => y.serves (funcDigest { words := [7], recs := [] }) l 0).isSome ∧
    mgmtWrites ((sxlate []).mgmtWrite 1 0x1000 (wordBytes [1, 2])) = true ∧ mgmtWrites ((sxlate []).mgmtWrite 1 256 (leBytes 8 0x1001)) = true ∧
    mgmtWrites (State.patchSites launch0 0x1000 [] (sxlate [])) = true ∧
    ((sxlate [(1, 0, 0, 0)]).cp.xlocks.find? fun k => k.2.2.2 == 0) = some (1, 0, 0, 0) := by
  decide +kernel

/-! ## Hypotheses met: commands, launches, the host, the link, the platform -/

/-- A device that runs, with a command of words `ws` on queue 3 of a context, or of the management queue when `ctx` is 0. -/
def ring0 (ws : List Nat) (ctx : Nat) : Queue :=
  { enable := true, log2size := 4, evlog2 := 4, ctx := ctx, qbase := 0x10000, tail := 1, cmd := some ((ws ++ List.replicate (8 - ws.length) 0).map
      (BitVec.ofNat 64), 0) }
def mem0 (l : List (Nat × Nat)) : Memory := tables0 ++ l.map fun e => (e.1, BitVec.ofNat 8 e.2)
def host0 (q : Queue) (l : List (Nat × Nat)) : State :=
  { State.reset with
    plat := { ({} : Platform) with bootState := 4, rank := 2 }
    ms := { ({} : MemSys) with mem := mem0 l }
    cp := { ({} : Cp) with contexts := [(1, { context0 with allow := [(7, 7)] })], queues := [(3, q)] } }
def cmd0 (ws : List Nat) (ctx : Nat) : State := host0 (ring0 ws ctx) []
def op0 (n : Nat) : Nat := n * 2 ^ 56
def isGot : State.Got → Bool
  | .ok _ _ => true
  | _ => false
def isWaiting : State.Got → Bool
  | .waits _ => true
  | _ => false
/-- A page of device memory that the management queue names by its address. -/
theorem piece0 (ws : List Nat) (va : Nat) (write : Bool) (h : aperture va = .device va) : (cmd0 ws 0).Piece 3 va write va (cmd0 ws 0) := by
  refine ⟨?_, ?_, ?_, rfl⟩
  · show State.cpXlat _ 0 va write = _
    simp [State.cpXlat, h]
  all_goals rw [h]; exact fun _ h => nomatch h
theorem dev_100 : aperture 0x100 = .device 0x100 ∧ aperture 0x200 = .device 0x200 := by decide +kernel
/-- The commands, each with its words, and the parts that they read: under way, or there. -/
def acopy (q : Queue → Queue) (l : List (Node × Msg)) : State :=
  let s := (cmd0 [op0 2, 0x100, 0x200, 8] 0).updQueue 3 q
  { s with ms := { s.ms with inbox := l } }
theorem witness_Commands :
    (let s := host0 { ring0 [] 0 with cmd := none } []
     s.plat.bootState = 4 ∧ s.plat.outOfService = false ∧ s.commandCome.isNone ∧ s.nextQueue = some 3 ∧ aperture 0x10000 = .device 0x10000) ∧
    (let s := { host0 { ring0 [] 0 with cmd := none, out := some (5, 64) } [] with ms := { ({} : MemSys) with inbox := [(.cp 0, .resp 5 9 0)] } }
     (s.commandCome.map fun x => (x.1, x.2.1, (x.2.2.queue 3).ready)) = some (3, (9, 0), true)) ∧
    (let s := host0 { ring0 [op0 1] 1 with status := some (7, 0) } []
     (s.queue 3).cmd.isSome ∧ (s.queue 3).status = some (7, 0) ∧ (s.queue 3).flush = false ∧ (s.queue 3).records = []) ∧
    (cmd0 [op0 2, 0x100, 0x200, 8] 0).command 3 2 = some [op0 2, 0x100, 0x200, 8, 0, 0, 0, 0] ∧
    (let s := acopy id []
     0 < 8 ∧ 8 ≤ 2 ^ 40 ∧ 0x100 + 8 ≤ 0x200 ∧ (s.queue 3).moved = 0 ∧ (s.queue 3).wfail = false ∧ s.writesOut 3 = false ∧
      (s.queue 3).got = [] ∧ (s.queue 3).out = none ∧ isWaiting (s.readBytes 3 0x100 8) = true) ∧
    (let s := acopy (fun q => { q with out := some (5, 8) }) [(.cp 0, .resp 5 9 0)]
     (s.readAnswer 3 5).isSome ∧ isGot (s.readBytes 3 0x100 8) = true) ∧
    (cmd0 [op0 3, 0x200, 8, 0xAA, 1] 0).command 3 3 = some [op0 3, 0x200, 8, 0xAA, 1, 0, 0, 0] ∧
    (cmd0 [op0 4, 0x200, 5, 1] 0).command 3 4 = some [op0 4, 0x200, 5, 1, 0, 0, 0, 0] ∧
    (cmd0 [op0 5, 255, 0, 2] 1).command 3 5 = some [op0 5, 255, 0, 2, 0, 0, 0, 0] ∧ ((cmd0 [op0 5, 255, 0, 2] 1).eventCount 1 255).toNat = 0 ∧
    (cmd0 [op0 6, 3, 0] 0).command 3 6 = some [op0 6, 3, 0, 0, 0, 0, 0, 0] ∧ ((cmd0 [op0 6, 3, 0] 0).queue 3).enable = true ∧
    (cmd0 [op0 8, 1, 0, 64] 1).command 3 8 = some [op0 8, 1, 0, 64, 0, 0, 0, 0] ∧ ((cmd0 [op0 8, 0, 0, 64] 1).queue 3).invalId = none ∧
    (cmd0 [op0 9, 1, 5, 0, 0, 0, 0, 0x8000] 0).command 3 9 = some [op0 9, 1, 5, 0, 0, 0, 0, 0x8000] ∧
    (let s := (cmd0 [op0 9, 1, 5, 0, 0, 0, 0, 0x8000] 0).updQueue 3 fun q => { q with got := List.replicate 512 0 }
     (s.queue 3).vf = 0 ∧ s.context 5 = none ∧ (s.context 1).isSome ∧ s.contextRuns 1 = false ∧ isGot (s.readBytes 3 0x8000 512) = true ∧
      State.badExtension (List.replicate 512 0) = false ∧ s.cp.queues.any (fun e => e.2.ctx == 1) = false) := by
  decide +kernel
/-- A WAIT that waits, a SIGNAL that adds, and the pages that they name. -/
theorem witness_Commands_wait :
    (let s := host0 { ring0 [op0 5, 0x200, 0, 0, 1] 0 with waiting := true } []
     s.command 3 5 = some [op0 5, 0x200, 0, 0, 1, 0, 0, 0] ∧ (s.queue 3).waiting = true ∧ isWaiting (s.readBytes 3 0x200 8) = true) ∧
    (cmd0 [op0 4, 0x200, 5, 1] 0).Piece 3 0x200 true 0x200 (cmd0 [op0 4, 0x200, 5, 1] 0) ∧
    (cmd0 [op0 2, 0x100, 0x200, 8] 0).Piece 3 0x100 false 0x100 (cmd0 [op0 2, 0x100, 0x200, 8] 0) :=
  ⟨by decide +kernel, piece0 _ _ _ dev_100.2, piece0 _ _ _ dev_100.1⟩

/-- An SCO image with one word of TEXT and one kernel; a launch record. -/
def image0 : List Byte :=
  (List.range 320).map fun i => BitVec.ofNat 8 (((
    [(0, 0x53), (1, 0x43), (2, 0x4F), (3, 0x01), (4, 3), (5, 2), (7, 8), (0x10, 1), (0x18, 4), (0x19, 1), (0x1C, 1), (0x1E, 1), (0x41, 1), (0x48, 8),
     (0x60, 0x20), (0x61, 1), (0x68, 0x20), (0x128, 1)] : List (Nat × Nat)).lookup i).getD 0)
def record0 : List Nat := [2 ^ 32, 2 ^ 32 + 2 ^ 16 + 1, 0x5000420000000000, 0x4000, 4096, 0, 0, 0, 1, 2, 3, 4, 5, 6, 7, 8]
def slaunchCmd (fuse : Word) : State :=
  let s := cmd0 [op0 1, 0x8000] 1
  { s with cp := { s.cp with contexts := [(1, { context0 with objs := [obj0] })] }, plat := { s.plat with fuseCounter := fuse } }
/-- Launch 1, of which nothing is placed. -/
def fresh0 : Launch := { launch0 with nextGang := 0, live := [0], stages := 1, args := List.replicate 8 0 }
def splace (l : Launch) : State := { State.reset with cp := { ({} : Cp) with contexts := [(1, context0)], launches := [l] } }
theorem witness_Launches :
    ((cmd0 [op0 7, 0, 256, 0x100, 5, 5] 1).command 3 7 = some [op0 7, 0, 256, 0x100, 5, 5, 0, 0] ∧
      isWaiting ((cmd0 [op0 7, 0, 256, 0x100, 5, 5] 1).readBytes 3 0 256) = true ∧ ((cmd0 [op0 7] 1).context 1).isSome ∧
      (let s := (cmd0 [op0 7, 0, 256, 0x100, 5, 5] 1).updQueue 3 fun q => { q with got := image0, moved := 320 }
       isGot (s.readBytes 3 0 320) = true ∧ s.writesOut 3 = false ∧ (s.queue 3).wfail = false ∧
        (s.finishLoad { queue := 3, ctx := 1, base := 0x100, codeId := 5, image := image0 }).isSome)) ∧
    loadStatus context0 0 (List.replicate 256 0) 5 5 ≠ none ∧ loadStatus context0 0 image0 5 0 = none ∧ loadStatus context0 0 image0 5 4 = none ∧
    imgAt image0 4 1 ≠ 16 ∧
    ((slaunchCmd 0).command 3 1 = some [op0 1, 0x8000, 0, 0, 0, 0, 0, 0] ∧ (slaunchCmd 0).cp.launches = [] ∧
      (match (slaunchCmd 0).launchStatus 3 record0 with
        | .ok l => l.gang == 5
        | .error _ => false) = true ∧
      (match (slaunchCmd 2).launchStatus 3 record0 with
        | .ok _ => false
        | .error _ => true) = true ∧ record0[2]? = some 0x5000420000000000) := by
  decide +kernel
theorem witness_Launches_gangs :
    (let s := splace fresh0
     s.launchOf 1 = some fresh0 ∧ fresh0.aborted = false ∧ s.restoreDue = false ∧ s.childDue = false ∧ (s.stageDue fresh0).isNone ∧
      s.nextGang fresh0 = some (0, [0]) ∧ 1 ≤ (State.freeAreas fresh0).length ∧ fresh0.args.length = 8 ∧ s.hartFree 0 = true ∧
      (s.placeNext fresh0).isSome ∧ (on blk0).hartFree 0 = false) ∧
    (let s := { (sq 56 { recs := List.replicate 16 rec0 } blk0) with ck := 5000 }
     s.pipelines 0 1 ≠ [] ∧ aget s.cp.evalAt 0 ≠ some (s.ck / 4096) ∧ s.pressedStage 2 0 = some 1 ∧ (sq 56 {} blk0).pressedStage 2 0 = none ∧
      { s with cores := (List.range 8).map fun c => (c, { ({} : Core) with failed := true }) }.clusterFree 0 = 0) ∧
    (let s := State.reset.setCp fun cp => { cp with clusterCtx := [(0, 1)] }
     (aget s.cp.clusterCtx 0).isSome = true ∧ s.clusterIdle 0 = true ∧ s.queuesEmpty 0 = true) ∧
    (let l := { launch0 with nextGang := 1, live := [0] }
     (splace l).launchOver l = true) ∧
    (∀ k ∈ [0, 3, 4], let s := on { blk0 with stop := k }
     State.stopEngines s.blk = s.blk ∧ State.unstopped s.blk = false ∧ s.blk.reads = [] ∧ s.blk.wait = none ∧ s.peerWriteOut 0 = false) ∧
    (let l := { fresh0 with areas := 0 }
     (splace l).nextGang l = none ∧ l.nextGang < State.gangCount l) := by
  decide +kernel
/-- A launch of PRIO 3 finds the device full: the harts of core 0 hold gangs of launch 1, every other core has failed. -/
def sfull : State :=
  let one := fun (k : Nat) => ({ blk0 with gang := k + 1 } : Block)
  { State.reset with
    ts := 60000
    blocks := (List.range 8).map fun k => (k, one k)
    cores := (List.range 159).map fun c => (c + 1, { ({} : Core) with failed := true })
    plat := { ({} : Platform) with savePoolS := 0x100000000 }
    cp := { ({} : Cp) with
      contexts := [(1, context0)]
      gangs := (List.range 8).map fun k => { gang0 with id := k + 1, members := [some k] }
      clusterCtx := [(0, 1)]
      launches := [launch0, { fresh0 with id := 2, prio := 3, order := 1, starvedAt := some 1000 }] } }
theorem witness_Launches_starved :
    sfull.nextGang { fresh0 with id := 2, prio := 3, order := 1, starvedAt := some 1000 } = none ∧ 1000 + 50000 ≤ sfull.ts ∧ sfull.cp.victims = [] ∧
    ((sfull.victimsFor { fresh0 with id := 2, prio := 3, order := 1, starvedAt := some 1000 }).map fun gs =>
      (sfull.asVictims 2 gs).isSome) = some true := by
  decide +kernel
/-- A victim that has stopped, and a saved gang. -/
def svictim (stop : Nat) : State :=
  let s := sbar { blk0 with stop := stop } 0
  { s with cp := { s.cp with victims := [{ hart := 0, gang := 1, launch := 2, pa := 0x100000, units := 400 }] }, plat := { ({} : Platform) with savePoolS := 0x100000000 } }
def saved0 : SavedGang := { gang := { gang0 with members := [some 0] }, prio := 0, order := 0, images := [some 0x100000], blks := [some { blk := blk0, slots := [], queues := [] }] }
theorem witness_Launches_victims :
    (((svictim 0).cp.victims.find? fun v => v.hart == 0).isSome ∧ ((svictim 0).gangOf 1).isSome ∧ ((svictim 0).blkAt 0).stop = 0) ∧
    (let s := svictim 1
     let b := s.blkAt 0
     State.stopEngines b = b ∧ State.unstopped b = false ∧ b.pend = [] ∧ State.stopsInWait b.wait = true ∧ (s.focus 0).quiescent .device = true ∧
      cdiv (imageOf (s.savedOf 0) (s.gangIndex b) b.pc b.estart).length 4096 ≤ 400 ∧ s.cp.saved = [] ∧ b.gangPos < 2) ∧
    (State.trapDue (svictim 0) 0 = none) ∧
    (let s := (splace launch0).setCp fun cp => { cp with saved := [saved0] }
     s.cp.saved[0]? = some saved0 ∧ s.offered saved0 = true ∧ s.badImages saved0 = true ∧ (saved0.blks.findSome? id).isSome) := by
  decide +kernel

/-- A QCFG word that enables a queue of context 1 with rings of 16 entries. -/
theorem witness_HostRegisters :
    (let q := (cmd0 [] 1).queue 3
     q.enable = true ∧ enablesAll 0x0F 0 3 = true ∧ enablesAll 0x07 0 3 = false ∧ q.records = []) ∧
    (let s := host0 { ({} : Queue) with log2size := 4, evlog2 := 4, ctx := 1 } []
     let c := ((s.queue 3).withCfg ({ (s.queue 3) with enable := true } : Queue).cfg)
     (s.queue 3).enable = false ∧ c.enable = true ∧ s.cfgOk c = true ∧ s.cfgOk { c with ctx := 9 } = false) ∧
    (State.reset.plat.rankSet = false ∧ enablesAny 0x01 0 1 = true ∧ State.reset.plat.rank = 0xFFFF ∧ (cmd0 [] 0).plat.rank ≠ 0xFFFF ∧
      ((cmd0 [] 0).plat.rank, ((cmd0 [] 0).plat.stgSeq + 1) % 65536) ∉ (cmd0 [] 0).plat.stgSeen) ∧
    ((on blk0).blkAt 1).placed = false ∧ ((on blk0).blkAt 0).placed = true ∧ ((on blk0).blkAt 0).ctl.haltstat.getLsbD 0 = false ∧
    ((on blk0).blkAt 0).ctl.haltstat.getLsbD 4 = false ∧
    (let s := on { blk0 with ctl := { ({} : Ctl) with haltstat := 0x0103 } }
     (s.blkAt 0).ctl.haltstat.getLsbD 0 = true ∧ s.imageReady 0 0x100000 = true ∧ State.drained (s.blkAt 0) = true) ∧
    (let s := on { blk0 with sq := [.store [(64, 8, 9)] .core false], ctl := { ({} : Ctl) with haltstat := 0x0103 } }
     s.imageReady 0 0x100000 = true ∧ State.drained (s.blkAt 0) = false) ∧ State.reset.imageReady 0 0x100000 = false ∧
    (0x400008 + 8) % 8 = 0 ∧ (0 : Nat) < State.msixCount 0 ∧ State.reset.cp.msixPend.contains (0, 0) = false ∧
    (State.reset.setCp fun cp => { cp with msixPend := [(0, 0)] }).cp.msixPend.contains (0, 0) = true ∧
    State.reset.plat.hostOut = none ∧ State.reset.plat.hostQ = [] ∧ 0x100 + 4 ≤ 0x00C000000000 := by
  decide +kernel

/-- A message of device 7, which context 1 allows, or of device 9; a request of hart 0 that waits for device 7. -/
def msg0 (src dst : Nat) (b : SxlBody) : SxlMsg := { src := src, dst := dst, tag := 6, hops := 0, body := b }
def speer (m : SxlMsg) : State :=
  { cmd0 [] 1 with
    blocks := [(0, { blk0 with wait := some .peer, pend := [{ pend0 false with id := 2 ^ 60 + 6, pa := 0x2000000000000 }] })]
    fab := { ({} : Fabric) with
      inbox := [{ port := 1, at_ := 0, msg := m }], routes := [(7, 1)]
      ports := [(1, { trained := true, up := true, peer := 7 }), (2, { trained := true, up := true, fails := 64 })]
      waits := [{ tag := 6, hart := 0, posted := false, dev := 7, addr := 64, clove := false }] } }
/-- The answer (t1, t2, t3) = (1000000, 1000130, 1000150) to a request of this device, at its timestamp 1000260 (R46). -/
def stell : State :=
  let s := speer (msg0 0 2 (.timeTell 1000000 1000130 1000150))
  { s with
    ts := 1000260
    plat := { s.plat with syncAsked := some 1000000 }
    fab := { s.fab with routes := [(0, 1)], inbox := s.fab.inbox.map fun x => { x with at_ := 1000260 } } }
theorem witness_PeerMessages :
    (let s := speer (msg0 7 2 (.write 64 [1] [true]))
     (s.takeMessage (msg0 7 2 (.write 64 [1] [true]))).map (fun x => x.1.port) = some 1 ∧ s.plat.rank = 2 ∧ s.fab.serving = [] ∧
      s.peerGranted 7 64 1 = true ∧ s.peerGranted 9 64 1 = false) ∧
    (let s := speer (msg0 7 2 (.resp 0 8 5))
     (s.takeMessage (msg0 7 2 (.resp 0 8 5))).isSome ∧ (s.fab.waits.find? fun w => w.tag == 6).isSome ∧
      (s.blkAt 0).wait = some .peer ∧ (s.blkAt 0).peerBad = none ∧ (s.blkAt 0).boundTo 4 = none) ∧
    (let s := speer (msg0 7 5 (.read 64 8))
     (s.takeMessage (msg0 7 5 (.read 64 8))).isSome ∧ (5 : Nat) ≠ s.plat.rank ∧ (s.port 1).trained = true ∧ (s.port 1).up = true ∧
      (s.port 1).rxSeq = 0 ∧ (s.port 2).up = true ∧ 64 ≤ (s.port 2).fails ∧ (s.port 1).fails < 64) ∧
    (let y : Serving := { id := 5, port := 1, msg := msg0 7 2 (.read 64 8) }
     let s := { speer (msg0 7 2 .clove) with ms := { ({} : MemSys) with inbox := [(.sxl 1, .resp 5 9 0)] } }.setFab fun f => { f with serving := [y] }
     s.ms.inbox = [(.sxl 1, .resp 5 9 0)] ∧ s.fab.serving.find? (fun y => y.id == 5) = some y) ∧
    (let m : StaggerMsg := { t0 := 1000, width := 250000, slots := 8, origin := 1, seq := 1 }
     let s := speer (msg0 7 2 (.stagger (State.staggerBytes m)))
     State.staggerOf (State.staggerBytes m) = m ∧ s.plat.stgSeen.contains (1, 1) = false ∧ s.plat.rank ≠ 0xFFFF) ∧
    (let s := stell
     s.plat.tsctlRoot = false ∧ s.plat.rank ≠ 0xFFFF ∧ s.fab.routeTo s.plat.tsctlRootDev = 1 ∧ 1 ∈ s.livePorts ∧ s.plat.syncAsked = some 1000000) ∧
    (stell.plat.syncAt + 1000000 ≤ stell.ts ∧ (stell.cp.contexts.map (·.1)).Nodup) := by
  decide +kernel

/-- A platform at the points that its rules name. -/
theorem witness_PlatformEvents :
    ((0, 30) ∈ [((0 : Nat), (30 : Nat)), (0x20, 40)] ∧ ∀ r ∈ [((0 : Nat), (30 : Nat)), (0x20, 40)], 30 ≤ r.2) ∧
    State.reset.plat.hours % 1000 = 0 ∧ linkLegal 3 16 = true ∧ linkLegal 0 16 = false ∧
    (let s := { State.reset with ts := 60000000000 }.setPlat fun p => { p with pendBin := 80, margin := 19, pendSince := some 0 }
     s.binDue = true ∧ s.blocks = [] ∧ 80 < s.plat.clkbin.toNat) ∧
    aperture (lineOf 64) = .device (lineOf 64) ∧ State.reset.ms.lockOf (lineOf 64) = none ∧
    (let r : RowInfo := { stack := 0, row := 5, score := 256, hotSince := some 0, copying := true }
     ([r] : List RowInfo).find? (State.isRow 0 5) = some r) ∧
    State.reset.plat.bootState ≠ 4 ∧ (cmd0 [] 0).plat.bootState = 4 := by
  decide +kernel

/-! ## Hypotheses met: traps, steps, encodings, invariants -/

def btrapS : Block := { blk0 with ctl := { ({} : Ctl) with tvec := 0x1001, tdeleg := 0xFFFFFE } }
theorem witness_TrapEntry :
    (btrapS.level = .k ∧ btrapS.ctl.tvec.getLsbD 0 = true ∧ btrapS.ctl.tdeleg.getLsbD Cause.align.code = true) ∧
    (blk0.ctl.tvec.getLsbD 0 = false ∧ ((slaunch blk0).launchOf blk0.launch).isSome ∧ ((slaunch blk0).blocks.map (·.1)).Nodup) ∧
    Runs (on bS) 7 [] ∧ (on bS).blk.parked = none ∧ (on bS).calmLanes (on bS).myCore ∧
    (let s := on { bS with trecs := [{ older .parked with pc := 8 }] }
     s.blk.parked.isSome ∧ s.blk.ctl.tepc &&& 7 = 0 ∧ s.blk.ctl.tepc ≠ 8) ∧
    (on { bS with ctl := { ({} : Ctl) with tepc := 4 } }).blk.ctl.tepc &&& 7 ≠ 0 :=
  ⟨by decide +kernel, by decide +kernel, runs rfl rfl rfl rfl _, by decide +kernel, by unfold State.calmLanes; decide +kernel, by decide +kernel,
   by decide +kernel⟩

/-- NOP, ADD with a literal, and a word that does not decode, at virtual address 0, in the instruction cache of core 0. -/
def sstep (d : BitVec 512) : State :=
  { on blk0 with schedule := [{ dt := 1, act := .issue 0 }], cores := [(0, { core0 with icache := [{ ctx := 1, vline := 0, line := 0, data := d }] })] }
def stepQ (s : State) : State :=
  ((((({ s with schedule := [] }.elapse 1).clearBubbles 0).noteIssue 0 0 [0]).focus 0).updBlk fun b => { b with wait := none })
def fetched (r : FetchRes) : Option Word := match r with
  | .ok w _ => some w
  | _ => none
theorem witness_StepRuns :
    (let s := sstep 0x3538000000000000
     let p := { s with schedule := [] }.elapse 1
     (p.core 0).failed = false ∧ (∀ j, j < 8 → j ≠ 0 → State.mayIssue (p.blkAt (8 * 0 + j)) = false) ∧ State.mayIssue (p.blkAt 0) = true ∧
      (match p.tryIssue 0 with
        | .issued _ => true
        | .held _ => false) = true ∧ (stepQ s).blk.rep = none ∧ State.bpHit (stepQ s).blk (stepQ s).blk.pc = none ∧
      fetched ((stepQ s).fetchWord 0 false) = some 0x3538000000000000 ∧ wordL 0x3538000000000000 = false ∧ (stepQ s).blk.pastFaults = true) ∧
    (let s := sstep 0x000000000000000500BC414000000000
     fetched ((stepQ s).fetchWord 0 false) = some 0x00BC414000000000 ∧ wordL 0x00BC414000000000 = true ∧
      fetched ((stepQ s).fetchWord 8 true) = some 5) ∧
    (let s := sstep 0xFFB8000000000000
     fetched ((stepQ s).fetchWord 0 false) = some 0xFFB8000000000000) ∧
    (opcodeIn 3 (wordOp 0x1138800000000000).toNat).isSome = true ∧
    (match (on blk0).translate .fetch 64 with
      | .ok x pa => x == page0 && pa == 64
      | _ => false) = true ∧ ((on blk0).core (on blk0).myCore).icFind 1 64 = none ∧ aperture 64 = .device 64 ∧ (on blk0).blk.pend = [] ∧
    ({ on blk0 with schedule := [{ dt := 1, act := Act.flaw (.x 0 5) }] } : State).schedule = [{ dt := 1, act := Act.flaw (.x 0 5) }] := by
  decide +kernel

theorem witness_RoundTrip : encode (.add false (fa 4 5 6 16)) = [0x00B8414600000010] ∧ (Instr.add false (fa 4 5 6 16)).wf = true ∧
    genOk 3 (.add false (fa 4 5 6 16)) = true ∧ vectorGm (.add false (fa 4 5 6 16)) = none ∧
    noLiteral (.add false (fa 4 5 6 16)) 0x00B8414600000010 = false := by
  decide +kernel

theorem witness_MemoryStaysCanonical : Memory.wf (sstep 0).ms.mem = true ∧ Memory.wf (sstep 0).ms.hostMem = true ∧
    (match step { State.reset with schedule := [{ dt := 1, act := .event .scoreHalving }] } with
      | .next _ => true
      | _ => false) = true := by
  decide +kernel

/-! ## One step against the spec's worked examples -/

/-- X4 and X8 after `X4 := X5 op y`, with X5 and the immediate given. -/
def x4 (p : FmtA → Instr) (x : Word) (imm : BitVec 32) : Word := (after1 (p (fa 4 5 0 imm)) (on (regs [(5, x)] blk0))).getX 4
/-- R332, worked results. -/
theorem test_div : x4 .div (-7) 2 = 0xFFFFFFFFFFFFFFFD ∧ x4 .rem (-7) 2 = -1 ∧ x4 .divn (-7) 2 = 0x7FFFFFFFFFFFFFFC ∧ x4 .div 9 0 = -1 := by
  decide +kernel
theorem test_word_forms : x4 (.add true) 0x7FFFFFFF 1 = 0xFFFFFFFF80000000 ∧ x4 (.shr true) 0xFFFFFFFF80000000 4 = 0x8000000 ∧
    x4 (.sar true) 0xFFFFFFFF80000000 4 = 0xFFFFFFFFF8000000 := by decide +kernel
theorem test_bits : x4 .bfx 0xF0A0 0x1C8 = -16 ∧ x4 .bfxn 0xF0A0 0x1C8 = 0xF0 ∧ x4 .mulhn (-1) (-1) = 0xFFFFFFFFFFFFFFFE := by decide +kernel
/-- R286, R297: X0 takes no write; an instruction moves the PC by 8, with a literal by 16. -/
theorem test_pc_and_x0 : (after1 (.add false (fa 0 5 6 1)) (on b56)).getX 0 = 0 ∧ (after1 (.add false (fa 4 5 6 1)) (on b56)).pc = 8 ∧
    (after1 (.add false { fa 4 5 6 0 with lit := some 100 }) (on b56)).pc = 16 ∧
    (after1 (.add false { fa 4 5 6 0 with lit := some 100 }) (on b56)).getX 4 = 112 := by decide +kernel
/-- R339, worked results: FADD.f32 of the greatest F32 and itself, under rne and rz. -/
theorem test_fadd :
    let s := on (regs [(5, 0x7F7FFFFF), (6, 0x7F7FFFFF)] blk0)
    (after1 (.fadd false (ff 4 5 6 0 0)) s).getX 4 = 0x7F800000 ∧ (after1 (.fadd false (ff 4 5 6 1 0)) s).getX 4 = 0x7F7FFFFF ∧
      (after1 (.fadd false (ff 4 5 6 0 0)) s).ctl.fctl = orFlags 0 (flagOF ||| flagNX) := by decide +kernel
/-- R244, worked example: F32 to E4M3 and E2M1 under RNE. -/
theorem test_convert :
    let c := fun (sat : Bool) dst x => convertElem 0x11 dst false { mode := 0, sat := sat } x
    c false 0x15 0x43960000 = (0x79, flagNX) ∧ c false 0x16 0x43960000 = (7, flagOF ||| flagNX) ∧ c false 0x15 0x43E60000 = (0x7E, flagNX) ∧
      c false 0x15 0x43EB0000 = (0x7F, flagOF ||| flagNX) ∧ c true 0x15 0x43EB0000 = (0x7E, flagOF ||| flagNX) ∧ c false 0x15 0x40200000 = (0x42, 0) ∧
      c false 0x16 0x40200000 = (4, flagNX) ∧ c false 0x16 0x40A00000 = (6, flagNX) := by decide +kernel
/-- R253, worked example: VRFSUM.f32 of 2^24, 1, 1, 1 with L = 16 is 16,777,218. -/
theorem test_vrfsum :
    let b := regs [(5, 4)] blk0
    let s := on (b.setV 5 0x3F8000003F8000003F8000004B800000)
    (after1 (.vrfsum { fv 0 5 0 1 0x11 0 with vl := 5, xs := 4 }) s).getX 4 = 0x4B800001 := by decide +kernel
/-- R295, worked example: VL = 40 leaves elements 40 to 63 of two lane groups alone. -/
theorem test_vl :
    let b := regs [(9, 40)] { blk0 with groups := [0, 1] }
    let s := on (((b.setV 5 (BitVec.allOnes 8192)).setV 6 0).setV 4 0)
    let r := (after1 (.vor { fv 4 5 6 0 0x05 0 with vl := 9 }) s).getV 4
    vGet r 32 39 = 0xFFFFFFFF ∧ vGet r 32 40 = 0 ∧ vGet r 32 63 = 0 := by decide +kernel
/-- R354: VADDS clamps and sets SO; R364: MSBF, MSOF. -/
theorem test_vadds :
    let s := on (blk0.setV 5 0x7F)
    vGet ((after1 (.vadds (fv 4 5 5 0 0x03 0)) s).getV 4) 8 0 = 0x7F ∧ (after1 (.vadds (fv 4 5 5 0 0x03 0)) s).ctl.fctl = orFlags 0 flagSO := by decide +kernel
theorem test_masks :
    let s := on (blk0.setM 1 0b10100)
    ((after1 (.msbf (fv 2 1 0 0 0x06 0)) s).getM 2).toNat = 0b11 ∧ ((after1 (.msof (fv 2 1 0 0 0x06 0)) s).getM 2).toNat = 0b100 ∧
      (after1 (.mfirst { fv 0 1 0 0 0x06 0 with xs := 4 }) s).getX 4 = 2 ∧ (after1 (.mpop { fv 0 1 0 0 0x06 0 with xs := 4 }) s).getX 4 = 2 := by
  decide +kernel
/-- R342, R343: CALLR reads its target before it writes its link; LOOP counts down. -/
theorem test_callr : (after1 (.callr (fa 5 0 5 0)) (on (regs [(5, 0x80)] blk0))).pc = 0x80 ∧ (after1 (.callr (fa 5 0 5 0)) (on (regs [(5, 0x80)] blk0))).getX 5 = 8 ∧
    (after1 (.loop { gm := 7, a := 5, k := 0, off := -24 }) (on { regs [(5, 2)] blk0 with pc := 24 })).pc = 0 ∧
    (after1 (.loop { gm := 7, a := 5, k := 0, off := -24 }) (on { regs [(5, 1)] blk0 with pc := 24 })).pc = 32 := by decide +kernel
/-- R265: TRAP enters the handler, with its operand in TINFO. -/
theorem test_trap :
    let b := after1 (.trap (fa 0 0 0 5)) (on { btrapS with pc := 16 })
    b.pc = 0x1000 ∧ b.level = .s ∧ b.ctl.tepc = 16 ∧ b.ctl.tinfo.toNat % 2 ^ 40 = 5 ∧ b.ctl.tcause.toNat % 256 = Cause.softtrap.code := by decide +kernel
/-- R412: a load in L1 sign-extends; a store waits in the queue. -/
theorem test_load : (after1 (.lds8 (fm 4 0 0 0 64)) scached).getX 4 = 7 ∧
    (after1 (.lds8 (fm 4 0 0 0 64)) { scached with cores := [(0, { core0 with l1 := [{ line1 with data := 0x80 }] })] }).getX 4 = 0xFFFFFFFFFFFFFF80 ∧
    (after1 (.st64 (fm 5 0 0 0 64)) (on b56)).sq = [.store [(64, 8, 5)] .core false] := by decide +kernel
/-- R109, worked example: 1,000 elements of 4 bytes over 128 lanes: the fourth grant is 232. -/
theorem test_strip :
    let b := { regs [(17, 232), (18, 0x1000), (22, 4)] blk0 with groups := [0, 1, 2, 3, 4, 5, 6, 7], stripPrev := 256, ctl := { ({} : Ctl) with stripb := 512 } }
    let t := after1 (.strip (fq 4 0 1 0 0)) (on b)
    t.getX 4 = 232 ∧ t.getX 17 = 0 ∧ t.getX 18 = 0x1000 + 928 ∧ t.getP 1 = true ∧ t.ctl.stripb = 768 := by decide +kernel
/-- R21, worked examples. -/
theorem test_interleave : stackOf 0x1A000 = 1 ∧ stackOffset 0x1A000 = 0x2000 ∧ stackOf 0x400123 = 8 ∧ stackOffset 0x400123 = 0x54123 := by decide +kernel
/-- R42, worked example: entry 3 has BASE 2 and device 0x11. -/
theorem test_peer_window :
    ({ peerWin := [(3, 0x8000000000200011 + 0)] } : Fabric).peerTarget (0x203412345678 - 0x200000000000) = some (0x11, 0x2412345678) := by decide +kernel
/-- R175, worked example: the indices of a virtual address. -/
theorem test_walk :
    let m := fun (l : Nat) => State.pteAddr { miss0 with va := 0x23456789ABCD, level := l }
    m 3 = 8 * 4 ∧ m 2 = 8 * 0x1A2 ∧ m 1 = 8 * 0x2CF ∧ m 0 = 8 * 0x4D := by decide +kernel
/-- R379, worked example: the records of an F16 operand take 3 units and 1 unit. -/
theorem test_units : Shape.units dPlane = 3 ∧ Shape.units dRow = 1 ∧ Shape.rows dPlane = 64 ∧ Shape.cols dPlane = 32 ∧ Shape.bad 3 dPlane = false := by
  decide +kernel
/-- R77, worked example: an area of 3,584 bytes. -/
theorem test_area : areaSize { obj0 with fixB := 1024, frameVb := 3, spillVb := 2 } 4 = 3584 := by decide +kernel
/-- R46, worked example: an offset of +10 ns. -/
theorem test_timesync :
    (match exec (.timesyncExchange 1000000 1000130 1000150) stell with
      | .next t => t.plat.lastOff == 10 && t.slew == 10
      | _ => false) = true := by decide +kernel
/-- R53, worked example: slot 5 of 8 releases at T0 + 1,250,000 ns. -/
theorem test_stagger :
    let m : StaggerMsg := { t0 := 1000, width := 250000, slots := 8, origin := 1, seq := 1 }
    (match exec (.stagger 1 m) ((speer (msg0 7 2 (.stagger (State.staggerBytes m)))).setPlat fun p => { p with rank := 13 }) with
      | .next t => t.plat.stgRelease == some 1251000
      | _ => false) = true := by decide +kernel
/-- R248, R391: one K-step of the two that `mma8` runs adds nothing when its operands are zero, and TZERO clears. -/
theorem test_tile_engine :
    (match exec (.microOpFinish 0 .matrix) (smma .running) with
      | .next t => ((t.blkAt 0).aname 48).map (·.elems[0]?) == some (some 5)
      | _ => false) = true ∧
    (match exec (.microOpFinish 0 .matrix) (withSlots { bmma with trecs := [{ tzero0 with phase := .running }] }) with
      | .next t => ((t.blkAt 0).aname 48).map (·.elems[0]?) == some (some 0)
      | _ => false) = true := by decide +kernel
/-- A read at its home answers its core, and the answer reaches X4 (R161, R412). -/
theorem test_home :
    (match exec (.homeAccess (stackOf 64)) (shome [(.stack (stackOf 64), .req (req0 (.read 8)))] []) with
      | .next t => t.ms.packets.map (fun p => (p.dst, p.msg)) == [(.core 0, .resp 5 0 0)]
      | _ => false) = true ∧
    (match exec (.responseArrival 0) (sanswer (.resp 5 9 0) { blk0 with pend := [pend0 false] }) with
      | .next t => (t.blkAt 0).getX 4 == 9 && (t.blkAt 0).pend.isEmpty
      | _ => false) = true := by decide +kernel
/-- R442: the second arrival of a barrier of count 2 completes its phase. -/
theorem test_barrier :
    (match exec (.barrierArrival 0) { sbar blk0 1 with barMsgs := [barReq (.arrive 0)] } with
      | .next t => ((t.gangOf 1).bind (·.bars[0]?)).map (fun b => (b.arrived, b.phase)) == some (0, true)
      | _ => false) = true := by decide +kernel

/-! ## Steps -/

/-- A step of core 0 runs the NOP at its hart's PC; an ill word raises ILLOP, which aborts a launch that delegates nothing (R306, R265). -/
theorem test_step :
    (match step (sstep 0x3538000000000000) with
      | .next t => (t.blkAt 0).pc == 8 && t.ck == 1
      | _ => false) = true ∧
    (match step { sstep 0xFFB8000000000000 with blocks := [(0, btrapS)] } with
      | .next t => (t.blkAt 0).pc == 0x1000 && (t.blkAt 0).ctl.tcause.toNat % 256 == Cause.illop.code
      | _ => false) = true := by decide +kernel
/-- The host's word functions: the worked word of R303 decodes, and runs as the next instruction. -/
theorem test_table_word : (decodeTableWord 64 0x0098414600000010).isSome = true ∧
    (match step (State.reset.withFetchWord 64 0x00B8414600000010) with
      | .next t => t.blk.getX 4 == 16 && t.ck == State.reset.ck + 1
      | _ => false) = true := by decide +kernel

/-- R58, R265: X5 with a parity error raises UNCORR at the instruction that reads it, which ends the block; one that writes it ends the error. -/
theorem test_register_error :
    (let s := (on blk0).strike (.x 0 5)
     (s.blk.flawX, (match exec (.add false (fa 4 5 6 0)) s with
       | .next t => (aget t.blocks 0).isNone
       | _ => false), (after1 (.add false (fa 5 6 6 0)) s).pc, (after1 (.add false (fa 5 6 6 0)) s).flawX)) =
    (0x20, true, 8, 0) := by decide +kernel

end Sys2Proof.Tests
end

section
/-! The corner cases of integer division, from the rule for every two-operand format A instruction. -/

namespace Sys2Proof.Machine

/-! ## Format A instructions with two operands -/

/-- The second operand, as an instruction that has begun reads it (R310). -/
theorem opened_yA {s : State} {f : FmtA} (h : s.blk.boundTo f.b = none) (lit : Option Word) :
    (s.opened lit).yA f = opA s.blk f := by
  rw [State.yA, opened_getX h, opA]

/-- A two-operand instruction that runs plainly completes; `value` is what its operation gives in this state (R327). -/
theorem scalarBin_runs {f : FmtA} {s : State} (h : Runs s f.gm [f.a, f.b, f.d]) {op : Word → Word → Word}
    {value : Block → Word} (hv : op (s.blk.getX f.a) (opA s.blk f) = value s.blk) :
    scalarBin f op s = .next (s.after f.lit fun b => b.setX f.d (value b)) := by
  have ha : s.blk.boundTo f.a = none := h.unbound f.a (by simp)
  have hb : s.blk.boundTo f.b = none := h.unbound f.b (by simp)
  have hd : s.blk.boundTo f.d = none := h.unbound f.d (by simp)
  rw [scalarBin, guarded_runs h (by simp) (by simp)]
  simp only [opened_getX ha, opened_yA hb, hv, opened_writeX_advance hd h.noRep, State.after]

/-! ## The four divisions (R247) -/

theorem exec_div (f : FmtA) (s : State) : exec (.div f) s = scalarBin f divS s := rfl
theorem exec_divn (f : FmtA) (s : State) : exec (.divn f) s = scalarBin f divU s := rfl
theorem exec_rem (f : FmtA) (s : State) : exec (.rem f) s = scalarBin f remS s := rfl
theorem exec_remn (f : FmtA) (s : State) : exec (.remn f) s = scalarBin f remU s := rfl

theorem divS_zero (a : Word) : divS a 0 = BitVec.allOnes 64 := if_pos rfl
theorem divU_zero (a : Word) : divU a 0 = BitVec.allOnes 64 := if_pos rfl
theorem remS_zero (a : Word) : remS a 0 = a := if_pos rfl
theorem remU_zero (a : Word) : remU a 0 = a := if_pos rfl

/-- The quotient 2^63 has no signed word; its low 64 bits are those of −2^63. -/
theorem divS_intMin_allOnes : divS (BitVec.intMin 64) (BitVec.allOnes 64) = BitVec.intMin 64 := by decide
theorem remS_intMin_allOnes : remS (BitVec.intMin 64) (BitVec.allOnes 64) = 0 := by decide

/-- Settles O5: each instruction is its operation under `scalarBin_runs`, and each corner case is the value of that operation. -/
theorem integerDivision : Obligations.IntegerDivision := by
  intro f s h
  refine ⟨fun hy => ⟨?_, ?_⟩, fun ha hy => ⟨?_, ?_⟩⟩
  · simp only [List.forall_mem_cons, exec_div, exec_divn]
    exact ⟨scalarBin_runs h (by rw [hy, divS_zero]), scalarBin_runs h (by rw [hy, divU_zero]), nofun⟩
  · simp only [List.forall_mem_cons, exec_rem, exec_remn]
    exact ⟨scalarBin_runs h (by rw [hy, remS_zero]), scalarBin_runs h (by rw [hy, remU_zero]), nofun⟩
  · rw [exec_div]
    exact scalarBin_runs h (by rw [ha, hy, divS_intMin_allOnes])
  · rw [exec_rem]
    exact scalarBin_runs h (by rw [ha, hy, remS_intMin_allOnes])

end Sys2Proof.Machine
end

section
/-! Comparisons under a condition code (R331): what SETP and SETX write, what each code compares, and the words of theirs that raise ILLOP. -/

namespace Sys2Proof.Machine

/-! ## Format A.f instructions that run plainly -/

/-- The second operand of format A.f, as an instruction that has begun reads it (R310). -/
theorem opened_yF {s : State} {f : FmtF} (h : s.blk.boundTo f.b = none) (lit : Option Word) :
    (s.opened lit).yF f = opF s.blk f := by
  rw [State.yF, opened_getX h, opF]

/-- P[n] is written and the instruction completes. -/
theorem opened_writeP_advance {s : State} (hr : s.blk.rep = none) (n : Nat) (v : Bool) (lit : Option Word) :
    ((s.opened lit).writeP n v).advance lit = s.after lit fun b => b.setP n v := by
  refine opened_upd_advance _ lit ?_ (by simp [hr])
  unfold Block.setP Block.opened
  split <;> rfl

theorem execSetp_runs {f : FmtF} {s : State} (h : Runs s f.gm [f.a, f.b]) :
    execSetp f s =
      .next (s.after f.lit fun b => b.setP f.d.toNat (cond f.fn.toNat (b.getX f.a) (opF b f))) := by
  have ha : s.blk.boundTo f.a = none := h.unbound f.a (by simp)
  have hb : s.blk.boundTo f.b = none := h.unbound f.b (by simp)
  rw [execSetp, guarded_runs h (by simp) (by simp)]
  simp only [opened_getX ha, opened_yF hb, opened_writeP_advance h.noRep, State.after]

theorem execSetx_runs {f : FmtF} {s : State} (h : Runs s f.gm [f.a, f.b, f.d]) :
    execSetx f s =
      .next (s.after f.lit fun b => b.setX f.d (if cond f.fn.toNat (b.getX f.a) (opF b f) then 1 else 0)) := by
  have ha : s.blk.boundTo f.a = none := h.unbound f.a (by simp)
  have hb : s.blk.boundTo f.b = none := h.unbound f.b (by simp)
  have hd : s.blk.boundTo f.d = none := h.unbound f.d (by simp)
  rw [execSetx, guarded_runs h (by simp) (by simp)]
  simp only [opened_getX ha, opened_yF hb, opened_writeX_advance hd h.noRep, State.after]

theorem exec_setp (f : FmtF) (s : State) : exec (.setp f) s = execSetp f s := rfl
theorem exec_setx (f : FmtF) (s : State) : exec (.setx f) s = execSetx f s := rfl

/-- A write of P7 is no write, for a predicate named by a six-bit field (R331). -/
theorem setP_field (b : Block) (d : BitVec 6) (v : Bool) : b.setP d.toNat v = if d = 7 then b else b.setP d.toNat v := by
  split
  · next h => rw [h]; exact Block.setP_seven b v
  · rfl

/-! ## Words that raise ILLOP -/

/-- Up to 0x0A4 the three generations read an opcode value alike (R317, R323, R325). -/
theorem opcodeIn_common (gen : Nat) {op : Nat} (h : op ≤ 0x0A4) : opcodeIn gen op = opcodeG3 op := by
  have h2 : toG3fromG2 op = some op := by simp only [toG3fromG2, show op < 0x110 by omega, show op < 0x10A by omega, if_true]
  have h1 : toG2fromG1 op = some op := by simp only [toG2fromG1, h, if_true]
  unfold opcodeIn
  split
  · rw [h1, Option.bind_some, h2, Option.bind_some]
  · split
    · rw [h2, Option.bind_some]
    · rfl

theorem opcodeIn_setp (gen : Nat) : opcodeIn gen 0x022 = some fun w l => .setp (decF w l) := opcodeIn_common gen (by decide)
theorem opcodeIn_setx (gen : Nat) : opcodeIn gen 0x023 = some fun w l => .setx (decF w l) := opcodeIn_common gen (by decide)

/-- A word that reads as an ill-formed instruction is rejected; the reason depends on what else is wrong with it (R316). -/
theorem decodeInstr_of_not_wf {gen : Nat} {w next : Word} {read : Word → Option Word → Instr}
    (hop : opcodeIn gen (wordOp w).toNat = some read) (hwf : ∀ l, (read w l).wf = false) :
    ∃ e, decodeInstr gen w next = .error e := by
  unfold decodeInstr
  rw [hop]
  generalize (if wordL w then some next else none) = l
  simp only [hwf l, Bool.not_false, if_true]
  split
  · exact ⟨_, rfl⟩
  · split <;> exact ⟨_, rfl⟩

/-- A word that reads as an ill-formed instruction raises ILLOP (R306, R316). -/
theorem runWord_of_not_wf {s : State} {w next : Word} {read : Word → Option Word → Instr} (hp : s.blk.pastFaults = true)
    (hop : opcodeIn s.blk.gen (wordOp w).toNat = some read) (hwf : ∀ l, (read w l).wf = false) :
    s.runWord w next = .next (s.takeTrap { cause := .illop } (wordL w)) := by
  obtain ⟨e, he⟩ := decodeInstr_of_not_wf (next := next) hop hwf
  simp only [State.runWord, hp, he, Bool.not_true, Bool.and_false, Bool.false_eq_true, if_false]

theorem decF_fn_toNat (w : Word) (l : Option Word) : (decF w l).fn.toNat = w.toNat / 2 ^ 28 % 16 := by
  simp [decF, BitVec.extractLsb'_toNat, Nat.shiftRight_eq_div_pow]
theorem decF_d_toNat (w : Word) (l : Option Word) : (decF w l).d.toNat = w.toNat / 2 ^ 44 % 64 := by
  simp [decF, BitVec.extractLsb'_toNat, Nat.shiftRight_eq_div_pow]

theorem setp_wf (f : FmtF) : (Instr.setp f).wf = (f.litOk && f.d < 8 && f.fn < 12) := rfl
theorem setx_wf (f : FmtF) : (Instr.setx f).wf = (f.litOk && f.fn < 12) := rfl

/-- SETP takes the predicates 0 to 7 and the codes 0 to 11 (R331). -/
theorem setp_not_wf {f : FmtF} (h : 12 ≤ f.fn.toNat ∨ 8 ≤ f.d.toNat) : (Instr.setp f).wf = false := by
  obtain hfn | hd := h
  · rw [setp_wf, decide_eq_false (BitVec.not_lt.2 hfn : ¬ f.fn < 12), Bool.and_false]
  · rw [setp_wf, decide_eq_false (BitVec.not_lt.2 hd : ¬ f.d < 8), Bool.and_false, Bool.false_and]

/-- SETX takes the codes 0 to 11 (R331). -/
theorem setx_not_wf {f : FmtF} (h : 12 ≤ f.fn.toNat) : (Instr.setx f).wf = false := by
  rw [setx_wf, decide_eq_false (BitVec.not_lt.2 h : ¬ f.fn < 12), Bool.and_false]

theorem runWord_setp_illop {s : State} {w : Word} (next : Word) (hp : s.blk.pastFaults = true) (hop : wordOp w = 0x022)
    (h : 12 ≤ w.toNat / 2 ^ 28 % 16 ∨ 8 ≤ w.toNat / 2 ^ 44 % 64) :
    s.runWord w next = .next (s.takeTrap { cause := .illop } (wordL w)) :=
  runWord_of_not_wf hp (by rw [hop]; exact opcodeIn_setp _) fun l => setp_not_wf (by rwa [decF_fn_toNat w l, decF_d_toNat w l])

theorem runWord_setx_illop {s : State} {w : Word} (next : Word) (hp : s.blk.pastFaults = true) (hop : wordOp w = 0x023)
    (h : 12 ≤ w.toNat / 2 ^ 28 % 16) : s.runWord w next = .next (s.takeTrap { cause := .illop } (wordL w)) :=
  runWord_of_not_wf hp (by rw [hop]; exact opcodeIn_setx _) fun l => setx_not_wf (by rwa [decF_fn_toNat w l])

/-- Settles O4: SETP and SETX complete by `execSetp_runs` and `execSetx_runs`, each code of `cond` is its comparison by definition,
and a word with a reserved code or predicate reads as an ill-formed instruction. -/
theorem comparisons : Obligations.Comparisons := by
  refine ⟨fun f s => ⟨fun h => ?_, fun h => ?_⟩, fun a y => ?_, fun w next s hp h => ?_⟩
  · simp only [exec_setp, execSetp_runs h, ← setP_field]
  · rw [exec_setx, execSetx_runs h]
  · exact ⟨rfl, decide_not.symm, rfl, rfl, rfl, rfl, rfl, rfl, rfl, rfl, decide_not.symm, rfl⟩
  · obtain ⟨hop, hbad⟩ | ⟨hop, hbad⟩ := h
    · exact runWord_setp_illop next hp hop hbad
    · exact runWord_setx_illop next hp hop hbad

end Sys2Proof.Machine
end
